-- ==== Sys2Proof/Word.lean ====
section
/-! DEFINITION. The word types of the Selkan 5120: station words and octets, 20-bit station addresses, panel rows
and lane numbers. -/

namespace Sys2Proof

/-- A station word: 16 bits, bit 15 most significant (spec/00_scope.md, "Words and bits"). -/
abbrev Word := BitVec 16

/-- An octet. -/
abbrev Byte := BitVec 8

/-- A 20-bit byte address of station memory (spec/00_scope.md, "Addresses"). -/
abbrev Addr := BitVec 20

/-- The cells of one panel row, one bit a column: bit `x` is column `x`, 0 to 511 (R1). -/
abbrev Cols := BitVec 512

/-- A panel row number, which is the y of its cells (spec/00_scope.md, "Coordinates"). -/
abbrev Row := Fin 512

/-- A lane number; it is the lane's priority, 0 highest (R48). -/
abbrev LaneNo := Fin 8

/-- The number of a spool slot; at most 32 slots (R154). -/
abbrev SlotNo := Fin 32

end Sys2Proof
end

