-- ==== Sys2Proof/Syntax.lean ====
section
/-! DEFINITION. The commands of the 5120: one constructor for each row of spec/opcode_table.json. -/

namespace Sys2Proof

/-- One step of the part, whole and indivisible (spec/95_what_each_step_holds.md). A drawing record carries no
operand: its words are read from the block in station memory (R87). Each row of the line receiver is one rising edge
of LCLK and carries the level sampled on LDAT. -/
inductive Instr
  /-- NUDGE: a POST of action 1 with this 5-bit operand (R57, R58). -/
  | nudge (operand : BitVec 5)
  /-- RESUME: a POST of action 2 (R57, R59). -/
  | resume (operand : BitVec 5)
  /-- CANCEL: a POST of action 3 (R57, R62, R63, R81). -/
  | cancel (operand : BitVec 5)
  /-- RETURN: a POST of action 4 whose operand is a slot number (R152). -/
  | returnSlot (slot : BitVec 5)
  /-- RUN: the RUN value of a CONTROL write (R174). -/
  | run (value : Bool)
  /-- PANEL_ON: the PANEL_ON value of a CONTROL write (R22). -/
  | panelOn (value : Bool)
  /-- LINE_ON: the LINE_ON value of a CONTROL write (R134, R135). -/
  | lineOn (value : Bool)
  /-- DRIVE_RESUME: a CONTROL write with DRIVE_RESUME 1 (R45). -/
  | driveResume
  /-- CLEAR: a CONTROL write with CLEAR 1 (R187). -/
  | clear
  /-- CAUSE_WRITE: a write of CAUSE (R180). -/
  | causeWrite (data : Word)
  /-- ENABLE_WRITE: a write of ENABLE (R181). -/
  | enableWrite (data : Word)
  /-- CLOCKL_READ: a read of CLOCKL (R163). -/
  | clocklRead
  /-- CLOCKH_READ: a read of CLOCKH (R164). -/
  | clockhRead
  /-- PORT_WRITE_IGNORED: a write of `data` to port word `word` that R57, R162 and R170 ignore. -/
  | portWriteIgnored (word : BitVec 3) (data : Word)
  /-- POWER_ON: VCC rises with RESET asserted; the operands are the levels at the strap pins (R185, R186). -/
  | powerOn (station : Byte) (segment : BitVec 4)
  /-- RESET: assertion of the RESET pin (R185). -/
  | reset
  /-- TICK: the end of a tick interval, with the expiries that come at it (R160, R161, R166). -/
  | tick
  /-- CLOCK_HOLD_RELEASE: the tick at which the release deadline of the clock hold expires (R163). -/
  | clockHoldRelease
  /-- WAIT_EXPIRY: the tick that brings the wait count of this lane to 0 (R64). -/
  | waitExpiry (lane : LaneNo)
  /-- DRAIN_TIMEOUT: the tick that brings the limit count of this lane to 0 (R65). -/
  | drainTimeout (lane : LaneNo)
  /-- MARKER_FLIP: the tick at which this marker's counter advance changes its on-state (R126). -/
  | markerFlip (marker : Fin 2)
  /-- RAMP_READY: the tick that takes a ramp to READY (R23). -/
  | rampReady
  /-- RAMP_FAILED: the tick that takes a ramp to FAILED (R24). -/
  | rampFailed
  /-- SUPOK_RISE: SUPOK rises (R23, R25). -/
  | supokRise
  /-- SUPOK_FALL: SUPOK falls (R25). -/
  | supokFall
  /-- PULSE_ISSUE: the column shift of a row pulse is complete and PREQ rises (R36). -/
  | pulseIssue
  /-- BULK_ISSUE: the column shift of a BULK pulse is complete and PREQ rises (R37). -/
  | bulkIssue
  /-- ROW_PDONE: PDONE answers a row pulse (R39). -/
  | rowPdone
  /-- BULK_PDONE: PDONE answers a BULK pulse (R40). -/
  | bulkPdone
  /-- PFAULT: PFAULT answers a row or BULK pulse (R41). -/
  | pfault
  /-- PULSE_TIMEOUT: the tick at which a row pulse's answer deadline expires (R43). -/
  | pulseTimeout
  /-- BULK_TIMEOUT: the tick at which a BULK pulse's answer deadline expires (R43). -/
  | bulkTimeout
  /-- MOVE record (R90). -/
  | move
  /-- POINT record (R91). -/
  | point
  /-- VECTOR record (R92, R93). -/
  | vector
  /-- One row of an AREA record (R94, R95). -/
  | area
  /-- One octet of a TEXT record (R117 to R121). -/
  | text
  /-- One pattern row of an IMAGE record (R96 to R99). -/
  | image
  /-- One row of a READBACK region (R100 to R103). -/
  | readback
  /-- CLEARALL record (R104). -/
  | clearall
  /-- SETMODE record (R105). -/
  | setmode
  /-- SETCLIP record (R106). -/
  | setclip
  /-- SETTEXT record (R116). -/
  | settext
  /-- GLYPHLOAD record (R113 to R115). -/
  | glyphload
  /-- MARK record (R107, R127). -/
  | mark
  /-- UNMARK record (R108, R128). -/
  | unmark
  /-- WAIT record (R64, R109). -/
  | wait
  /-- DRAIN record (R65, R110). -/
  | drain
  /-- SETTINGS_READ_END: the settings read of STARTING ends (R175 to R177). `late` is the RUN value of a CONTROL write
  taken after the read has ended and before the port looks at RUN for the last time (R176 step 5), if there is one. -/
  | settingsReadEnd (late : Option Bool)
  /-- HUNT_FLAG: an edge that completes a flag in HUNT (R138). -/
  | huntFlag (ldat : Bool)
  /-- HUNT_ABORT: an edge that completes an abort in HUNT with flag-seen set (R138). -/
  | huntAbort (ldat : Bool)
  /-- FRAME_OPEN: an edge that completes the first octet after a flag (R141). -/
  | frameOpen (ldat : Bool)
  /-- FRAME_OCTET: an edge that completes a further octet of an open frame (R142). -/
  | frameOctet (ldat : Bool)
  /-- FRAME_ABORT: an edge that completes an abort in FRAME (R143). -/
  | frameAbort (ldat : Bool)
  /-- FRAME_CLOSE: an edge that completes the closing flag of a frame (R145). -/
  | frameClose (ldat : Bool)
  /-- BREAK_ENTRY: an edge that forms the 32nd consecutive 0 bit in HUNT (R139). -/
  | breakEntry (ldat : Bool)
  /-- BREAK_END: an edge that forms a 1 bit in BREAK (R139). -/
  | breakEnd (ldat : Bool)
  /-- LCLK_RISING_EDGE: any rising edge of LCLK; `busy` says that the receiver is still taking an earlier event, so
  that the decoded bit waits in the bit buffer (R136). -/
  | lclkRisingEdge (ldat busy : Bool)
  /-- RESET_DEASSERTED: deassertion of RESET (R185, R186). -/
  | resetDeasserted
  deriving DecidableEq, Repr

end Sys2Proof
end

