-- ==== Sys2Proof/WellFormed.lean ====
section
/-! DEFINITION. Which commands a sender can form: the operand ranges of the postings (R57) and the port writes that the
row PORT_WRITE_IGNORED stands for (R57, R162, R170). -/

namespace Sys2Proof

/-- A POST word has an action, bits 7 to 5, and an operand, bits 4 to 0 (spec/11, 11.1). -/
def postAction (data : Word) : BitVec 3 := data.extractLsb' 5 3

/-- The operand of a POST word. -/
def postOperand (data : Word) : BitVec 5 := data.extractLsb' 0 5

/-- A POST that R57 ignores: an action code that is none of the four, or a lane operand from 8 to 31. -/
def postIgnored (data : Word) : Bool :=
  let a := postAction data
  a = 0 || 5 ≤ a.toNat || ((a = 1 || a = 2 || a = 3) && 8 ≤ (postOperand data).toNat)

/-- The port writes that change nothing (R170): STATE, CLOCKL, CLOCKH, port word 7 and the ignored postings. -/
def portWriteIsIgnored (word : BitVec 3) (data : Word) : Bool :=
  word = 2 || word = 5 || word = 6 || word = 7 || (word = 0 && postIgnored data)

/-- The commands a sender can form. -/
def Instr.wellFormed : Instr → Bool
  | .nudge operand => operand.toNat < 8
  | .resume operand => operand.toNat < 8
  | .cancel operand => operand.toNat < 8
  | .portWriteIgnored word data => portWriteIsIgnored word data
  | .returnSlot _ | .run _ | .panelOn _ | .lineOn _ | .driveResume | .clear | .causeWrite _ | .enableWrite _
  | .clocklRead | .clockhRead | .powerOn _ _ | .reset | .tick | .clockHoldRelease | .waitExpiry _ | .drainTimeout _
  | .markerFlip _ | .rampReady | .rampFailed | .supokRise | .supokFall | .pulseIssue | .bulkIssue | .rowPdone
  | .bulkPdone | .pfault | .pulseTimeout | .bulkTimeout | .move | .point | .vector | .area | .text | .image | .readback
  | .clearall | .setmode | .setclip | .settext | .glyphload | .mark | .unmark | .wait | .drain | .settingsReadEnd _
  | .huntFlag _ | .huntAbort _ | .frameOpen _ | .frameOctet _ | .frameAbort _ | .frameClose _ | .breakEntry _
  | .breakEnd _ | .lclkRisingEdge _ _ | .resetDeasserted => true

end Sys2Proof
end

