-- ==== Sys2Proof/Decode.lean ====
section
/-! DEFINITION. The commands that a word spells by the table's bits: no row of spec/opcode_table.json gives bits (every
row's `fields` is empty and it has no match or mask), so no word spells one. And the commands that an access of a port word
forms by the positions of spec/11, 11.1. -/

namespace Sys2Proof

/-- The command a word of `nbits` bits spells by the table's bits: none, since no row of the table gives bits. -/
def decodeTableWord (_nbits _w : Nat) : Option Instr := none

/-! ## Port accesses (R57, R170, R172, R188) -/

/-- The command of a write of POST: the action in bits 7 to 5 with the operand in bits 4 to 0, other bits ignored; an
ignored posting is the row PORT_WRITE_IGNORED (R57, R188). -/
def postCommand (data : Word) : Instr :=
  if postIgnored data then .portWriteIgnored 0 data
  else
    match (postAction data).toNat with
    | 1 => .nudge (postOperand data)
    | 2 => .resume (postOperand data)
    | 3 => .cancel (postOperand data)
    | _ => .returnSlot (postOperand data)

/-- The commands of a write of CONTROL: CLEAR, bit 15, alone; else RUN, PANEL_ON and LINE_ON, bits 0 to 2, and DRIVE_RESUME
if bit 14 is 1, other bits ignored (R172, R188). R172 gives the fields no order: the model's order puts PANEL_ON before
DRIVE_RESUME, so that a write with PANEL_ON 0 starts no pulse (R45; log 14). -/
def controlCommands (data : Word) : List Instr :=
  if data.getLsbD 15 then [.clear]
  else
    [.run (data.getLsbD 0), .panelOn (data.getLsbD 1), .lineOn (data.getLsbD 2)]
      ++ if data.getLsbD 14 then [.driveResume] else []

/-- The commands of a write of `data` to port word `word` (R170). -/
def portWriteCommands (word : BitVec 3) (data : Word) : List Instr :=
  match word.toNat with
  | 0 => [postCommand data]
  | 1 => controlCommands data
  | 3 => [.causeWrite data]
  | 4 => [.enableWrite data]
  | _ => [.portWriteIgnored word data]

/-- The command of a read of a port word; a read of another word than CLOCKL and CLOCKH has no side effect (R170). -/
def portReadCommands (word : BitVec 3) : List Instr :=
  match word.toNat with
  | 5 => [.clocklRead]
  | 6 => [.clockhRead]
  | _ => []

end Sys2Proof
end

