-- ==== Sys2Proof/Config.lean ====
section
/-! DEFINITION. What the implementation of the part fixes and the spec does not give (free constants, with no body),
and the values the model itself chose for what the spec leaves open (each named in notes/assumptions). -/

namespace Sys2Proof

/-- FREE VALUE (log 1). The octet of glyph row `row` of code `code` of glyph set 0, for codes 33 to 126: "a fixed
parameter of the part" that R112 does not give. Bit 7 is glyph column 0. The limits R112 does give are laid over it
where the glyph store is read (`fixedGlyphRow`). -/
opaque Config.glyphOctet (code row : Nat) : Byte

/-- FREE VALUE (log 2). The level CSCK rests at after a column shift; R29 gives it only for reset. -/
opaque Config.csckAtRest : Bool

/-- DESIGN CHOICE (log 3, unsafe). What a byte of station memory that nothing has written reads as. -/
def Config.unwrittenByte : Byte := 0

/-- DESIGN CHOICE (log 4, unsafe). The level of the station address straps in `State.reset`. -/
def Config.stationStraps : Byte := 0

/-- DESIGN CHOICE (log 4, unsafe). The level of the exchange segment straps in `State.reset`. -/
def Config.segmentStraps : BitVec 4 := 0

/-- DESIGN CHOICE (log 5, unsafe). The level of the SUPOK pin in `State.reset`. -/
def Config.supokAtReset : Bool := false

/-- DESIGN CHOICE (log 6, unsafe). The word on the port's data lines before the first port read. -/
def Config.readDataAtReset : Word := 0

/-- DESIGN CHOICE (log 7). How many choices of the render engine are followed inside one event. -/
def Config.choicesPerEvent : Nat := 4096

end Sys2Proof
end

