-- ==== Sys2Proof/Machine/State.lean ====
section
/-! DEFINITION. The state of the 5120 as plain data, and the state right after reset. The ten blocks of
spec/00_scope.md are laid out as two halves that meet in few places: `Work` (port, lane unit with the render engine's
progress, line receiver, timebase, and the station memory they read and write) and `Panel` (plane store, marker unit,
pulse driver, supply monitor); the glyph store stands beside them. -/

namespace Sys2Proof.Machine

/-! ## Named values -/

/-- The engine state (R173). -/
inductive EngineState | halted | starting | running | stopping
  deriving DecidableEq, Repr

/-- The supply state (R21). -/
inductive SupplyState | off | ramping | ready | failed
  deriving DecidableEq, Repr

/-- The driver state (R29). -/
inductive DriverState | idle | firing | bulk | stalled
  deriving DecidableEq, Repr

/-- The line state (R134). `inBreak` is BREAK. -/
inductive LineState | off | hunt | frame | inBreak
  deriving DecidableEq, Repr

/-- The lane state (R55). -/
inductive LaneState | idle | ready | active | waiting | draining | parked | held | faulted
  deriving DecidableEq, Repr

/-- The row state (R7), which `rowState` forms from the row queue and the pulse outstanding. -/
inductive RowState | clean | queued | firing
  deriving DecidableEq, Repr

/-- The outcome of a block (R52). -/
inductive BlockOutcome | notYet | done | badRecord | memory | fence | cancelled | timeout | purged
  deriving DecidableEq, Repr

/-- The mode of a lane context (R85). -/
inductive DrawMode | set | clear | replace | invert
  deriving DecidableEq, Repr

/-- The state of a spool slot (R155). -/
inductive SlotState | free | filling | queued | running | passed
  deriving DecidableEq, Repr

/-- The kind of a pulse (R29). -/
inductive PulseKind | write | erase | bulk
  deriving DecidableEq, Repr

/-- The kind of the last reset (R179, R185). -/
inductive StartCause | power | pin | clear
  deriving DecidableEq, Repr

/-- The reason a frame was discarded (R147). -/
inductive LossReason | full | abort | align | short | long | crc | format | memory
  deriving DecidableEq, Repr

/-- The causes (R180), in the order of their bits in CAUSE. -/
inductive Cause
  | blockDone | laneHeld | laneFault | settled | supply | driveFault | linePass | lineLoss | lineGap | lineBreak | setup
  | memory
  deriving DecidableEq, Repr

/-- The unit that made a failed station memory access (R183). -/
inductive MemUnit | engine | line | lane
  deriving DecidableEq, Repr

/-- The kind of a failed access (R183): PARITY or NO ANSWER. -/
inductive BusFailure | parity | noAnswer
  deriving DecidableEq, Repr

/-- The reason in a lane fault reason word (R50). -/
inductive LaneFaultReason | badLink | memory
  deriving DecidableEq, Repr

/-- The setup reason of the header (R179). -/
inductive SetupReason | none | budget | fence | spool | memory
  deriving DecidableEq, Repr

/-- The sixteen kinds of record, in the order of their codes (spec/11, 11.4). -/
inductive RecordKind
  | move | point | vector | area | text | image | readback | clearall | setmode | setclip | settext | glyphload | mark
  | unmark | wait | drain
  deriving DecidableEq, Repr

/-- What an edge of LCLK completes: the eight named rows of the line receiver. -/
inductive LineEvent
  | huntFlag | huntAbort | frameOpen | frameOctet | frameAbort | frameClose | breakEntry | breakEnd
  deriving DecidableEq, Repr

/-! ## Station memory and the station bus -/

/-- Station memory: address and octet pairs, addresses strictly rising, no entry equal to
`Config.unwrittenByte`. -/
abbrev Memory := List Host.Cell

/-- How the station bus ends one access of the 5120 (R183). `cutOff` stands for a reset taken before this access: "no
further cycle is begun" (R185), so that access and all later ones of the event are not made. -/
inductive BusAnswer
  | completes
  /-- PERR asserted: a read fails, a write is not affected. -/
  | parity
  /-- BTO asserted: the access fails; a failed write may or may not have stored its word. -/
  | noAnswer (stored : Bool)
  | cutOff
  deriving DecidableEq, Repr

/-- One turn of the station bus: the octets other masters store before the 5120's next access, and how that access
ends. -/
structure BusTurn where
  stores : List (Addr × Byte)
  answer : BusAnswer
  deriving DecidableEq, Repr

/-! ## Port and timebase -/

/-- The clock hold while it is held (R163): the held high half and the ticks left of its release deadline. -/
structure ClockHold where
  value : Word
  ticks : Nat
  deriving DecidableEq, Repr

/-- The fence in force (R101): addresses at least `low` and less than `high`. -/
structure Fence where
  low : Addr
  high : Addr
  deriving DecidableEq, Repr

/-- The port: CONTROL, ENABLE, the engine state, the clock hold, the strap latches and the settings it keeps. CAUSE,
which every block sets, stands in `Work`. -/
structure Port where
  run : Bool
  panelOn : Bool
  lineOn : Bool
  engine : EngineState
  enable : BitVec 12
  hold : Option ClockHold
  /-- The word the port put on the data lines at the last read of CLOCKL or CLOCKH. -/
  readData : Word
  /-- The latched straps (R186). -/
  station : Byte
  segment : BitVec 4
  /-- The levels at the strap pins. -/
  stationPins : Byte
  segmentPins : BitVec 4
  startCause : StartCause
  fence : Option Fence
  /-- RESET is asserted: every block is held in its reset state (R185). -/
  resetAsserted : Bool
  deriving DecidableEq, Repr

/-- The timebase (R160, R162). `interval` is the reference periods counted of the interval in progress, none before
the first edge of REF32 after a reset. -/
structure Timebase where
  accumulator : Nat
  interval : Option Nat
  clock : BitVec 32
  deriving DecidableEq, Repr

/-! ## Lane unit and render engine -/

/-- The drawing fields of a lane context (R72). -/
structure Context where
  penX : Word
  penY : Word
  mode : DrawMode
  clipX0 : Nat
  clipY0 : Nat
  clipX1 : Nat
  clipY1 : Nat
  glyphSet : Fin 4
  scale : Nat
  wrap : Bool
  deriving DecidableEq, Repr

/-- A record suspended inside its work: its fields as read and its sub-progress (R74). -/
inductive RecordInHand
  | area (x y : Int) (w h rowsDone : Nat)
  | image (x y : Int) (w h : Nat) (source : Addr) (stride rowsDone : Nat)
  | readback (x y w h : Nat) (target : Addr) (stride rowsDone : Nat)
  | text (octets : List Byte) (taken : Nat)
  deriving DecidableEq, Repr

/-- The progress of the block in hand (R74). The block's address is the lane's current block address. -/
structure Progress where
  bodyLength : Nat
  signal : Bool
  stop : Bool
  fresh : Bool
  ordinal : Nat
  /-- The next word of the body. -/
  nextWord : Nat
  inHand : Option RecordInHand
  /-- The point after a WAIT or DRAIN that completed outside ACTIVE has still to be taken (R69). -/
  pointOwed : Bool
  cells : Nat
  waitCount : Nat
  limit : Option Nat
  deriving DecidableEq, Repr

/-- One lane (R48). -/
structure Lane where
  state : LaneState
  context : Context
  progress : Progress
  /-- The current block address (R49). -/
  current : Addr
  nudgePending : Bool
  resumePending : Bool
  cancelRequested : Bool
  retireCount : Word
  lastOutcome : BlockOutcome
  deriving DecidableEq, Repr

/-- The lane unit (R48, R56): the eight lanes, and the active lane field of STATE with its valid bit. -/
structure LaneUnit where
  lane : Vector Lane 8
  activeNo : LaneNo
  activeValid : Bool
  deriving DecidableEq, Repr

/-! ## Line receiver -/

/-- The spool geometry in force (R154). -/
structure Spool where
  base : Addr
  size : Nat
  count : Nat
  deriving DecidableEq, Repr

/-- A group code of the settings record with its enable (R149). -/
structure GroupCode where
  code : Byte
  enabled : Bool
  deriving DecidableEq, Repr

/-- The line settings in force (R159). -/
structure LineSettings where
  nrzi : Bool
  crc32 : Bool
  breakPurge : Bool
  groups : List GroupCode
  deriving DecidableEq, Repr

/-- A bit of the window, with the mark of a flag's final 0 (R137). -/
structure WindowBit where
  bit : Bool
  flagEnd : Bool
  deriving DecidableEq, Repr

/-- The frame in assembly (R141). -/
structure Frame where
  /-- The FILLING slot, or none while the frame is skipped. -/
  slot : Option SlotNo
  head : List Byte
  delay : List Byte
  /-- Payload octets written into the slot. -/
  stored : Nat
  /-- The first octet of a pair that is not yet complete (R142). -/
  half : Option Byte
  octets : Nat
  bits : Word
  long : Bool
  crc : BitVec 32
  deriving DecidableEq, Repr

/-- An entry of lane 3's list of pending slots, with the payload count the receiver recorded (R78). -/
structure PendingSlot where
  slot : SlotNo
  octets : Nat
  deriving DecidableEq, Repr

/-- The line receiver (R133). -/
structure LineReceiver where
  state : LineState
  flagSeen : Bool
  /-- The NRZI reference level, none while it is unset. -/
  reference : Option Bool
  window : List WindowBit
  /-- Consecutive data 1 bits. -/
  ones : Nat
  /-- Consecutive decoded 0 bits. -/
  zeros : Nat
  /-- Data bits of the octet in progress, first taken first. -/
  octetBits : List Bool
  buffer : List Bool
  frame : Option Frame
  /-- The expected sequence, none for NONE. -/
  expected : Option Byte
  slots : Vector SlotState 32
  /-- The QUEUED and RUNNING slots in arrival order (R155). -/
  pendingSlots : List PendingSlot
  purgeRequested : Bool
  spool : Option Spool
  settings : Option LineSettings
  accepted : Word
  losses : Nat
  gaps : Nat
  gapExpected : Byte
  gapReceived : Byte
  lastArrival : Word
  breakFlag : Bool
  deriving DecidableEq, Repr

/-- The half of the state that works on station memory: the station bus and memory, CAUSE, the port, the timebase, the
lane unit with the render engine's progress, and the line receiver. -/
structure Work where
  mem : Memory
  /-- The turns the station bus still brings; past its end every access completes and nobody else stores. -/
  bus : List BusTurn
  cause : BitVec 12
  port : Port
  time : Timebase
  lanes : LaneUnit
  line : LineReceiver
  deriving DecidableEq, Repr

/-! ## Plane store, marker unit, pulse driver and supply monitor -/

/-- A plane: 512 rows of 512 one-bit cells (spec/01, 1.1). -/
abbrev Plane := Vector Cols 512

/-- One marker (R124). -/
structure Marker where
  active : Bool
  x : Nat
  y : Nat
  w : Nat
  h : Nat
  period : Nat
  onTime : Nat
  counter : Nat
  on : Bool
  deriving DecidableEq, Repr

/-- The pulse outstanding (R29). `deadline` is none until PREQ rises. -/
structure Pulse where
  kind : PulseKind
  row : Option Row
  selection : Cols
  count : Nat
  deadline : Option Nat
  deriving DecidableEq, Repr

/-- The pulse driver (R29) and the lines of the drive port that hold a level of their own; PREQ and PK1–PK0 follow
from the pulse outstanding (`preq`, `pulseKindLines`). -/
structure Driver where
  state : DriverState
  pulse : Option Pulse
  budget : Nat
  /-- ROW8–ROW0. -/
  rowLines : BitVec 9
  /-- The columns last shifted out on CSD, column 0 first (R36). -/
  shifted : Cols
  csck : Bool
  csd : Bool
  deriving DecidableEq, Repr

/-- The supply monitor (R21), with the level of SUPOK. The ramp count is 0 while it is not kept. -/
structure Supply where
  state : SupplyState
  ramp : Nat
  supok : Bool
  deriving DecidableEq, Repr

/-- The half of the state that works on the glass: the three planes, the row queue, the bulk request, the settled flag,
the two markers, the pulse driver and the supply monitor. -/
structure Panel where
  drawn : Plane
  panel : Plane
  doubt : Plane
  queue : List Row
  bulkRequest : Bool
  settled : Bool
  markers : Vector Marker 2
  driver : Driver
  supply : Supply
  deriving DecidableEq, Repr

/-- A glyph: 16 rows of 8 cells, each row an octet with bit 7 glyph column 0 (R111, R114). -/
abbrev Glyph := Vector Byte 16

/-- The loadable glyph sets 1 to 3, 96 glyphs each (R111); set 0 is `fixedGlyphRow`. -/
abbrev GlyphStore := Vector (Vector Glyph 96) 3

/-- The whole machine, and the commands waiting, first in, first out. -/
structure State where
  pending : List Instr
  work : Work
  panel : Panel
  glyphs : GlyphStore
  deriving DecidableEq, Repr

/-- Reasons a step stops with a fault: none. Each event of the spec leads to a next state (log 8), so no constructor is
raised by anything. -/
inductive Fault
  deriving DecidableEq, Repr

/-- Reasons a step is refused. -/
inductive Refusal
  /-- A command that has no meaning yet, by its mnemonic. Raised only by a refused arm of `exec`; safe: the model stops
  where the part goes on. No arm is refused at present. -/
  | notModelled (mnemonic : String)
  deriving DecidableEq, Repr

/-! ## Reset values -/

/-- The defaults of the drawing fields (R72). -/
def Context.defaults : Context where
  penX := 0
  penY := 0
  mode := .set
  clipX0 := 0
  clipY0 := 0
  clipX1 := 511
  clipY1 := 511
  glyphSet := 0
  scale := 1
  wrap := true

/-- No progress: what is left when the progress is discarded (R74). -/
def Progress.none : Progress where
  bodyLength := 0
  signal := false
  stop := false
  fresh := false
  ordinal := 0
  nextWord := 0
  inHand := Option.none
  pointOwed := false
  cells := 0
  waitCount := 0
  limit := Option.none

/-- A lane after reset (R48). -/
def Lane.reset : Lane where
  state := .idle
  context := Context.defaults
  progress := Progress.none
  current := 0
  nudgePending := false
  resumePending := false
  cancelRequested := false
  retireCount := 0
  lastOutcome := .notYet

/-- The lane unit after reset (R48, R56). -/
def LaneUnit.reset : LaneUnit where
  lane := Vector.replicate 8 Lane.reset
  activeNo := 0
  activeValid := false

/-- The line receiver after reset (R133). -/
def LineReceiver.reset : LineReceiver where
  state := .off
  flagSeen := false
  reference := none
  window := []
  ones := 0
  zeros := 0
  octetBits := []
  buffer := []
  frame := none
  expected := none
  slots := Vector.replicate 32 .free
  pendingSlots := []
  purgeRequested := false
  spool := none
  settings := none
  accepted := 0
  losses := 0
  gaps := 0
  gapExpected := 0
  gapReceived := 0
  lastArrival := 0
  breakFlag := false

/-- The timebase after reset (R160, R162). -/
def Timebase.reset : Timebase where
  accumulator := 0
  interval := none
  clock := 0

/-- An inactive marker (R124). -/
def Marker.reset : Marker where
  active := false
  x := 0
  y := 0
  w := 0
  h := 0
  period := 0
  onTime := 0
  counter := 0
  on := false

/-- The pulse driver after reset (R29). -/
def Driver.reset : Driver where
  state := .idle
  pulse := none
  budget := 32
  rowLines := 0
  shifted := 0
  csck := false
  csd := false

/-- A plane of 0 cells. -/
def Plane.dark : Plane := Vector.replicate 512 0

/-- The plane store, marker unit, pulse driver and supply monitor after reset (R1 to R3, R9, R16, R18, R21, R29,
R124), with the level of the SUPOK pin. -/
def Panel.reset (supok : Bool) : Panel where
  drawn := Plane.dark
  panel := Plane.dark
  doubt := Plane.dark
  queue := []
  bulkRequest := false
  settled := true
  markers := Vector.replicate 2 Marker.reset
  driver := Driver.reset
  supply := { state := .off, ramp := 0, supok := supok }

/-- The loadable glyph sets after reset: every cell 0 (R111). -/
def GlyphStore.reset : GlyphStore := Vector.replicate 3 (Vector.replicate 96 (Vector.replicate 16 0))

/-- The machine right after a power-on reset has ended, with the straps latched and nothing waiting (R185). Each field
has the value its block's reset rule gives; the strap levels, the SUPOK level, the port's data lines and unwritten
station memory have the values the log names. -/
def State.reset : State where
  pending := []
  work :=
    { mem := []
      bus := []
      cause := 0
      port :=
        { run := false
          panelOn := false
          lineOn := false
          engine := .halted
          enable := 0
          hold := none
          readData := Config.readDataAtReset
          station := Config.stationStraps
          segment := Config.segmentStraps
          stationPins := Config.stationStraps
          segmentPins := Config.segmentStraps
          startCause := .power
          fence := none
          resetAsserted := false }
      time := Timebase.reset
      lanes := LaneUnit.reset
      line := LineReceiver.reset }
  panel := Panel.reset Config.supokAtReset
  glyphs := GlyphStore.reset

end Sys2Proof.Machine
end

