-- ==== Sys2Proof/Machine/Operands.lean ====
section
/-! DEFINITION. The fields of station words, records and port words, and the codes the 5120 writes (spec/11): where a
layout assigns bits to a field the field is formed from them, and other bits are ignored (R188). -/

namespace Sys2Proof.Machine

/-! ## Addresses -/

/-- A 20-bit address from its two words: bits 3 to 0 of the second word are address bits 19 to 16 (R188). -/
def address20 (low high : Word) : Addr := high.extractLsb' 0 4 ++ low

/-- The low word of an address. -/
def addressLow (a : Addr) : Word := a.extractLsb' 0 16

/-- The high word of an address: bits 15 to 4 are written 0 (R189). -/
def addressHigh (a : Addr) : Word := (a.extractLsb' 16 4).setWidth 16

/-- The byte address of the word that holds `a`: a word lies at an even byte address (spec/00_scope.md). -/
def wordAddress (a : Addr) : Nat := 2 * (a.toNat / 2)

/-- Is this address even? -/
def addressEven (a : Addr) : Bool := a.toNat % 2 = 0

/-- `a` plus a byte offset, modulo 100000H (R51, R97). -/
def addressPlus (a : Addr) (offset : Nat) : Addr := a + BitVec.ofNat 20 offset

/-! ## Head words and record fields -/

/-- The kind of a head word: its upper four bits (spec/11, 11.4). -/
def recordKind (head : Word) : RecordKind :=
  match (head.extractLsb' 12 4).toNat with
  | 0 => .move
  | 1 => .point
  | 2 => .vector
  | 3 => .area
  | 4 => .text
  | 5 => .image
  | 6 => .readback
  | 7 => .clearall
  | 8 => .setmode
  | 9 => .setclip
  | 10 => .settext
  | 11 => .glyphload
  | 12 => .mark
  | 13 => .unmark
  | 14 => .wait
  | _ => .drain

/-- The immediate of a head word: its lower twelve bits. -/
def recordImmediate (head : Word) : BitVec 12 := head.extractLsb' 0 12

/-- The length of a record in words, its head included (spec/04, the table of kinds; R117 for TEXT). -/
def recordLength (k : RecordKind) (imm : BitVec 12) : Nat :=
  match k with
  | .move | .point | .vector | .area => 3
  | .text => 1 + (imm.toNat + 1) / 2
  | .image | .readback | .mark => 6
  | .clearall | .setmode | .settext | .unmark => 1
  | .setclip => 5
  | .glyphload => 4
  | .wait | .drain => 2

/-- The kind of the record that is suspended inside its work. -/
def RecordInHand.kind : RecordInHand → RecordKind
  | .area .. => .area
  | .image .. => .image
  | .readback .. => .readback
  | .text .. => .text

/-- Word `i` of the words after the head, 0 where the record has no such word. -/
def fieldWord (ws : List Word) (i : Nat) : Word := ws.getD i 0

/-- A field read as an unsigned number (R188). -/
def fieldNat (ws : List Word) (i : Nat) : Nat := (fieldWord ws i).toNat

/-- A coordinate field, read as a signed number (R188). -/
def fieldInt (ws : List Word) (i : Nat) : Int := (fieldWord ws i).toInt

/-- The words a row of `w` cells takes: ⌈w/16⌉ (R97). -/
def rowWords (w : Nat) : Nat := (w + 15) / 16

/-- The mode of a SETMODE code (R85). -/
def drawMode (code : Nat) : DrawMode :=
  match code with
  | 0 => .set
  | 1 => .clear
  | 2 => .replace
  | _ => .invert

/-- The octets of a TEXT record's words, upper octet first, cut to `n` (R117). -/
def textOctets (n : Nat) (ws : List Word) : List Byte :=
  (ws.flatMap fun w => [w.extractLsb' 8 8, w.extractLsb' 0 8]).take n

/-! ## Codes -/

/-- The engine field of STATE (spec/11, 11.1). -/
def EngineState.code : EngineState → BitVec 2
  | .halted => 0
  | .starting => 1
  | .running => 2
  | .stopping => 3

/-- The supply field of STATE. -/
def SupplyState.code : SupplyState → BitVec 2
  | .off => 0
  | .ramping => 1
  | .ready => 2
  | .failed => 3

/-- The driver field of STATE. -/
def DriverState.code : DriverState → BitVec 2
  | .idle => 0
  | .firing => 1
  | .bulk => 2
  | .stalled => 3

/-- The line field of STATE and of the line status record. -/
def LineState.code : LineState → BitVec 2
  | .off => 0
  | .hunt => 1
  | .frame => 2
  | .inBreak => 3

/-- The state mirror of a lane record. -/
def LaneState.code : LaneState → Word
  | .idle => 0
  | .ready => 1
  | .active => 2
  | .waiting => 3
  | .draining => 4
  | .parked => 5
  | .held => 6
  | .faulted => 7

/-- The outcome codes (R52). -/
def BlockOutcome.code : BlockOutcome → BitVec 4
  | .notYet => 0
  | .done => 1
  | .badRecord => 2
  | .memory => 3
  | .fence => 4
  | .cancelled => 5
  | .timeout => 6
  | .purged => 7

/-- The error outcomes (R52). -/
def BlockOutcome.isError : BlockOutcome → Bool
  | .badRecord | .memory | .fence | .timeout => true
  | .notYet | .done | .cancelled | .purged => false

/-- The result word W3 of a block or W5 of a slot: outcome in bits 15 to 12, ordinal in bits 9 to 0 (spec/11, 11.3). -/
def resultWord (o : BlockOutcome) (ordinal : Nat) : Word :=
  o.code ++ (0 : BitVec 2) ++ BitVec.ofNat 10 ordinal

/-- The slot state word W0 (R155). -/
def SlotState.code : SlotState → Word
  | .free => 0
  | .filling => 1
  | .queued => 2
  | .running => 3
  | .passed => 4

/-- The PK code of a pulse (R36). -/
def PulseKind.code : PulseKind → BitVec 2
  | .write => 1
  | .erase => 2
  | .bulk => 3

/-- The last start cause of the header (R179). -/
def StartCause.code : StartCause → Word
  | .power => 1
  | .pin => 2
  | .clear => 3

/-- The loss reason codes (R147). -/
def LossReason.code : LossReason → Word
  | .full => 1
  | .abort => 2
  | .align => 3
  | .short => 4
  | .long => 5
  | .crc => 6
  | .format => 7
  | .memory => 8

/-- The unit codes of the memory fault record (spec/11). -/
def MemUnit.code : MemUnit → Word
  | .engine => 1
  | .line => 2
  | .lane => 3

/-- The kind codes of the memory fault record (R184). -/
def BusFailure.code : BusFailure → Word
  | .parity => 1
  | .noAnswer => 2

/-- The lane field of the memory fault record: the no-lane value is 8 (R183). -/
def laneCode : Option LaneNo → Word
  | some n => BitVec.ofNat 16 n.val
  | none => 8

/-- The lane fault reason codes (spec/11). -/
def LaneFaultReason.code : LaneFaultReason → Word
  | .badLink => 1
  | .memory => 2

/-- The setup reason codes (R179). -/
def SetupReason.code : SetupReason → Word
  | .none => 0
  | .budget => 1
  | .fence => 2
  | .spool => 3
  | .memory => 4

/-- The budget of a budget code 0 to 3 (R32). -/
def budgetOfCode (code : Nat) : Nat :=
  match code with
  | 0 => 16
  | 1 => 32
  | 2 => 64
  | _ => 128

/-! ## Postings -/

/-- The lane a posting names: operands from 8 to 31 name none (R57). -/
def postedLane (operand : BitVec 5) : Option LaneNo :=
  if h : operand.toNat < 8 then some ⟨operand.toNat, h⟩ else none

/-- A posting to lane 3 by NUDGE or RESUME is ignored (R57): the host lane a posting names. -/
def postedHostLane (operand : BitVec 5) : Option LaneNo :=
  match postedLane operand with
  | some n => if n = 3 then none else some n
  | none => none

end Sys2Proof.Machine
end

