-- ==== Sys2Proof/Machine/Flags.lean ====
section
/-! DEFINITION. The flags: CAUSE, ENABLE and IRQ, the settled condition, the output lines that follow from the state,
and the port words a read returns. -/

namespace Sys2Proof.Machine

/-- The bit of a cause in CAUSE and ENABLE (spec/11, 11.1). -/
def Cause.bit : Cause → Nat
  | .blockDone => 0
  | .laneHeld => 1
  | .laneFault => 2
  | .settled => 3
  | .supply => 4
  | .driveFault => 5
  | .linePass => 6
  | .lineLoss => 7
  | .lineGap => 8
  | .lineBreak => 9
  | .setup => 10
  | .memory => 11

/-- The mask of a cause. -/
def Cause.mask (c : Cause) : BitVec 12 := BitVec.twoPow 12 c.bit

/-- Is this cause's flag set? -/
def Work.hasCause (c : Cause) (w : Work) : Bool := w.cause.getLsbD c.bit

/-- An owner's event sets its flag, whatever ENABLE holds (R180). -/
def setCause (c : Cause) (w : Work) : Work := { w with cause := w.cause ||| c.mask }

/-- A write of CAUSE clears each flag written 1 and leaves the others (R180). -/
def causeAfterWrite (cause : BitVec 12) (data : Word) : BitVec 12 := cause &&& ~~~(data.extractLsb' 0 12)

/-- IRQ is asserted exactly while some CAUSE flag and its ENABLE flag are both set (R181). -/
def Work.irq (w : Work) : Bool := w.cause &&& w.port.enable != 0

/-- A saturating count of 16 bits after `n` more (spec/00_scope.md, "Saturating and wrapping counts"). -/
def saturate16 (count n : Nat) : Nat := min 65535 (count + n)

/-- The settled condition (R18): queue empty, no pulse outstanding, bulk request clear. -/
def Panel.isSettled (p : Panel) : Bool := p.queue.isEmpty && p.driver.pulse.isNone && !p.bulkRequest

/-- SUPEN is asserted while the supply is RAMPING or READY (R21). -/
def Panel.supen (p : Panel) : Bool := p.supply.state = .ramping || p.supply.state = .ready

/-- PREQ is high from the issue of a pulse until it is answered, timed out or abandoned (R36, R38). -/
def Panel.preq (p : Panel) : Bool :=
  match p.driver.pulse with
  | some pulse => pulse.deadline.isSome
  | none => false

/-- PK1–PK0: the code of the kind while PREQ is high, else the no-pulse code (R36). -/
def Panel.pulseKindLines (p : Panel) : BitVec 2 :=
  match p.driver.pulse with
  | some pulse => if pulse.deadline.isSome then pulse.kind.code else 0
  | none => 0

/-- What a read of CONTROL returns: CLEAR and DRIVE_RESUME read 0 (R172). -/
def State.controlWord (s : State) : Word :=
  (0 : BitVec 13) ++ BitVec.ofBool s.work.port.lineOn ++ BitVec.ofBool s.work.port.panelOn
    ++ BitVec.ofBool s.work.port.run

/-- What a read of STATE returns (R171; positions from spec/11, 11.1). -/
def State.stateWord (s : State) : Word :=
  (0 : BitVec 3) ++ BitVec.ofBool s.panel.settled ++ BitVec.ofBool s.work.lanes.activeValid
    ++ BitVec.ofNat 3 s.work.lanes.activeNo.val ++ s.work.line.state.code ++ s.panel.driver.state.code
    ++ s.panel.supply.state.code ++ s.work.port.engine.code

/-- What a read of CAUSE returns. -/
def State.causeWord (s : State) : Word := s.work.cause.setWidth 16

/-- What a read of ENABLE returns. -/
def State.enableWord (s : State) : Word := s.work.port.enable.setWidth 16

/-- The clock's low half: the value of CLOCKL and of every stamp (R163, R165). -/
def Work.stamp (w : Work) : Word := w.time.clock.extractLsb' 0 16

/-- The clock's live high half (R164). -/
def Work.clockHigh (w : Work) : Word := w.time.clock.extractLsb' 16 16

/-- What CLOCKH returns: the held value if the hold is held, else the live high half (R164). -/
def Work.clockhValue (w : Work) : Word :=
  match w.port.hold with
  | some h => h.value
  | none => w.clockHigh

/-- What a read of port word `word` returns (R170): 0 while RESET is asserted. -/
def State.portRead (word : BitVec 3) (s : State) : Word :=
  if s.work.port.resetAsserted then 0
  else
    match word.toNat with
    | 1 => s.controlWord
    | 2 => s.stateWord
    | 3 => s.causeWord
    | 4 => s.enableWord
    | 5 => s.work.stamp
    | 6 => s.work.clockhValue
    | _ => 0

end Sys2Proof.Machine
end

