-- ==== Sys2Proof/Machine/Ops.lean ====
section
/-! DEFINITION. The operations shared by every unit: octets and words of station memory, one access on the station
bus, the report of a failed access, runs of accesses, and the addresses of the exchange area. A block has no exception
entry; a failed access is its nearest thing, and `reportFailure` is the one way it is taken (R183, R184). -/

namespace Sys2Proof.Machine

/-! ## Station memory -/

/-- The octet at an address; an address that is not listed reads as `Config.unwrittenByte`. -/
def Memory.read : Memory → Nat → Byte
  | [], _ => Config.unwrittenByte
  | (k, b) :: rest, a => if k = a then b else Memory.read rest a

/-- Store an octet, keeping the canonical form. -/
def Memory.write : Memory → Nat → Byte → Memory
  | [], a, v => if v = Config.unwrittenByte then [] else [(a, v)]
  | (k, b) :: rest, a, v =>
    if a < k then (if v = Config.unwrittenByte then (k, b) :: rest else (a, v) :: (k, b) :: rest)
    else if k = a then (if v = Config.unwrittenByte then rest else (a, v) :: rest)
    else (k, b) :: Memory.write rest a v

/-- The canonical form: addresses strictly rising and inside the 20-bit space, no entry equal to what an unlisted
address reads as. -/
abbrev Memory.wf (m : Memory) : Prop :=
  m.Pairwise (fun c d => c.1 < d.1) ∧ ∀ c ∈ m, c.2 ≠ Config.unwrittenByte ∧ c.1 < 2 ^ 20

/-- The word at an address: the upper octet at the even byte address (log 9). -/
def Memory.readWord (m : Memory) (a : Addr) : Word :=
  m.read (wordAddress a) ++ m.read (wordAddress a + 1)

/-- Store a word. -/
def Memory.writeWord (m : Memory) (a : Addr) (v : Word) : Memory :=
  (m.write (wordAddress a) (v.extractLsb' 8 8)).write (wordAddress a + 1) (v.extractLsb' 0 8)

/-- The octets that other masters of the station bus store, in order. -/
def Memory.store (m : Memory) (stores : List (Addr × Byte)) : Memory :=
  stores.foldl (fun m c => m.write c.1.toNat c.2) m

/-! ## One access -/

/-- How a read ended: with a word, failed (R183), or not made because a reset was taken before it (R185). -/
inductive ReadResult
  | word (v : Word)
  | failed (f : BusFailure)
  | cut
  deriving DecidableEq, Repr

/-- How a write ended. PERR on a write is ignored, so a write fails only by NO ANSWER (R183). -/
inductive WriteResult
  | stored
  | failed
  | cut
  deriving DecidableEq, Repr

/-- Take a bus turn that is used up: its stores are made and it leaves the list. -/
def takeTurn (t : BusTurn) (rest : List BusTurn) (w : Work) : Work :=
  { w with mem := w.mem.store t.stores, bus := rest }

/-- One read cycle of the station bus (R183). -/
def busRead (a : Addr) (w : Work) : ReadResult × Work :=
  match w.bus with
  | [] => (.word (w.mem.readWord a), w)
  | t :: rest =>
    match t.answer with
    | .completes => (.word ((takeTurn t rest w).mem.readWord a), takeTurn t rest w)
    | .parity => (.failed .parity, takeTurn t rest w)
    | .noAnswer _ => (.failed .noAnswer, takeTurn t rest w)
    | .cutOff => (.cut, w)

/-- Store a word of the 5120's own. -/
def storeWord (a : Addr) (v : Word) (w : Work) : Work := { w with mem := w.mem.writeWord a v }

/-- One write cycle of the station bus (R183). -/
def busWrite (a : Addr) (v : Word) (w : Work) : WriteResult × Work :=
  match w.bus with
  | [] => (.stored, storeWord a v w)
  | t :: rest =>
    match t.answer with
    | .completes => (.stored, storeWord a v (takeTurn t rest w))
    | .parity => (.stored, storeWord a v (takeTurn t rest w))
    | .noAnswer stored => (.failed, if stored then storeWord a v (takeTurn t rest w) else takeTurn t rest w)
    | .cutOff => (.cut, w)

/-- Write words one after another, stopping at the first that is not stored; nothing is reported. -/
def busWriteList : List (Addr × Word) → Work → Work
  | [], w => w
  | (a, v) :: rest, w =>
    match busWrite a v w with
    | (.stored, w1) => busWriteList rest w1
    | (_, w1) => w1

/-! ## The exchange area -/

/-- The exchange area's base: segment × 10000H (R182). -/
def Work.exchangeBase (w : Work) : Addr := w.port.segment ++ (0 : BitVec 16)

/-- An address of the exchange area. -/
def Work.exchange (w : Work) (offset : Nat) : Addr := addressPlus w.exchangeBase offset

/-- An address of lane `n`'s record (R182). -/
def Work.laneRecord (w : Work) (n : LaneNo) (offset : Nat) : Addr := w.exchange (0x80 + 16 * n.val + offset)

/-! ## Failed accesses -/

/-- The words of the memory fault record, the kind word last (R184). -/
def memoryFaultWords (f : BusFailure) (unit : MemUnit) (a : Addr) (lane : Option LaneNo) (w : Work) :
    List (Addr × Word) :=
  [(w.exchange 0x74, addressLow a), (w.exchange 0x76, addressHigh a), (w.exchange 0x72, unit.code),
    (w.exchange 0x78, laneCode lane), (w.exchange 0x7A, w.stamp), (w.exchange 0x70, f.code)]

/-- The port takes a failure handed to it (R184, R190): it writes the memory fault record if the kind word reads 0, and
then sets MEMORY. A failure of its own accesses is not handed on. -/
def reportFailure (f : BusFailure) (unit : MemUnit) (a : Addr) (lane : Option LaneNo) (w : Work) : Work :=
  match busRead (w.exchange 0x70) w with
  | (.word v, w1) =>
    setCause .memory (if v = 0 then busWriteList (memoryFaultWords f unit a lane w1) w1 else w1)
  | (_, w1) => setCause .memory w1

/-- A unit reads a word: no word if the access failed (it is then reported) or was cut off by a reset. -/
def readStation (unit : MemUnit) (lane : Option LaneNo) (a : Addr) (w : Work) : Option Word × Work :=
  match busRead a w with
  | (.word v, w1) => (some v, w1)
  | (.failed f, w1) => (none, reportFailure f unit a lane w1)
  | (.cut, w1) => (none, w1)

/-- A unit writes a word: false if the access failed (it is then reported) or was cut off by a reset. -/
def writeStation (unit : MemUnit) (lane : Option LaneNo) (a : Addr) (v : Word) (w : Work) : Bool × Work :=
  match busWrite a v w with
  | (.stored, w1) => (true, w1)
  | (.failed, w1) => (false, reportFailure .noAnswer unit a lane w1)
  | (.cut, w1) => (false, w1)

/-- A unit reads words in the order given, up to the first that fails. -/
def readStationList (unit : MemUnit) (lane : Option LaneNo) : List Addr → Work → Option (List Word) × Work
  | [], w => (some [], w)
  | a :: rest, w =>
    match readStation unit lane a w with
    | (some v, w1) =>
      match readStationList unit lane rest w1 with
      | (some vs, w2) => (some (v :: vs), w2)
      | (none, w2) => (none, w2)
    | (none, w1) => (none, w1)

/-- A unit writes words in the order given, up to the first that fails. -/
def writeStationList (unit : MemUnit) (lane : Option LaneNo) : List (Addr × Word) → Work → Bool × Work
  | [], w => (true, w)
  | (a, v) :: rest, w =>
    match writeStation unit lane a v w with
    | (true, w1) => writeStationList unit lane rest w1
    | (false, w1) => (false, w1)

/-- The addresses of `n` words from `a` on, each modulo 100000H. -/
def wordRun (a : Addr) (n : Nat) : List Addr := (List.range n).map fun i => addressPlus a (2 * i)

/-! ## Lanes -/

/-- Lane `n`. -/
def Work.laneOf (w : Work) (n : LaneNo) : Lane := w.lanes.lane[n.val]

/-- Change lane `n`. -/
def Work.setLane (w : Work) (n : LaneNo) (l : Lane) : Work :=
  { w with lanes := { w.lanes with lane := w.lanes.lane.set n.val l } }

/-- Change lane `n` by a function. -/
def Work.modLane (w : Work) (n : LaneNo) (f : Lane → Lane) : Work := w.setLane n (f (w.laneOf n))

/-- Slot `k`'s internal state (R155). -/
def Work.slotOf (w : Work) (k : SlotNo) : SlotState := w.line.slots[k.val]

/-- Apply a function to the half that works on station memory. -/
def State.onWork (f : Work → Work) (s : State) : State := { s with work := f s.work }

/-- Apply a function to the half that works on the glass. -/
def State.onPanel (f : Panel → Panel) (s : State) : State := { s with panel := f s.panel }

/-- The outcome of an event that the part takes unless RESET is asserted, while which every block is held in its reset
state and the drive port, the line, REF32 and the port words are ignored (R170, R185). -/
def event (f : State → State) (s : State) : Host.Outcome State Fault Refusal :=
  .next (if s.work.port.resetAsserted then s else f s)

end Sys2Proof.Machine
end

