-- ==== Sys2Proof/Machine/Lanes.lean ====
section
/-! DEFINITION. The lane unit (spec/03): lane records, faults, fetch and link, retire, the preemption point, the choice
of the render engine, cancel and purge; the state words of the spool slots, which lane 3 and the line receiver share;
the lanes' part of a tick; and the postings NUDGE, RESUME and CANCEL. -/

namespace Sys2Proof.Machine

/-! ## Reading the lane unit -/

/-- The host lanes in ascending number (R48). -/
def hostLanes : List LaneNo := [0, 1, 2, 4, 5, 6, 7]

/-- Does a lane in this state hold a block (R55)? -/
def LaneState.holdsBlock : LaneState → Bool
  | .ready | .active | .waiting | .draining => true
  | .idle | .parked | .held | .faulted => false

/-- The ACTIVE lane (R56). -/
def Work.activeLane (w : Work) : Option LaneNo := if w.lanes.activeValid then some w.lanes.activeNo else none

/-- The lowest-numbered READY lane (R68). -/
def Work.lowestReady (w : Work) : Option LaneNo := (List.finRange 8).find? fun n => (w.laneOf n).state = .ready

/-- Is a lane with a lower number than `n` READY (R70)? -/
def Work.higherReady (w : Work) (n : LaneNo) : Bool :=
  match w.lowestReady with
  | some m => decide (m < n)
  | none => false

/-- The body has no further record (R70 case 3). -/
def Progress.atEnd (p : Progress) : Bool := p.inHand.isNone && decide (p.bodyLength ≤ p.nextWord)

/-- No lane is ACTIVE any more if it was lane `n`; STATE keeps its number (R56). -/
def Work.release (n : LaneNo) (w : Work) : Work :=
  if w.activeLane = some n then { w with lanes := { w.lanes with activeValid := false } } else w

/-- Lane `n` leaves its state for one in which it holds no block: the progress and the cancel request are discarded
(R63, R74). -/
def Work.leaveBlock (n : LaneNo) (st : LaneState) (current : Addr) (w : Work) : Work :=
  (w.modLane n fun l =>
    { l with state := st, current := current, progress := Progress.none, cancelRequested := false }).release n

/-! ## Slot state words (R155) -/

/-- The address of a slot (R154). -/
def Spool.slotAddress (sp : Spool) (k : SlotNo) : Addr := addressPlus sp.base (k.val * sp.size)

/-- The address of a slot of the spool in force. -/
def Work.slotAddress (w : Work) (k : SlotNo) : Addr :=
  match w.line.spool with
  | some sp => sp.slotAddress k
  | none => 0

/-- Set the internal state of a slot. -/
def Work.setSlot (k : SlotNo) (st : SlotState) (w : Work) : Work :=
  { w with line := { w.line with slots := w.line.slots.set k.val st } }

/-- Write the state word W0 of a slot; false if the write failed (R157). -/
def writeSlotWord (k : SlotNo) (st : SlotState) (w : Work) : Bool × Work :=
  writeStation .line none (w.slotAddress k) st.code w

/-- A slot changes state: internally, and in its state word, whatever becomes of the write (R155, R157). -/
def changeSlot (k : SlotNo) (st : SlotState) (w : Work) : Work := (writeSlotWord k st (w.setSlot k st)).2

/-- The slot lane 3 holds as its block: the oldest pending one, while its state holds a block (R78, R79). -/
def Work.heldSlot (w : Work) : Option PendingSlot :=
  if (w.laneOf 3).state.holdsBlock then w.line.pendingSlots.head? else none

/-- Lane 3's slot in hand becomes FREE and leaves the pending slots; a RUNNING slot loses its purge mark (R80, R153). -/
def freeHeldSlot (w : Work) : Work :=
  match w.heldSlot with
  | none => w
  | some p =>
    changeSlot p.slot .free
      { w with line := { w.line with pendingSlots := w.line.pendingSlots.tail, purgeRequested := false } }

/-! ## The lane record and faults -/

/-- The words of one lane record write, in order, the state mirror last (R49; spec/11, 11.2). -/
def Work.laneRecordWords (w : Work) (n : LaneNo) : List (Addr × Word) :=
  let l := w.laneOf n
  [(w.laneRecord n 0x6, addressLow l.current), (w.laneRecord n 0x8, addressHigh l.current),
    (w.laneRecord n 0xA, l.retireCount), (w.laneRecord n 0xC, l.lastOutcome.code.setWidth 16),
    (w.laneRecord n 0x4, l.state.code)]

/-- One attempt at the fault reason and the FAULTED lane record; false if a write failed (R50, R77). -/
def faultAttempt (n : LaneNo) (reason : LaneFaultReason) (w : Work) : Bool × Work :=
  match readStation .lane (some n) (w.laneRecord n 0xE) w with
  | (some v, w1) =>
    if v = 0 then writeStationList .lane (some n) ((w1.laneRecord n 0xE, reason.code) :: w1.laneRecordWords n) w1
    else writeStationList .lane (some n) (w1.laneRecordWords n) w1
  | (none, w1) => writeStationList .lane (some n) (w1.laneRecordWords n) w1

/-- Lane `n` becomes FAULTED with this current block address (R50). `afterWriteError` says that a failed write is the
cause, so that no further attempt follows a failed one; otherwise a write error in the report is a write error of its
own, and one more attempt is made with reason MEMORY (R77), which writes the first cause's address again (the model's
choice, log 34). Lane 3 gives up the slot it holds (R80), before the report (the model's choice, log 20). -/
def enterFaulted (n : LaneNo) (reason : LaneFaultReason) (current : Addr) (afterWriteError : Bool) (w : Work) : Work :=
  let freed := if n = 3 then freeHeldSlot w else w
  let w1 := faultAttempt n reason (freed.leaveBlock n .faulted current)
  let w2 := if w1.1 || afterWriteError then w1.2 else (faultAttempt n .memory w1.2).2
  setCause .laneFault w2

/-- Write lane `n`'s record. A write error makes the lane FAULTED: the block in hand is then the current block, and
`retired` stands where the lane holds none (R49, R77). R50 names the block in hand or being retired; a retire that has
taken the next block or slot has both, and the new one is the model's choice there (log 39). -/
def writeLaneRecord (n : LaneNo) (retired : Addr) (w : Work) : Work :=
  match writeStationList .lane (some n) (w.laneRecordWords n) w with
  | (true, w1) => w1
  | (false, w1) =>
    let l := w1.laneOf n
    enterFaulted n .memory (if l.state.holdsBlock then l.current else retired) true w1

/-! ## Fetch and link -/

/-- The progress at the start of a block (R53). -/
def Progress.start (bodyLength : Nat) (signal stop fresh : Bool) : Progress :=
  { Progress.none with bodyLength := bodyLength, signal := signal, stop := stop, fresh := fresh }

/-- A lane that has fetched block `a` with these W1 and W2 (R53). -/
def Lane.fetched (a : Addr) (w1 w2 : Word) (l : Lane) : Lane :=
  { l with
    state := .ready
    current := a
    progress := Progress.start (w2.extractLsb' 0 10).toNat (w1.getLsbD 15) (w1.getLsbD 14) (w1.getLsbD 13)
    cancelRequested := false
    context := if w1.getLsbD 13 then Context.defaults else l.context }

/-- Lane `n` fetches block `a` (R53, R75). -/
def fetchBlock (n : LaneNo) (a : Addr) (w : Work) : Work :=
  match readStationList .lane (some n) [addressPlus a 2, addressPlus a 4] w with
  | (some [w1, w2], wk) => writeLaneRecord n 0 ((wk.modLane n (Lane.fetched a w1 w2)).release n)
  | (_, wk) => enterFaulted n .memory a false wk

/-- What a link read finds (R54). -/
inductive LinkRead
  | none
  | block (a : Addr)
  | notValid
  | readError
  deriving DecidableEq, Repr

/-- Read the link of block `a` for lane `n` (R51, R54). -/
def readLink (n : LaneNo) (a : Addr) (w : Work) : LinkRead × Work :=
  match readStation .lane (some n) a w with
  | (Option.none, w1) => (.readError, w1)
  | (some low, w1) =>
    if low = 0 then (.none, w1)
    else
      match readStation .lane (some n) (addressPlus a 2) w1 with
      | (Option.none, w2) => (.readError, w2)
      | (some high, w2) =>
        if addressEven (address20 low high) then (.block (address20 low high), w2) else (.notValid, w2)

/-- Go on from block `a` by its link; `ifNone` is what the caller does when the link is none (R54). -/
def followLink (n : LaneNo) (a : Addr) (ifNone : Work → Work) (w : Work) : Work :=
  match readLink n a w with
  | (.none, w1) => ifNone w1
  | (.block b, w1) => fetchBlock n b w1
  | (.notValid, w1) => enterFaulted n .badLink a false w1
  | (.readError, w1) => enterFaulted n .memory a false w1

/-! ## Retire -/

/-- The result words of the block in hand, the outcome word last: W4, W5, W3 of a plot block, or W6, W7, W5 of a slot
(R60, R80). -/
def Work.resultWords (w : Work) (n : LaneNo) (o : BlockOutcome) : List (Addr × Word) :=
  let l := w.laneOf n
  let first := if n = 3 then 12 else 8
  let outcome := if n = 3 then 10 else 6
  [(addressPlus l.current first, BitVec.ofNat 16 l.progress.cells), (addressPlus l.current (first + 2), w.stamp),
    (addressPlus l.current outcome, resultWord o l.progress.ordinal)]

/-- The lane's retire count and last outcome after one more retire (R60). -/
def Lane.countRetire (o : BlockOutcome) (l : Lane) : Lane :=
  { l with retireCount := l.retireCount + 1, lastOutcome := o }

/-- LANE_FAULT for an error outcome (R61, R80). -/
def faultCause (o : BlockOutcome) (w : Work) : Work := if o.isError then setCause .laneFault w else w

/-- Where a host lane goes after the result of block `a` is written, with the causes of R61 but BLOCK_DONE. `stop` and
`cancel` are the STOP flag and the cancel request as they were before. -/
def afterHostResult (n : LaneNo) (a : Addr) (o : BlockOutcome) (stop cancel : Bool) (w : Work) : Work :=
  if o = .cancelled ∨ cancel = true then faultCause o (writeLaneRecord n a (w.leaveBlock n .idle 0))
  else if o.isError = true ∨ stop = true then
    let w1 := writeLaneRecord n a (w.leaveBlock n .held a)
    faultCause o (if (w1.laneOf n).state = .held then setCause .laneHeld w1 else w1)
  else followLink n a (fun w1 => writeLaneRecord n a (w1.leaveBlock n .parked a)) w

/-- A host lane retires its block (R60, R61, R77). -/
def retireBlock (n : LaneNo) (o : BlockOutcome) (w : Work) : Work :=
  let l := w.laneOf n
  let written := writeStationList .lane (some n) (w.resultWords n o) w
  let counted := written.2.modLane n (Lane.countRetire o)
  let after :=
    if written.1 then afterHostResult n l.current o l.progress.stop l.cancelRequested counted
    else enterFaulted n .memory l.current true counted
  if l.progress.signal then setCause .blockDone after else after

/-- Lane 3 with the oldest pending slot as its block (R78, R79). -/
def Lane.tookSlot (a : Addr) (octets : Nat) (l : Lane) : Lane :=
  { l with
    state := .ready
    current := a
    progress := Progress.start (octets / 2) false false false
    cancelRequested := false }

/-- Lane 3 takes the oldest pending slot as its block and becomes READY, or becomes IDLE (R79, R80). -/
def takeNextSlot (w : Work) : Work :=
  match w.line.pendingSlots.head? with
  | some p => (w.modLane 3 (Lane.tookSlot (w.slotAddress p.slot) p.octets)).release 3
  | none => w.leaveBlock 3 .idle 0

/-- Lane 3 retires its slot (R80). -/
def retireSlot (o : BlockOutcome) (w : Work) : Work :=
  let a := (w.laneOf 3).current
  let written := writeStationList .lane (some 3) (w.resultWords 3 o) w
  let counted := written.2.modLane 3 (Lane.countRetire o)
  if written.1 then faultCause o (writeLaneRecord 3 a (takeNextSlot (freeHeldSlot counted)))
  else enterFaulted 3 .memory a true counted

/-- The block in hand of lane `n` retires (R60). -/
def retire (n : LaneNo) (o : BlockOutcome) (w : Work) : Work := if n = 3 then retireSlot o w else retireBlock n o w

/-! ## Preemption points and the engine's choice -/

/-- The ACTIVE lane `n` is suspended (R70 cases 4 and 5). -/
def suspend (n : LaneNo) (w : Work) : Work :=
  writeLaneRecord n 0
    ((w.modLane n fun l =>
      { l with state := .ready, cancelRequested := false, progress := { l.progress with pointOwed := false } }).release n)

/-- A preemption point of the ACTIVE lane `n`: the first case of R70 that holds. -/
def preemptionPoint (n : LaneNo) (w : Work) : Work :=
  let l := w.laneOf n
  if l.cancelRequested then retire n .cancelled w
  else if n = 3 ∧ w.line.purgeRequested = true then retire n .purged w
  else if l.progress.atEnd then retire n .done w
  else if w.port.engine = .stopping then suspend n w
  else if w.higherReady n then suspend n w
  else w.modLane n fun l => { l with progress := { l.progress with pointOwed := false } }

/-- Lane 3 granted with a slot that is still QUEUED: the slot becomes RUNNING (R79, R151). -/
def runHeldSlot (w : Work) : Work :=
  match w.heldSlot with
  | some p => if w.slotOf p.slot = .queued then changeSlot p.slot .running w else w
  | none => w

/-- The READY lane `n` becomes ACTIVE (R56, R68). -/
def Work.activate (n : LaneNo) (w : Work) : Work :=
  let w1 := w.modLane n fun l => { l with state := .active }
  { w1 with lanes := { w1.lanes with activeNo := n, activeValid := true } }

/-- The engine grants lane `n` (R68). The state word of a slot that lane 3 begins is written before the lane record (the
model's choice, log 33). A point that is owed after a WAIT or DRAIN is taken now (R69), and a body with no
record left ends at once (R53). -/
def grant (n : LaneNo) (w : Work) : Work :=
  let w1 := w.activate n
  let w2 := writeLaneRecord n 0 (if n = 3 then runHeldSlot w1 else w1)
  let l := w2.laneOf n
  if l.state = .active ∧ (l.progress.pointOwed = true ∨ l.progress.atEnd = true) then preemptionPoint n w2 else w2

/-- The engine chooses while it is RUNNING, no lane is ACTIVE and a lane is READY (R68); at most `fuel` times. -/
def engineChoice : Nat → Work → Work
  | 0, w => w
  | fuel + 1, w =>
    if w.port.engine = .running ∧ w.lanes.activeValid = false then
      match w.lowestReady with
      | some n => engineChoice fuel (grant n w)
      | none => w
    else w

/-- STOPPING ends when the engine is free: in HALTED, or in STARTING if RUN is 1 (R71, R178). -/
def endStopping (w : Work) : Work :=
  if w.port.engine = .stopping ∧ w.lanes.activeValid = false then
    { w with port := { w.port with engine := if w.port.run then .starting else .halted } }
  else w

/-- What ends every event that the lane unit takes part in: the end of STOPPING and the engine's choice. -/
def settleLanes (w : Work) : Work := engineChoice Config.choicesPerEvent (endStopping w)

/-! ## Postings -/

/-- Write 0 to both words of a head address, the low word first; false if a write failed (R58). -/
def clearHead (n : LaneNo) (w : Work) : Bool × Work :=
  writeStationList .lane (some n) [(w.laneRecord n 0, 0), (w.laneRecord n 2, 0)] w

/-- A NUDGE that finds the lane IDLE (R58, R75, R77). -/
def nudgeIdle (n : LaneNo) (w : Work) : Work :=
  match readStationList .lane (some n) [w.laneRecord n 0, w.laneRecord n 2] w with
  | (some [low, high], w1) =>
    if low = 0 then w1
    else
      match clearHead n w1 with
      | (true, w2) =>
        if addressEven (address20 low high) then fetchBlock n (address20 low high) w2
        else enterFaulted n .badLink (address20 low high) false w2
      | (false, w2) => enterFaulted n .memory (address20 low high) true w2
  | (_, w1) => enterFaulted n .memory 0 false w1

/-- A NUDGE to a host lane, taken while the engine is RUNNING (R58). -/
def nudgeLane (n : LaneNo) (w : Work) : Work :=
  match (w.laneOf n).state with
  | .idle => nudgeIdle n w
  | .parked => followLink n (w.laneOf n).current id w
  | .ready | .active | .waiting | .draining | .held | .faulted => w

/-- A RESUME to a host lane, taken while the engine is RUNNING (R59). -/
def resumeLane (n : LaneNo) (w : Work) : Work :=
  match (w.laneOf n).state with
  | .held =>
    let a := (w.laneOf n).current
    followLink n a (fun w1 => writeLaneRecord n 0 (w1.leaveBlock n .parked a)) w
  | .idle | .ready | .active | .waiting | .draining | .parked | .faulted => w

/-- NUDGE and RESUME of lane `n` in the present engine state: `act` while RUNNING, `mark` the pending flag otherwise
(R57, R66). -/
def postToHostLane (n : LaneNo) (act : Work → Work) (mark : Lane → Lane) (w : Work) : Work :=
  if w.port.engine = .running then settleLanes (act w) else w.modLane n mark

/-- The lane unit acts on the pending flags of lane `n` at the entry into RUNNING (R67). -/
def actOnPending (n : LaneNo) (w : Work) : Work :=
  let w1 := if (w.laneOf n).nudgePending then nudgeLane n w else w
  let w2 := if (w1.laneOf n).resumePending then resumeLane n w1 else w1
  w2.modLane n fun l => { l with nudgePending := false, resumePending := false }

/-- The pending flags of every host lane, in ascending number (R67). -/
def actOnAllPending (w : Work) : Work := hostLanes.foldl (fun w n => actOnPending n w) w

/-! ## Cancel and purge -/

/-- A CANCEL to a host lane (R62, R63). -/
def cancelHostLane (n : LaneNo) (w : Work) : Work :=
  match (w.laneOf n).state with
  | .idle => w
  | .active => w.modLane n fun l => { l with cancelRequested := true }
  | .ready | .waiting | .draining => retireBlock n .cancelled w
  | .parked | .held | .faulted => writeLaneRecord n 0 (w.leaveBlock n .idle 0)

/-- The slots lane 3 has not begun: the pending ones that are QUEUED. -/
def Work.queuedSlots (w : Work) : List PendingSlot := w.line.pendingSlots.filter fun p => w.slotOf p.slot = .queued

/-- Every QUEUED slot becomes FREE, in arrival order, without a result. R153 gives a purge that order; R81 gives a CANCEL of
lane 3 none, and arrival order is the model's choice there (log 37). -/
def freeQueuedSlots (w : Work) : Work :=
  w.queuedSlots.foldl (fun w p => changeSlot p.slot .free w)
    { w with line :=
      { w.line with pendingSlots := w.line.pendingSlots.filter fun p => w.slotOf p.slot ≠ .queued } }

/-- Lane 3 is READY with a slot that is still QUEUED (R81, R153). -/
def Work.lane3NotBegun (w : Work) : Bool :=
  match w.heldSlot with
  | some p => decide (w.slotOf p.slot = .queued)
  | none => false

/-- Lane 3 becomes IDLE and its record is written (R81, R153). -/
def idleLane3 (w : Work) : Work := writeLaneRecord 3 0 (w.leaveBlock 3 .idle 0)

/-- A CANCEL to lane 3 (R81). -/
def cancelLane3 (w : Work) : Work :=
  let notBegun := w.lane3NotBegun
  let w1 := freeQueuedSlots w
  if notBegun then idleLane3 w1
  else
    match (w1.laneOf 3).state with
    | .active => w1.modLane 3 fun l => { l with cancelRequested := true }
    | .ready | .waiting | .draining => retireSlot .cancelled w1
    | .faulted => idleLane3 w1
    | .idle | .parked | .held => w1

/-- A purge of the lane 3 work: the QUEUED slots are freed, and the RUNNING slot is handled by lane 3's state (R82, R153
steps 1 and 2). -/
def purgeLane3 (w : Work) : Work :=
  let notBegun := w.lane3NotBegun
  let w1 := freeQueuedSlots w
  if notBegun then idleLane3 w1
  else
    match (w1.laneOf 3).state with
    | .active => { w1 with line := { w1.line with purgeRequested := true } }
    | .ready | .waiting | .draining => retireSlot .purged w1
    | .idle | .parked | .held | .faulted => w1

/-- A DRAW slot is queued for lane 3, which takes it at once if it is IDLE (R79, R151). -/
def queueSlot (k : SlotNo) (octets : Nat) (w : Work) : Work :=
  let w1 := changeSlot k .queued w
  let w2 := { w1 with line :=
    { w1.line with pendingSlots := w1.line.pendingSlots ++ [{ slot := k, octets := octets }] } }
  if (w2.laneOf 3).state = .idle then writeLaneRecord 3 0 (takeNextSlot w2) else w2

/-! ## Waits and drains -/

/-- The WAIT or DRAIN record of lane `n` is complete: the ordinal moves on, the lane becomes READY, and the point after
the record is owed (R64, R65, R69). -/
def completeWaiting (n : LaneNo) (w : Work) : Work :=
  writeLaneRecord n 0 (w.modLane n fun l =>
    { l with
      state := .ready
      progress :=
        { l.progress with ordinal := l.progress.ordinal + 1, waitCount := 0, limit := none, pointOwed := true } })

/-- The plane store has entered the settled condition: every DRAINING lane completes its DRAIN (R18, R65). -/
def completeDrain (n : LaneNo) (w : Work) : Work :=
  if (w.laneOf n).state = .draining then completeWaiting n w else w

/-- Every DRAINING lane, in ascending number. -/
def completeDrains (w : Work) : Work := (List.finRange 8).foldl (fun w n => completeDrain n w) w

/-- The next counted tick brings the wait count of lane `n` to 0 (R64). -/
def Work.waitRunsOut (n : LaneNo) (w : Work) : Bool :=
  decide ((w.laneOf n).state = .waiting) && decide ((w.laneOf n).progress.waitCount ≤ 1)

/-- The next counted tick brings the limit of lane `n` to 0 (R65); a limit of none does not run out. -/
def Work.limitRunsOut (n : LaneNo) (w : Work) : Bool :=
  decide ((w.laneOf n).state = .draining) && (w.laneOf n).progress.limit.any fun k => decide (k ≤ 1)

/-- A deadline one tick nearer. -/
def countDown (d : Option Nat) : Option Nat := d.map fun k => k - 1

/-- A counted tick that ends nothing: the wait count of a WAITING lane and the limit of a DRAINING one fall by one. -/
def Lane.countTick (l : Lane) : Lane :=
  match l.state with
  | .waiting => { l with progress := { l.progress with waitCount := l.progress.waitCount - 1 } }
  | .draining => { l with progress := { l.progress with limit := countDown l.progress.limit } }
  | .idle | .ready | .active | .parked | .held | .faulted => l

/-- A counted tick at lane `n`: a WAIT that runs out is complete, a block whose DRAIN limit runs out retires TIMEOUT, and
another count falls by one (R64, R65, R166). -/
def tickLane (n : LaneNo) (w : Work) : Work :=
  if w.waitRunsOut n then completeWaiting n w
  else if w.limitRunsOut n then retire n .timeout w
  else w.modLane n Lane.countTick

/-- The lane unit takes a tick: it is counted only while the engine is RUNNING, lane by lane in ascending number (R64, R65,
R167; the order is the model's choice, log 12). -/
def tickLanes (w : Work) : Work :=
  if w.port.engine = .running then (List.finRange 8).foldl (fun w n => tickLane n w) w else w

/-! ## Meanings -/

/-- NUDGE (R57, R58, R66). -/
def execNudge (operand : BitVec 5) (s : State) : Host.Outcome State Fault Refusal :=
  event (State.onWork fun w =>
    match postedHostLane operand with
    | some n => postToHostLane n (nudgeLane n) (fun l => { l with nudgePending := true }) w
    | none => w) s

/-- RESUME (R57, R59, R66). -/
def execResume (operand : BitVec 5) (s : State) : Host.Outcome State Fault Refusal :=
  event (State.onWork fun w =>
    match postedHostLane operand with
    | some n => postToHostLane n (resumeLane n) (fun l => { l with resumePending := true }) w
    | none => w) s

/-- CANCEL of lane `n`: the pending flags are cleared at once (R62, R63, R81). -/
def cancelLane (n : LaneNo) (w : Work) : Work :=
  let w1 := w.modLane n fun l => { l with nudgePending := false, resumePending := false }
  settleLanes (if n = 3 then cancelLane3 w1 else cancelHostLane n w1)

/-- CANCEL (R57, R62, R63, R81). -/
def execCancel (operand : BitVec 5) (s : State) : Host.Outcome State Fault Refusal :=
  event (State.onWork fun w =>
    match postedLane operand with
    | some n => cancelLane n w
    | none => w) s

end Sys2Proof.Machine
end

