-- ==== Sys2Proof/Machine/Line.lean ====
section
/-! DEFINITION. The line receiver (spec/07): decoding, the window, breaks, frames, the CRC, the checks at the close, losses
and gaps, the acceptance of frames, the line status record, and the slot returns. -/

namespace Sys2Proof.Machine

/-- Change the line receiver. -/
def Work.modLine (f : LineReceiver → LineReceiver) (w : Work) : Work := { w with line := f w.line }

/-! ## The line status record (R158) -/

/-- The expected sequence word: the NONE flag with 0, or the sequence (spec/11, 11.2). -/
def sequenceWord (expected : Option Byte) : Word :=
  match expected with
  | some e => e.setWidth 16
  | none => 0x8000

/-- The words of one write of the line status record, in the order of R158's table, the line state word last. -/
def Work.lineStatusWords (w : Work) : List (Addr × Word) :=
  let l := w.line
  [(w.exchange 0x42, (BitVec.ofBool l.breakFlag).setWidth 16), (w.exchange 0x44, sequenceWord l.expected),
    (w.exchange 0x46, l.accepted), (w.exchange 0x48, BitVec.ofNat 16 l.losses),
    (w.exchange 0x4C, BitVec.ofNat 16 l.gaps), (w.exchange 0x4E, l.gapExpected ++ l.gapReceived),
    (w.exchange 0x50, l.lastArrival), (w.exchange 0x40, l.state.code.setWidth 16)]

/-- The receiver writes the line status record; a failed write is not repeated (R157, R158). -/
def writeLineStatus (w : Work) : Work := (writeStationList .line none w.lineStatusWords w).2

/-! ## Losses (R146) -/

/-- The first-loss reason word is written if it reads 0 (R146 step 3, R190). -/
def noteFirstLoss (reason : LossReason) (w : Work) : Work :=
  match readStation .line none (w.exchange 0x4A) w with
  | (some v, w1) => if v = 0 then (writeStation .line none (w1.exchange 0x4A) reason.code w1).2 else w1
  | (none, w1) => w1

/-- A loss is counted and reported (R146 steps 2 to 5). -/
def reportLoss (reason : LossReason) (w : Work) : Work :=
  setCause .lineLoss (writeLineStatus (noteFirstLoss reason
    (w.modLine fun l => { l with losses := saturate16 l.losses 1 })))

/-- Discard a frame that holds slot `k` (R146). -/
def discardSlot (k : SlotNo) (reason : LossReason) (w : Work) : Work := reportLoss reason (changeSlot k .free w)

/-- The frame in assembly goes on with no slot: the rest of it is skipped (R141). -/
def skipFrame (w : Work) : Work := w.modLine fun l => { l with frame := l.frame.map fun f => { f with slot := none } }

/-! ## The settings in force -/

/-- The octets of the CRC in force (R141). -/
def LineSettings.crcOctets (t : LineSettings) : Nat := if t.crc32 then 4 else 2

/-- The CRC octets in force; with no settings in force the line cannot be on (R159). -/
def Work.crcOctets (w : Work) : Nat :=
  match w.line.settings with
  | some t => t.crcOctets
  | none => 2

/-- The octets a slot's payload area holds (R142). -/
def Work.payloadRoom (w : Work) : Nat :=
  match w.line.spool with
  | some sp => sp.size - 16
  | none => 0

/-! ## The CRC (R144) -/

/-- The reflected polynomial of a CRC of `octets` octets. -/
def crcPolynomial (octets : Nat) : BitVec 32 := if octets = 4 then 0xEDB88320 else 0x8408

/-- The CRC register at the open of a frame: every bit of its width set. -/
def crcStart (octets : Nat) : BitVec 32 := if octets = 4 then 0xFFFFFFFF else 0xFFFF

/-- One bit taken into the CRC register. -/
def crcBit (octets : Nat) (reg : BitVec 32) (b : Bool) : BitVec 32 :=
  if (reg.getLsbD 0 != b) = true then (reg >>> 1) ^^^ crcPolynomial octets else reg >>> 1

/-- One octet taken into the CRC register, from bit 0 to bit 7. -/
def crcOctet (octets : Nat) (reg : BitVec 32) (o : Byte) : BitVec 32 :=
  (List.range 8).foldl (fun reg i => crcBit octets reg (o.getLsbD i)) reg

/-- The value the delay's octets spell, the first octet lowest. -/
def crcValue (delay : List Byte) : BitVec 32 :=
  delay.foldr (fun o (v : BitVec 32) => (v <<< 8) ||| o.setWidth 32) 0

/-- The frame passes the CRC check (R144). -/
def Frame.crcPasses (octets : Nat) (f : Frame) : Bool := (f.crc ^^^ crcStart octets) = crcValue f.delay

/-! ## The frame in assembly (R141, R142) -/

/-- A frame at its open, with its slot. -/
def Frame.opened (crcOctets : Nat) (slot : Option SlotNo) : Frame where
  slot := slot
  head := []
  delay := []
  stored := 0
  half := none
  octets := 0
  bits := 8
  long := false
  crc := crcStart crcOctets

/-- The address of payload word `j` of slot `k` (R142). -/
def Work.payloadAddress (w : Work) (k : SlotNo) (j : Nat) : Addr := addressPlus (w.slotAddress k) (16 + 2 * j)

/-- An octet enters the delay; the oldest leaves a full one (R142). -/
def Frame.enterDelay (crcOctets : Nat) (o : Byte) (f : Frame) : Option Byte × Frame :=
  let counted := { f with octets := saturate16 f.octets 1 }
  match f.delay with
  | first :: rest =>
    if crcOctets ≤ f.delay.length then (some first, { counted with delay := rest ++ [o] })
    else (none, { counted with delay := f.delay ++ [o] })
  | [] => (none, { counted with delay := [o] })

/-- What an octet that leaves the delay does to the frame; a payload word to be written comes with it (R142). -/
def Frame.absorb (crcOctets room : Nat) (o : Byte) (f : Frame) : Frame × Option (Nat × Word) :=
  if f.long then (f, none)
  else if f.head.length < 3 then
    ({ f with head := f.head ++ [o], crc := crcOctet crcOctets f.crc o }, none)
  else if room ≤ f.stored then ({ f with long := true }, none)
  else
    let taken := { f with stored := f.stored + 1, crc := crcOctet crcOctets f.crc o }
    match f.half with
    | some first => ({ taken with half := none }, some (f.stored / 2, first ++ o))
    | none => ({ taken with half := some o }, none)

/-- Put the frame in assembly back. -/
def Work.withFrame (f : Frame) (w : Work) : Work := w.modLine fun l => { l with frame := some f }

/-- A completed octet of an open frame that holds slot `k` (R142). -/
def frameOctetInSlot (k : SlotNo) (o : Byte) (f : Frame) (w : Work) : Work :=
  let (leaving, f1) := f.enterDelay w.crcOctets o
  match leaving with
  | none => w.withFrame f1
  | some first =>
    let (f2, toWrite) := f1.absorb w.crcOctets w.payloadRoom first
    match toWrite with
    | none => w.withFrame f2
    | some (j, v) =>
      match writeStation .line none (w.payloadAddress k j) v (w.withFrame f2) with
      | (true, w1) => w1
      | (false, w1) => discardSlot k .memory (skipFrame w1)

/-- A completed octet of the open frame; a skipped frame only counts it (R141, R142). -/
def takeFrameOctet (o : Byte) (w : Work) : Work :=
  match w.line.frame with
  | none => w
  | some f =>
    match f.slot with
    | some k => frameOctetInSlot k o f w
    | none => w.withFrame { f with octets := saturate16 f.octets 1 }

/-- The FREE slot with the lowest number of the spool in force (R141). -/
def Work.lowestFree (w : Work) : Option SlotNo :=
  match w.line.spool with
  | some sp => (List.finRange 32).find? fun k => decide (k.val < sp.count) && decide (w.slotOf k = .free)
  | none => none

/-- The frame opens: its slot becomes FILLING (R141). -/
def openSlot (k : SlotNo) (w : Work) : Work :=
  let opened := ((w.modLine fun l => { l with state := .frame }).withFrame (Frame.opened w.crcOctets (some k))).setSlot k .filling
  match writeSlotWord k .filling opened with
  | (true, w1) => writeLineStatus w1
  | (false, w1) => writeLineStatus (discardSlot k .memory (skipFrame w1))

/-- The frame opens with no slot FREE: it is skipped, and the loss is counted (R141). -/
def openSkipped (w : Work) : Work :=
  let opened := (w.modLine fun l => { l with state := .frame }).withFrame (Frame.opened w.crcOctets none)
  writeLineStatus (reportLoss .full opened)

/-- The first octet after a flag opens a frame (R138, R141). -/
def openFrame (o : Byte) (w : Work) : Work :=
  takeFrameOctet o (match w.lowestFree with
    | some k => openSlot k w
    | none => openSkipped w)

/-! ## Purge, acceptance and the checks at the close -/

/-- A purge of the lane 3 work by a break: the expected sequence becomes NONE, and the line status record is written
(R140). -/
def breakPurge (w : Work) : Work := writeLineStatus ((purgeLane3 w).modLine fun l => { l with expected := none })

/-- The kinds of frame (R145 step 6). -/
inductive FrameKind | draw | pass | purge
  deriving DecidableEq, Repr

/-- The kind an octet names. -/
def frameKind (o : Byte) : Option FrameKind :=
  if o = 1 then some .draw else if o = 2 then some .pass else if o = 3 then some .purge else none

/-- Octet `i` of the head octets: the address, the kind, the sequence (R141). -/
def Frame.headOctet (f : Frame) (i : Nat) : Byte := f.head.getD i 0

/-- The payload octet count (R145). -/
def Frame.payloadOctets (crcOctets : Nat) (f : Frame) : Nat := f.octets - 3 - crcOctets

/-- The first of the four checks that the frame fails (R145 steps 1 to 4). -/
def Frame.failedCheck (crcOctets : Nat) (f : Frame) : Option LossReason :=
  if f.bits.toNat % 8 ≠ 0 then some .align
  else if f.octets < 3 + crcOctets then some .short
  else if f.long then some .long
  else if f.crcPasses crcOctets = false then some .crc
  else none

/-- The sequence check (R148). -/
def checkSequence (received : Byte) (w : Work) : Work :=
  match w.line.expected with
  | none => writeLineStatus (w.modLine fun l => { l with expected := some (received + 1) })
  | some e =>
    if e = received then writeLineStatus (w.modLine fun l => { l with expected := some (received + 1) })
    else
      setCause .lineGap (writeLineStatus (w.modLine fun l =>
        { l with
          expected := some (received + 1)
          gaps := saturate16 l.gaps 1
          gapExpected := e
          gapReceived := received }))

/-- FORMAT: a frame of no known kind, or a DRAW with an odd payload (R145 step 6). -/
def Frame.format (crcOctets : Nat) (f : Frame) : Option FrameKind :=
  match frameKind (f.headOctet 1) with
  | some .draw => if f.payloadOctets crcOctets % 2 = 0 then some .draw else none
  | other => other

/-- The address filter (R149). -/
def Work.addressAccepted (w : Work) (address : Byte) : Bool :=
  address = w.port.station || address = 0xFF ||
    (match w.line.settings with
    | some t => t.groups.any fun g => g.enabled && g.code = address
    | none => false)

/-- The words that complete an accepted slot: a payload word left over, then W1 to W7 (R150). -/
def Work.acceptWords (w : Work) (k : SlotNo) (f : Frame) : List (Addr × Word) :=
  let a := w.slotAddress k
  (match f.half with
    | some o => [(w.payloadAddress k ((f.stored - 1) / 2), o ++ (0 : Byte))]
    | none => []) ++
  [(addressPlus a 2, f.headOctet 1 ++ f.headOctet 0), (addressPlus a 4, (f.headOctet 2).setWidth 16),
    (addressPlus a 6, BitVec.ofNat 16 (f.payloadOctets w.crcOctets)), (addressPlus a 8, w.stamp),
    (addressPlus a 10, 0), (addressPlus a 12, 0), (addressPlus a 14, 0)]

/-- The kind's action on an accepted frame (R151 to R153). -/
def frameAction (kind : FrameKind) (k : SlotNo) (octets : Nat) (w : Work) : Work :=
  match kind with
  | .draw => queueSlot k octets w
  | .pass => setCause .linePass (changeSlot k .passed w)
  | .purge => changeSlot k .free (purgeLane3 w)

/-- An accepted frame (R150). -/
def acceptFrame (kind : FrameKind) (k : SlotNo) (f : Frame) (w : Work) : Work :=
  match writeStationList .line none (w.acceptWords k f) w with
  | (true, w1) =>
    let counted := w1.modLine fun l => { l with accepted := l.accepted + 1, lastArrival := w1.stamp }
    writeLineStatus (frameAction kind k (f.payloadOctets counted.crcOctets) counted)
  | (false, w1) => discardSlot k .memory w1

/-- Steps 6 and 7 of R145. -/
def formatAndAddress (k : SlotNo) (f : Frame) (w : Work) : Work :=
  match f.format w.crcOctets with
  | none => discardSlot k .format w
  | some kind => if w.addressAccepted (f.headOctet 0) then acceptFrame kind k f w else changeSlot k .free w

/-- The checks at the closing flag of a frame that holds slot `k` (R145). -/
def closeChecks (k : SlotNo) (f : Frame) (w : Work) : Work :=
  match f.failedCheck w.crcOctets with
  | some reason => discardSlot k reason w
  | none => formatAndAddress k f (checkSequence (f.headOctet 2) w)

/-- The line leaves FRAME for HUNT, and the line status record is written (R143, R158). -/
def endFrame (flagSeen : Bool) (w : Work) : Work :=
  writeLineStatus (w.modLine fun l =>
    { l with state := .hunt, flagSeen := flagSeen, frame := none, octetBits := [], zeros := 0 })

/-- A closing flag (R143, R145). -/
def closeFrame (w : Work) : Work :=
  endFrame true
    (match w.line.frame with
    | some f =>
      match f.slot with
      | some k => closeChecks k f w
      | none => w
    | none => w)

/-- An abort in FRAME (R143). -/
def abortFrame (w : Work) : Work :=
  endFrame false
    (match w.line.frame with
    | some f =>
      match f.slot with
      | some k => discardSlot k .abort w
      | none => w
    | none => w)

/-! ## Bits (R136 to R139)

Each function answers the events that its bit completes, beside the state. -/

/-- The zero count that makes a break (R139). -/
def breakLength : Nat := 32

/-- The line becomes BREAK (R139, R140). -/
def enterBreak (w : Work) : Work :=
  let broken := setCause .lineBreak (writeLineStatus (w.modLine fun l => { l with state := .inBreak, breakFlag := true }))
  match w.line.settings with
  | some t => if t.breakPurge then breakPurge broken else broken
  | none => broken

/-- The break ends (R139). -/
def endBreak (w : Work) : Work :=
  setCause .lineBreak (writeLineStatus (w.modLine fun l =>
    { l with state := .hunt, breakFlag := false, flagSeen := false, window := [], zeros := 0 }))

/-- The break count takes a decoded bit before the window does (R139). -/
def countBreak (b : Bool) (w : Work) : Work × List LineEvent :=
  match w.line.state with
  | .hunt =>
    let zeros := if b then 0 else w.line.zeros + 1
    let counted := w.modLine fun l => { l with zeros := zeros }
    if zeros = breakLength then (enterBreak counted, [.breakEntry]) else (counted, [])
  | .inBreak => if b then (endBreak w, [.breakEnd]) else (w, [])
  | .off | .frame => (w, [])

/-- The octet of eight data bits, the first taken in bit 0 (R137). -/
def octetOf (bits : List Bool) : Byte := BitVec.ofFnLE fun i : Fin 8 => bits.getD i.val false

/-- A data bit is taken in HUNT with flag-seen set or in FRAME; the eighth completes an octet (R137, R138). -/
def takeDataBit (b : Bool) (w : Work) : Work × List LineEvent :=
  let bits := w.line.octetBits ++ [b]
  let taken := w.modLine fun l =>
    { l with
      ones := if b then l.ones + 1 else 0
      octetBits := if bits.length = 8 then [] else bits
      frame := l.frame.map fun f => { f with bits := f.bits + 1 } }
  if bits.length = 8 then
    if w.line.state = .frame then (takeFrameOctet (octetOf bits) taken, [.frameOctet])
    else (openFrame (octetOf bits) taken, [.frameOpen])
  else (taken, [])

/-- A bit that leaves the window is offered as a data bit: an inserted 0 is removed (R137). -/
def offerBit (b : Bool) (w : Work) : Work × List LineEvent :=
  if w.line.state = .frame ∨ (w.line.state = .hunt ∧ w.line.flagSeen = true) then
    if b = false ∧ w.line.ones = 5 then (w.modLine fun l => { l with ones := 0 }, []) else takeDataBit b w
  else (w, [])

/-- The oldest bit leaves a full window; a flag's final 0 is discarded (R137). -/
def leaveWindow (w : Work) : Work × List LineEvent :=
  match w.line.window with
  | oldest :: rest =>
    if 8 ≤ w.line.window.length then
      let shifted := w.modLine fun l => { l with window := rest }
      if oldest.flagEnd then (shifted, []) else offerBit oldest.bit shifted
    else (w, [])
  | [] => (w, [])

/-- The eight bits of a flag, oldest first (R137). -/
def flagBits : List Bool := [false, true, true, true, true, true, true, false]

/-- The window holds a flag. -/
def windowIsFlag (window : List WindowBit) : Bool := window.map WindowBit.bit = flagBits

/-- The seven newest bits of the window are all 1. -/
def windowIsAbort (window : List WindowBit) : Bool :=
  decide (7 ≤ window.length) && (window.drop (window.length - 7)).all WindowBit.bit

/-- A flag is recognised (R137, R138, R143). -/
def takeFlag (w : Work) : Work × List LineEvent :=
  let marked := w.modLine fun l => { l with window := [{ bit := false, flagEnd := true }], ones := 0 }
  match w.line.state with
  | .hunt => (marked.modLine fun l => { l with flagSeen := true, octetBits := [] }, [.huntFlag])
  | .frame => (closeFrame marked, [.frameClose])
  | .off | .inBreak => (marked, [])

/-- An abort is recognised (R137, R138, R143). -/
def takeAbort (w : Work) : Work × List LineEvent :=
  let emptied := w.modLine fun l => { l with window := [], ones := 0 }
  match w.line.state with
  | .hunt =>
    (emptied.modLine fun l => { l with flagSeen := false, octetBits := [] },
      if w.line.flagSeen then [.huntAbort] else [])
  | .frame => (abortFrame emptied, [.frameAbort])
  | .off | .inBreak => (emptied, [])

/-- The window is examined after each entry (R137). A run of 1 bits after an abort is an abort again at every seventh bit,
since the window was emptied (the model's choice, log 35); such an abort finds flag-seen clear and has no effect (R138). -/
def examineWindow (w : Work) : Work × List LineEvent :=
  if windowIsFlag w.line.window then takeFlag w
  else if windowIsAbort w.line.window then takeAbort w
  else (w, [])

/-- A decoded bit enters the window at its newest end (R137). -/
def enterWindow (b : Bool) (w : Work) : Work :=
  w.modLine fun l => { l with window := l.window ++ [{ bit := b, flagEnd := false }] }

/-- One decoded bit is passed on to the break count and the window, and the lanes it made READY are subject to the
engine's choice (R68, R136 to R139). That the choice, with the writes of its grant (a slot's W0 as RUNNING, the lane record
as ACTIVE), comes after every write of the receiver's for the same bit, the line status records of a close or of a break
purge among them, is the model's choice (log 38). -/
def takeBit (b : Bool) (w : Work) : Work × List LineEvent :=
  let (w1, e1) := countBreak b w
  let (w2, e2) := leaveWindow w1
  let (w3, e3) := examineWindow (enterWindow b w2)
  (settleLanes w3, e1 ++ e2 ++ e3)

/-- Decoded bits one after another. -/
def takeBits : List Bool → Work → Work × List LineEvent
  | [], w => (w, [])
  | b :: rest, w =>
    let (w1, e1) := takeBit b w
    let (w2, e2) := takeBits rest w1
    (w2, e1 ++ e2)

/-- The coding in force is NRZI (R159). -/
def Work.codingIsNrzi (w : Work) : Bool :=
  match w.line.settings with
  | some t => t.nrzi
  | none => false

/-- The bit a sample forms: none at the first NRZI sample, which only sets the reference level (R136). -/
def decodeSample (ldat : Bool) (w : Work) : Option Bool × Work :=
  if w.codingIsNrzi then
    (w.line.reference.map fun level => level == ldat, w.modLine fun l => { l with reference := some ldat })
  else (some ldat, w)

/-- The bits a buffer holds at most (R136). -/
def bufferRoom : Nat := 64

/-- Every buffered bit is passed on, in the order of decoding (R136). -/
def passBuffered (w : Work) : Work × List LineEvent := takeBits w.line.buffer (w.modLine fun l => { l with buffer := [] })

/-- A rising edge of LCLK that finds the receiver free: the bits that waited are passed on, and then this one (R136). -/
def freeEdge (ldat : Bool) (w : Work) : Work × List LineEvent :=
  if w.line.state = .off then (w, [])
  else
    let (bit, w1) := decodeSample ldat w
    let (w2, e1) := passBuffered w1
    let (w3, e2) := takeBits bit.toList w2
    (w3, e1 ++ e2)

/-- A rising edge while the receiver is still taking an earlier event: the bit waits, or is lost when 64 wait (R136). -/
def busyEdge (ldat : Bool) (w : Work) : Work :=
  if w.line.state = .off then w
  else
    let (bit, w1) := decodeSample ldat w
    w1.modLine fun l => { l with buffer := if l.buffer.length < bufferRoom then l.buffer ++ bit.toList else l.buffer }

/-- An edge that completes `e`; an edge that does not is another command's event (log 8). -/
def edgeWith (e : LineEvent) (ldat : Bool) (w : Work) : Work :=
  let (w1, events) := freeEdge ldat w
  if e ∈ events then w1 else w

/-! ## On and off (R134, R135) -/

/-- The line enters HUNT from OFF (R134, R136). -/
def lineHunt (w : Work) : Work :=
  writeLineStatus (w.modLine fun l =>
    { l with
      state := .hunt
      flagSeen := false
      reference := none
      window := []
      ones := 0
      zeros := 0
      octetBits := [] })

/-- A FILLING slot becomes FREE at a stop of the line, without a loss (R135). -/
def dropFrame (w : Work) : Work :=
  match w.line.frame with
  | some f =>
    match f.slot with
    | some k => changeSlot k .free w
    | none => w
  | none => w

/-- The line becomes OFF (R135). -/
def lineOff (w : Work) : Work :=
  if w.line.state = .off then w
  else
    writeLineStatus ((dropFrame w).modLine fun l =>
      { l with state := .off, frame := none, breakFlag := false, octetBits := [], buffer := [] })

/-- The line receiver acts on a LINE_ON value (R134, R135). -/
def actOnLineOn (value : Bool) (w : Work) : Work :=
  if value then
    if w.line.state = .off ∧ w.port.engine = .running then lineHunt w else w
  else lineOff w

/-! ## Slot returns (R152) -/

/-- The slot of the spool in force that a RETURN names. -/
def Work.returnedSlot (w : Work) (slot : BitVec 5) : Option SlotNo :=
  match w.line.spool with
  | some sp => if slot.toNat < sp.count ∧ w.slotOf slot.toFin = .passed then some slot.toFin else none
  | none => none

/-! ## Meanings -/

/-- RETURN (R152). -/
def execReturnSlot (slot : BitVec 5) (s : State) : Host.Outcome State Fault Refusal :=
  event (State.onWork fun w =>
    match w.returnedSlot slot with
    | some k => changeSlot k .free w
    | none => w) s

/-- LINE_ON (R134, R135, R172). -/
def execLineOn (value : Bool) (s : State) : Host.Outcome State Fault Refusal :=
  event (State.onWork fun w => actOnLineOn value { w with port := { w.port with lineOn := value } }) s

/-- HUNT_FLAG (R138). -/
def execHuntFlag (ldat : Bool) (s : State) : Host.Outcome State Fault Refusal :=
  event (State.onWork (edgeWith .huntFlag ldat)) s

/-- HUNT_ABORT (R138). -/
def execHuntAbort (ldat : Bool) (s : State) : Host.Outcome State Fault Refusal :=
  event (State.onWork (edgeWith .huntAbort ldat)) s

/-- FRAME_OPEN (R141). -/
def execFrameOpen (ldat : Bool) (s : State) : Host.Outcome State Fault Refusal :=
  event (State.onWork (edgeWith .frameOpen ldat)) s

/-- FRAME_OCTET (R142). -/
def execFrameOctet (ldat : Bool) (s : State) : Host.Outcome State Fault Refusal :=
  event (State.onWork (edgeWith .frameOctet ldat)) s

/-- FRAME_ABORT (R143). -/
def execFrameAbort (ldat : Bool) (s : State) : Host.Outcome State Fault Refusal :=
  event (State.onWork (edgeWith .frameAbort ldat)) s

/-- FRAME_CLOSE (R145). -/
def execFrameClose (ldat : Bool) (s : State) : Host.Outcome State Fault Refusal :=
  event (State.onWork (edgeWith .frameClose ldat)) s

/-- BREAK_ENTRY (R139, R140). -/
def execBreakEntry (ldat : Bool) (s : State) : Host.Outcome State Fault Refusal :=
  event (State.onWork (edgeWith .breakEntry ldat)) s

/-- BREAK_END (R139). -/
def execBreakEnd (ldat : Bool) (s : State) : Host.Outcome State Fault Refusal :=
  event (State.onWork (edgeWith .breakEnd ldat)) s

/-- LCLK_RISING_EDGE (R136 to R139). -/
def execLclkRisingEdge (ldat busy : Bool) (s : State) : Host.Outcome State Fault Refusal :=
  event (State.onWork fun w => if busy then busyEdge ldat w else (freeEdge ldat w).1) s

end Sys2Proof.Machine
end

