-- ==== Sys2Proof/Machine/Start.lean ====
section
/-! DEFINITION. The engine states (spec/09, 9.3 and 9.4): RUN, the settings read and its checks, the spool reset, the header,
and the entries into RUNNING, STOPPING and HALTED. -/

namespace Sys2Proof.Machine

/-- Change the port. -/
def Work.modPort (f : Port → Port) (w : Work) : Work := { w with port := f w.port }

/-! ## The settings record (R175; spec/11, 11.2) -/

/-- The settings of a record whose words were all read. -/
structure Settings where
  budgetCode : Nat
  fenceLow : Addr
  fenceHigh : Addr
  spoolBase : Addr
  slotCount : Nat
  slotSize : Nat
  line : LineSettings
  deriving DecidableEq, Repr

/-- A group code word (spec/11, 11.2). -/
def groupCode (w : Word) : GroupCode := { code := w.extractLsb' 0 8, enabled := w.getLsbD 15 }

/-- The line settings of the line options word and the four group words. -/
def lineSettings (options : Word) (groups : List Word) : LineSettings :=
  { nrzi := options.getLsbD 0
    crc32 := options.getLsbD 1
    breakPurge := options.getLsbD 2
    groups := groups.map groupCode }

/-- The settings of the sixteen words. -/
def settingsOf (ws : List Word) : Settings :=
  { budgetCode := fieldNat ws 0
    fenceLow := address20 (fieldWord ws 1) (fieldWord ws 2)
    fenceHigh := address20 (fieldWord ws 3) (fieldWord ws 4)
    spoolBase := address20 (fieldWord ws 5) (fieldWord ws 6)
    slotCount := fieldNat ws 7
    slotSize := fieldNat ws 8
    line := lineSettings (fieldWord ws 9) [fieldWord ws 10, fieldWord ws 11, fieldWord ws 12, fieldWord ws 13] }

/-- The fence check (R175). -/
def Settings.fenceOk (t : Settings) : Bool :=
  addressEven t.fenceLow && addressEven t.fenceHigh && decide (t.fenceLow.toNat < t.fenceHigh.toNat)

/-- The spool check, its sum formed without wrapping (R154, R175). -/
def Settings.spoolOk (t : Settings) : Bool :=
  decide (2 ≤ t.slotCount) && decide (t.slotCount ≤ 32) && decide (t.slotSize % 64 = 0) && decide (64 ≤ t.slotSize)
    && decide (t.slotSize ≤ 1024) && decide (t.spoolBase.toNat % 64 = 0)
    && decide (t.fenceLow.toNat ≤ t.spoolBase.toNat)
    && decide (t.spoolBase.toNat + t.slotCount * t.slotSize ≤ t.fenceHigh.toNat)

/-- The first check that fails (R175). -/
def Settings.failedCheck (t : Settings) : Option SetupReason :=
  if 3 < t.budgetCode then some .budget
  else if t.fenceOk = false then some .fence
  else if t.spoolOk = false then some .spool
  else none

/-- The spool geometry of the settings. -/
def Settings.spool (t : Settings) : Spool := { base := t.spoolBase, size := t.slotSize, count := t.slotCount }

/-! ## The header (R179) -/

/-- The words of the header, the setup reason last; 18H to 1CH are not used. -/
def Work.headerWords (w : Work) (reason : SetupReason) : List (Addr × Word) :=
  [(w.exchange 0x00, 0x5120), (w.exchange 0x02, 1), (w.exchange 0x04, w.port.station.setWidth 16),
    (w.exchange 0x06, w.port.segment.setWidth 16), (w.exchange 0x08, w.port.startCause.code), (w.exchange 0x0A, 8),
    (w.exchange 0x0C, 2), (w.exchange 0x0E, 4), (w.exchange 0x10, 3), (w.exchange 0x12, 96), (w.exchange 0x14, 32),
    (w.exchange 0x16, 1024), (w.exchange 0x1E, reason.code)]

/-- The port writes the header; at a write error the remaining words are not written (R176, R179). -/
def writeHeader (reason : SetupReason) (w : Work) : Work :=
  (writeStationList .engine none (w.headerWords reason) w).2

/-! ## The spool reset (R156) -/

/-- Lane 3 holds a RUNNING slot. -/
def Work.lane3Running (w : Work) : Bool :=
  match w.heldSlot with
  | some p => decide (w.slotOf p.slot = .running)
  | none => false

/-- Steps 1 and 2: lane 3's RUNNING slot retires CANCELLED, the other slots are discarded, and lane 3, unless it is
FAULTED, becomes IDLE and its record is written (log 28). -/
def discardOldSpool (w : Work) : Work :=
  let cancelled := if w.lane3Running then retireSlot .cancelled w else w
  let emptied := cancelled.modLine fun l =>
    { l with slots := Vector.replicate 32 .free, pendingSlots := [], purgeRequested := false }
  if (emptied.laneOf 3).state = .faulted then emptied else idleLane3 emptied

/-- The slots of a spool, from slot 0 on. -/
def Spool.slots (sp : Spool) : List SlotNo := (List.finRange 32).filter fun k => decide (k.val < sp.count)

/-- Steps 3 and 4: the new geometry comes into force with every slot FREE, and the expected sequence is NONE. -/
def freshSpool (sp : Spool) (w : Work) : Work :=
  (sp.slots.foldl (fun w k => changeSlot k .free w) (w.modLine fun l => { l with spool := some sp })).modLine
    fun l => { l with expected := none }

/-- The spool is reset if its geometry has changed (R156). -/
def takeGeometry (sp : Spool) (w : Work) : Work :=
  if w.line.spool = some sp then w else freshSpool sp (discardOldSpool w)

/-! ## The end of a start (R175 to R177) -/

/-- A start that fails (R177). -/
def failStart (reason : SetupReason) (w : Work) : Work :=
  (setCause .setup ((writeHeader reason w).modPort fun p => { p with run := false })).modPort
    fun p => { p with engine := .halted }

/-- Entry into RUNNING: the pending flags, the line, and the engine's first choice (R67, R68, R134, R176). That the line's
entry into HUNT, with its status record, comes between the postings and the choice is the model's choice (log 36). -/
def enterRunning (w : Work) : Work :=
  let acted := actOnAllPending (w.modPort fun p => { p with engine := .running })
  settleLanes (if acted.port.lineOn then lineHunt acted else acted)

/-- Steps 1 to 5 of a start whose settings pass; `late` is a RUN value written after the read has ended (R176). -/
def completeStart (t : Settings) (late : Option Bool) (w : Work) : Work :=
  let inForce := (w.modPort fun p => { p with fence := some { low := t.fenceLow, high := t.fenceHigh } }).modLine
    fun l => { l with settings := some t.line }
  let written := writeLineStatus (writeHeader .none (takeGeometry t.spool inForce))
  let looked := written.modPort fun p => { p with run := late.getD p.run }
  if looked.port.run then enterRunning looked else looked.modPort fun p => { p with engine := .halted }

/-- The budget of a valid record comes into force (R32, R176). -/
def takeBudget (t : Settings) (p : Panel) : Panel :=
  { p with driver := { p.driver with budget := budgetOfCode t.budgetCode } }

/-- The sixteen words have been read (R175). -/
def checkSettings (t : Settings) (late : Option Bool) (s : State) : State :=
  match t.failedCheck with
  | some reason => s.onWork (failStart reason)
  | none => (s.onPanel (takeBudget t)).onWork (completeStart t late)

/-- The settings read ends (R175). -/
def endSettingsRead (late : Option Bool) (s : State) : State :=
  match readStationList .engine none (wordRun (s.work.exchange 0x20) 16) s.work with
  | (result, w1) =>
    if w1.port.run = false then { s with work := w1.modPort fun p => { p with engine := .halted } }
    else
      match result with
      | none => { s with work := failStart .memory w1 }
      | some ws => checkSettings (settingsOf ws) late { s with work := w1 }

/-! ## RUN (R174, R178) -/

/-- Entry into STOPPING: the line becomes OFF; STOPPING ends at once if no lane is ACTIVE (R178). -/
def enterStopping (w : Work) : Work := settleLanes (lineOff (w.modPort fun p => { p with engine := .stopping }))

/-- The port acts on a RUN value (R174). -/
def actOnRun (value : Bool) (w : Work) : Work :=
  let kept := w.modPort fun p => { p with run := value }
  match w.port.engine, value with
  | .halted, true => kept.modPort fun p => { p with engine := .starting }
  | .running, false => enterStopping kept
  | .halted, false | .starting, _ | .running, true | .stopping, _ => kept

/-! ## Meanings -/

/-- RUN (R172, R174). -/
def execRun (value : Bool) (s : State) : Host.Outcome State Fault Refusal := event (State.onWork (actOnRun value)) s

/-- SETTINGS_READ_END (R175 to R177). -/
def execSettingsReadEnd (late : Option Bool) (s : State) : Host.Outcome State Fault Refusal :=
  event (fun s => if s.work.port.engine = .starting then endSettingsRead late s else s) s

end Sys2Proof.Machine
end

