-- ==== Sys2Proof/Machine/Planes.lean ====
section
/-! DEFINITION. The plane store (spec/01): the overlay and the target, which rows differ, how rows join and leave the
row queue, the rebuild, the painting of one panel row, and the settled flag's first half. -/

namespace Sys2Proof.Machine

/-! ## Columns -/

/-- The columns that satisfy a predicate. -/
def colsWhere (p : Fin 512 → Bool) : Cols := BitVec.ofFnLE p

/-- The columns from `n` on. -/
def colsFrom (n : Nat) : Cols := BitVec.allOnes 512 <<< n

/-- The columns from `x` to `x + w - 1` that are on the panel; `x` may lie off it (R83). -/
def colsSpan (x : Int) (w : Nat) : Cols := colsFrom x.toNat &&& ~~~(colsFrom (x + w).toNat)

/-- A box row with its left edge at panel column `x`: box column `i` is bit `i` of `pattern`. -/
def placeCols (x : Int) (pattern : Cols) : Cols :=
  if 0 ≤ x then pattern <<< x.toNat else pattern >>> (-x).toNat

/-- The number of 1 bits among the `n` lowest bits of `v`. -/
def countBits : Nat → Nat → Nat
  | 0, _ => 0
  | n + 1, v => v % 2 + countBits n (v / 2)

/-- The number of columns in a set. -/
def countCols (c : Cols) : Nat := countBits 512 c.toNat

/-- The lowest `b` 1 bits among the `n` lowest bits of `v`. -/
def lowestBits : Nat → Nat → Nat → Nat
  | 0, _, _ => 0
  | n + 1, b, v =>
    if b = 0 then 0
    else if v % 2 = 1 then 1 + 2 * lowestBits n (b - 1) (v / 2)
    else 2 * lowestBits n b (v / 2)

/-- The lowest columns of a set, up to `b` of them (R33, R34). -/
def lowestCols (b : Nat) (c : Cols) : Cols := BitVec.ofNat 512 (lowestBits 512 b c.toNat)

/-- Every row, in ascending order. -/
def allRows : List Row := List.finRange 512

/-! ## The marker overlay and the target (R4, R5) -/

/-- Does this marker invert its rectangle now: active and on? -/
def Marker.inverts (m : Marker) : Bool := m.active && m.on

/-- Does the marker's rectangle reach this row? -/
def Marker.reaches (m : Marker) (r : Row) : Bool := decide (m.y ≤ r.val) && decide (r.val < m.y + m.h)

/-- The columns of this row that the marker inverts now. -/
def Marker.rowMask (m : Marker) (r : Row) : Cols :=
  if m.inverts && m.reaches r then colsSpan m.x m.w else 0

/-- The rows of the marker's rectangle, in ascending order. -/
def Marker.rows (m : Marker) : List Row := allRows.filter m.reaches

/-- The overlay over a row: the cells in the rectangle of an odd number of markers that are active and on (R4). -/
def Panel.overlayRow (p : Panel) (r : Row) : Cols := p.markers[0].rowMask r ^^^ p.markers[1].rowMask r

/-- The target of a row (R5). -/
def Panel.targetRow (p : Panel) (r : Row) : Cols := p.drawn[r.val] ^^^ p.overlayRow r

/-- The cells of a row that differ: T ≠ P or U = 1 (R5). -/
def Panel.differingCells (p : Panel) (r : Row) : Cols := (p.targetRow r ^^^ p.panel[r.val]) ||| p.doubt[r.val]

/-- A row differs when one of its cells differs (R5). -/
def Panel.differs (p : Panel) (r : Row) : Bool := p.differingCells r != 0

/-! ## Row states and the row queue -/

/-- The row of the pulse outstanding. -/
def Panel.firingRow (p : Panel) : Option Row :=
  match p.driver.pulse with
  | some pulse => pulse.row
  | none => none

/-- The row state of a row (R7). -/
def Panel.rowState (p : Panel) (r : Row) : RowState :=
  if p.firingRow = some r then .firing
  else if r ∈ p.queue then .queued
  else .clean

/-- Append a row at the tail of the queue. -/
def Panel.append (r : Row) (p : Panel) : Panel := { p with queue := p.queue ++ [r] }

/-- The join rule for one row that a change to T has reached (R10). -/
def Panel.join (r : Row) (p : Panel) : Panel :=
  if p.rowState r = .clean ∧ p.differs r = true then p.append r else p

/-- The join rule for the rows of one change to T, in the order given (R6). -/
def Panel.joinRows : List Row → Panel → Panel
  | [], p => p
  | r :: rest, p => Panel.joinRows rest (p.join r)

/-- The rebuild (R14). -/
def Panel.rebuild (p : Panel) : Panel := { p with queue := allRows.filter p.differs }

/-! ## Painting -/

/-- A row after a mode has acted on it: `ones` are the figure's or the pattern's 1 cells, `zeros` the pattern's 0
cells (R85). A figure has no pattern and gives no zeros, so that REPLACE acts as SET. -/
def paintCells (mode : DrawMode) (ones zeros old : Cols) : Cols :=
  match mode with
  | .set => old ||| ones
  | .clear => old &&& ~~~ones
  | .replace => (old &&& ~~~zeros) ||| ones
  | .invert => old ^^^ ones

/-- The panel row of a coordinate, none off the panel (R83). -/
def panelRow (y : Int) : Option Row :=
  if h : 0 ≤ y ∧ y < 512 then some ⟨y.toNat, by omega⟩ else none

/-- Is this panel row inside the clip window (R84)? -/
def Context.rowInside (c : Context) (r : Row) : Bool := decide (c.clipY0 ≤ r.val) && decide (r.val ≤ c.clipY1)

/-- The columns inside the clip window (R84). -/
def Context.columnsInside (c : Context) : Cols :=
  colsFrom c.clipX0 &&& ~~~(colsFrom (c.clipX1 + 1))

/-- A panel row as the mode and the clip window of a context make it. -/
def Context.paintedRow (c : Context) (ones zeros old : Cols) : Cols :=
  paintCells c.mode (ones &&& c.columnsInside) (zeros &&& c.columnsInside) old

/-- Paint one row of a figure or box: the cells that are on the panel and inside the window are changed, and a row that
changes is taken by the join rule. Answers the number of cells changed (R83 to R85, R89). -/
def Panel.paintRow (c : Context) (y : Int) (ones zeros : Cols) (p : Panel) : Panel × Nat :=
  match panelRow y with
  | none => (p, 0)
  | some r =>
    if c.rowInside r then
      let old := p.drawn[r.val]
      let new := c.paintedRow ones zeros old
      if new = old then (p, 0)
      else (Panel.join r { p with drawn := p.drawn.set r.val new }, countCols (old ^^^ new))
    else (p, 0)

/-- One row of a drawing: its coordinate, its 1 cells and its 0 cells. -/
structure PaintedRow where
  y : Int
  ones : Cols
  zeros : Cols
  deriving DecidableEq, Repr

/-- Paint rows one after another, and count the cells changed. -/
def Panel.paintRows (c : Context) : List PaintedRow → Panel → Panel × Nat
  | [], p => (p, 0)
  | row :: rest, p =>
    let (p1, n1) := p.paintRow c row.y row.ones row.zeros
    let (p2, n2) := Panel.paintRows c rest p1
    (p2, n1 + n2)

/-- The lit cells of a plane. -/
def Plane.litCells (p : Plane) : Nat := (p.toList.map countCols).sum

/-- The rows of D that hold a lit cell, in ascending order. -/
def Panel.litRows (p : Panel) : List Row := allRows.filter fun r => p.drawn[r.val] != 0

/-- CLEARALL on the plane store: D is cleared, the rows whose target changed are taken in ascending order, and the bulk
request is set when the supply is READY (R16, R104). -/
def Panel.clearAll (p : Panel) : Panel :=
  let joined := Panel.joinRows p.litRows { p with drawn := Plane.dark }
  if joined.supply.state = .ready then { joined with bulkRequest := true } else joined

/-! ## The drive port's answers at the plane store -/

/-- PDONE of a row pulse: the selected cells take the pulse's value and lose their doubt (R2, R3, R12). -/
def Panel.takeRowAnswer (kind : PulseKind) (r : Row) (selection : Cols) (p : Panel) : Panel :=
  let old := p.panel[r.val]
  { p with
    panel := p.panel.set r.val (if kind = .write then old ||| selection else old &&& ~~~selection)
    doubt := p.doubt.set r.val (p.doubt[r.val] &&& ~~~selection) }

/-- A faulted row pulse: the selected cells are doubted (R13). -/
def Panel.doubtRow (r : Row) (selection : Cols) (p : Panel) : Panel :=
  { p with doubt := p.doubt.set r.val (p.doubt[r.val] ||| selection) }

/-- Every cell doubted (R17). -/
def Plane.doubted : Plane := Vector.replicate 512 (BitVec.allOnes 512)

end Sys2Proof.Machine
end

