-- ==== Sys2Proof/Machine/Drive.lean ====
section
/-! DEFINITION. The settled flag (R18) and the pulse driver (spec/02, 2.2 to 2.6): the start test, cell selection, the
issue of a pulse, its answers, deadlines and faults, the drive fault record, and DRIVE_RESUME. -/

namespace Sys2Proof.Machine

/-! ## The settled flag -/

/-- Entry into the settled condition: the SETTLED cause is set, and every DRAINING lane goes on (R18, R65). -/
def settledEntry (s : State) : State := s.onWork fun w => completeDrains (setCause .settled w)

/-- The settled flag follows the settled condition after each change (R18). -/
def noteSettled (s : State) : State :=
  let noted : State := { s with panel := { s.panel with settled := s.panel.isSettled } }
  if s.panel.isSettled = true ∧ s.panel.settled = false then settledEntry noted else noted

/-- A change of the plane store or the driver, after which the settled flag follows. -/
def changePanel (f : Panel → Panel) (s : State) : State := noteSettled (s.onPanel f)

/-! ## The start test (R30 to R34) -/

/-- The cells of a row that need extinguishing: T = 0 and either P = 1 or U = 1 (R33). -/
def Panel.needsErase (p : Panel) (r : Row) : Cols := ~~~(p.targetRow r) &&& (p.panel[r.val] ||| p.doubt[r.val])

/-- The cells of a row that need lighting: T = 1 and either P = 0 or U = 1 (R34). -/
def Panel.needsWrite (p : Panel) (r : Row) : Cols := p.targetRow r &&& (~~~p.panel[r.val] ||| p.doubt[r.val])

/-- The pulse formed for a row handed over (R33, R34). -/
def Panel.formPulse (p : Panel) (r : Row) : Pulse :=
  let kind := if p.needsErase r = 0 then PulseKind.write else PulseKind.erase
  let cells := if p.needsErase r = 0 then p.needsWrite r else p.needsErase r
  let selection := lowestCols p.driver.budget cells
  { kind := kind, row := some r, selection := selection, count := countCols selection, deadline := none }

/-- The BULK pulse (R29). -/
def bulkPulse : Pulse :=
  { kind := .bulk, row := none, selection := BitVec.allOnes 512, count := 512, deadline := none }

/-- The driver with a pulse outstanding. -/
def Driver.withPulse (st : DriverState) (pulse : Pulse) (d : Driver) : Driver :=
  { d with state := st, pulse := some pulse }

/-- The driver with no pulse outstanding. -/
def Driver.withoutPulse (st : DriverState) (d : Driver) : Driver := { d with state := st, pulse := none }

/-- The take rule with the forming of the pulse (R11, R30). -/
def Panel.take (p : Panel) : Panel :=
  match p.queue.dropWhile (fun r => !p.differs r) with
  | [] => { p with queue := [] }
  | r :: rest => { p with queue := rest, driver := p.driver.withPulse .firing (p.formPulse r) }

/-- The start test (R30, R31). -/
def Panel.startTest (p : Panel) : Panel :=
  if p.driver.state = .idle ∧ p.supply.state = .ready then
    if p.bulkRequest then { p with driver := p.driver.withPulse .bulk bulkPulse } else p.take
  else p

/-- The start test as the last thing done in an event on the panel (R31). -/
def startTest (s : State) : State := changePanel Panel.startTest s

/-- A change to T with its joins; a row that joins while the driver is IDLE brings a start test (R10, R31). Where the plane
store was settled and that test finds every row that joined stale, the event has lost the settled condition (R10) and entered
it again (R11), and SETTLED is set: R18 also says that an event which leaves the plane store settled does not set the cause
again, and to count the entry is the model's choice (log 40). -/
def changeTarget (f : Panel → Panel) (s : State) : State :=
  let s1 := changePanel f s
  if s.panel.queue.length < s1.panel.queue.length then startTest s1 else s1

/-- What an event on the panel does last: lanes that a settled entry made READY are subject to the engine's choice. -/
def endPanelEvent (s : State) : State := s.onWork settleLanes

/-! ## Issue (R36, R37, R42) -/

/-- The column shift is complete and PREQ rises: the lines hold the row and the last column shifted, and the answer
deadline starts. -/
def Driver.issue (pulse : Pulse) (rowLines : BitVec 9) (ticks : Nat) (d : Driver) : Driver :=
  { d with
    pulse := some { pulse with deadline := some ticks }
    rowLines := rowLines
    shifted := pulse.selection
    csd := pulse.selection.getLsbD 511
    csck := Config.csckAtRest }

/-- The ticks a row pulse has to be answered, and a BULK pulse (R42). -/
def rowDeadline : Nat := 3

/-- The ticks a BULK pulse has to be answered (R42). -/
def bulkDeadline : Nat := 20

/-- PULSE_ISSUE on the panel: a row pulse that is outstanding and not yet issued. -/
def Panel.issueRow (p : Panel) : Panel :=
  match p.driver.pulse with
  | some pulse =>
    match pulse.row, pulse.deadline with
    | some r, none =>
      if p.driver.state = .firing then { p with driver := p.driver.issue pulse (BitVec.ofFin r) rowDeadline } else p
    | _, _ => p
  | none => p

/-- BULK_ISSUE on the panel. -/
def Panel.issueBulk (p : Panel) : Panel :=
  match p.driver.pulse with
  | some pulse =>
    match pulse.deadline with
    | none => if p.driver.state = .bulk then { p with driver := p.driver.issue pulse 0 bulkDeadline } else p
    | some _ => p
  | none => p

/-! ## Answers -/

/-- The row pulse outstanding that PREQ stands for, with its row and the ticks left of its deadline. -/
def Panel.issuedRowPulse (p : Panel) : Option (Pulse × Row × Nat) :=
  match p.driver.pulse with
  | some pulse =>
    match pulse.row, pulse.deadline with
    | some r, some t => if p.driver.state = .firing then some (pulse, r, t) else none
    | _, _ => none
  | none => none

/-- The BULK pulse outstanding that PREQ stands for, with the ticks left of its deadline. -/
def Panel.issuedBulkPulse (p : Panel) : Option (Pulse × Nat) :=
  match p.driver.pulse with
  | some pulse =>
    match pulse.deadline with
    | some t => if p.driver.state = .bulk then some (pulse, t) else none
    | none => none
  | none => none

/-- A row that differs goes back to the tail; another becomes CLEAN (R12). -/
def Panel.requeue (r : Row) (p : Panel) : Panel := if p.differs r then p.append r else p

/-- The completion rule (R12, R39). -/
def Panel.completeRow (pulse : Pulse) (r : Row) (p : Panel) : Panel :=
  let answered := p.takeRowAnswer pulse.kind r pulse.selection
  Panel.requeue r { answered with driver := answered.driver.withoutPulse .idle }

/-- PDONE of the BULK pulse (R17, R40). -/
def Panel.completeBulk (p : Panel) : Panel :=
  Panel.rebuild { p with
    panel := Plane.dark, doubt := Plane.dark, bulkRequest := false, driver := p.driver.withoutPulse .idle }

/-- A faulted or timed-out row pulse at the plane store and the driver (R13, R41). -/
def Panel.faultRow (pulse : Pulse) (r : Row) (p : Panel) : Panel :=
  let doubted := p.doubtRow r pulse.selection
  Panel.append r { doubted with driver := doubted.driver.withoutPulse .stalled }

/-- A faulted or timed-out BULK pulse (R17, R41). -/
def Panel.faultBulk (p : Panel) : Panel :=
  Panel.rebuild { p with
    doubt := Plane.doubted, bulkRequest := false, driver := p.driver.withoutPulse .stalled }

/-! ## The drive fault record (R44) -/

/-- The kind of a drive fault record (spec/11, 11.2). -/
inductive DriveFaultKind | fault | timeout | bulkFault | bulkTimeout
  deriving DecidableEq, Repr

/-- The kind codes of the drive fault record (spec/11, 11.2). -/
def DriveFaultKind.code : DriveFaultKind → Word
  | .fault => 1
  | .timeout => 2
  | .bulkFault => 3
  | .bulkTimeout => 4

/-- The words of the drive fault record, the kind word last (R44). -/
def Work.driveFaultWords (w : Work) (kind : DriveFaultKind) (row : Nat) (pulse : Pulse) : List (Addr × Word) :=
  [(w.exchange 0x62, BitVec.ofNat 16 row), (w.exchange 0x64, pulse.kind.code.setWidth 16),
    (w.exchange 0x66, BitVec.ofNat 16 pulse.count), (w.exchange 0x68, w.stamp), (w.exchange 0x60, kind.code)]

/-- The driver reports a fault: the record is written if its kind word reads 0, and then DRIVE_FAULT is set (R44). -/
def reportDriveFault (kind : DriveFaultKind) (row : Nat) (pulse : Pulse) (w : Work) : Work :=
  match readStation .engine none (w.exchange 0x60) w with
  | (some v, w1) =>
    setCause .driveFault
      (if v = 0 then (writeStationList .engine none (w1.driveFaultWords kind row pulse) w1).2 else w1)
  | (none, w1) => setCause .driveFault w1

/-- A row pulse faults or times out (R41, R43). -/
def faultRowPulse (kind : DriveFaultKind) (pulse : Pulse) (r : Row) (s : State) : State :=
  (changePanel (Panel.faultRow pulse r) s).onWork (reportDriveFault kind r.val pulse)

/-- A BULK pulse faults or times out (R41, R43). -/
def faultBulkPulse (kind : DriveFaultKind) (pulse : Pulse) (s : State) : State :=
  (changePanel Panel.faultBulk s).onWork (reportDriveFault kind 0 pulse)

/-! ## The driver's part of a tick (R42, R43, R166) -/

/-- The next tick is the expiry of a row pulse's answer deadline. -/
def Panel.rowRunsOut (p : Panel) : Bool := p.issuedRowPulse.any fun issued => decide (issued.2.2 ≤ 1)

/-- The next tick is the expiry of a BULK pulse's answer deadline. -/
def Panel.bulkRunsOut (p : Panel) : Bool := p.issuedBulkPulse.any fun issued => decide (issued.2 ≤ 1)

/-- The pulse outstanding with its answer deadline one tick nearer; a deadline that has not started is not counted. -/
def Driver.countTick (d : Driver) : Driver :=
  { d with pulse := d.pulse.map fun pulse => { pulse with deadline := countDown pulse.deadline } }

/-- The pulse driver takes a tick, in every engine state: the deadline of the pulse expires, or is one tick nearer. -/
def tickDriver (s : State) : State :=
  match s.panel.issuedRowPulse, s.panel.issuedBulkPulse with
  | some (pulse, r, k), _ =>
    if k ≤ 1 then faultRowPulse .timeout pulse r s
    else s.onPanel fun p => { p with driver := p.driver.countTick }
  | none, some (pulse, k) =>
    if k ≤ 1 then faultBulkPulse .bulkTimeout pulse s
    else s.onPanel fun p => { p with driver := p.driver.countTick }
  | none, none => s

/-! ## DRIVE_RESUME -/

/-- DRIVE_RESUME: from STALLED to IDLE, with a start test (R45). -/
def resumeDriver (s : State) : State :=
  if s.panel.driver.state = .stalled then
    startTest (s.onPanel fun p => { p with driver := { p.driver with state := .idle } })
  else s

/-! ## Meanings -/

/-- PULSE_ISSUE (R36, R42). -/
def execPulseIssue (s : State) : Host.Outcome State Fault Refusal := event (State.onPanel Panel.issueRow) s

/-- BULK_ISSUE (R37, R42). -/
def execBulkIssue (s : State) : Host.Outcome State Fault Refusal := event (State.onPanel Panel.issueBulk) s

/-- ROW_PDONE (R38, R39, R12). -/
def execRowPdone (s : State) : Host.Outcome State Fault Refusal :=
  event (fun s =>
    match s.panel.issuedRowPulse with
    | some (pulse, r, _) => endPanelEvent (startTest (changePanel (Panel.completeRow pulse r) s))
    | none => s) s

/-- BULK_PDONE (R38, R40, R17). -/
def execBulkPdone (s : State) : Host.Outcome State Fault Refusal :=
  event (fun s =>
    match s.panel.issuedBulkPulse with
    | some _ => endPanelEvent (startTest (changePanel Panel.completeBulk s))
    | none => s) s

/-- PFAULT (R38, R41). -/
def execPfault (s : State) : Host.Outcome State Fault Refusal :=
  event (fun s =>
    match s.panel.issuedRowPulse, s.panel.issuedBulkPulse with
    | some (pulse, r, _), _ => endPanelEvent (faultRowPulse .fault pulse r s)
    | none, some (pulse, _) => endPanelEvent (faultBulkPulse .bulkFault pulse s)
    | none, none => s) s

/-- DRIVE_RESUME (R45). -/
def execDriveResume (s : State) : Host.Outcome State Fault Refusal :=
  event (fun s => endPanelEvent (resumeDriver s)) s

end Sys2Proof.Machine
end

