-- ==== Sys2Proof/Machine/Markers.lean ====
section
/-! DEFINITION. The marker unit (spec/06): definition, removal, and the marker unit's part of a tick. -/

namespace Sys2Proof.Machine

/-- Change marker `n`. -/
def Panel.setMarker (n : Fin 2) (m : Marker) (p : Panel) : Panel := { p with markers := p.markers.set n.val m }

/-- The on-state that follows from the counter and the on-time (R125). -/
def Marker.onByCounter (m : Marker) : Bool := decide (m.counter < m.onTime)

/-- Marker `n` leaves the overlay, if it is active and on; its rows are taken in ascending order (R127, R128). -/
def Panel.removeMarker (n : Fin 2) (p : Panel) : Panel :=
  let m := p.markers[n.val]
  let gone := p.setMarker n { m with active := false, on := false }
  if m.inverts then Panel.joinRows m.rows gone else gone

/-- A marker as a MARK record defines it (R127). -/
def Marker.defined (x y w h period onTime : Nat) : Marker :=
  { active := true, x := x, y := y, w := w, h := h, period := period, onTime := onTime, counter := 0
    on := decide (0 < onTime) }

/-- MARK at the marker unit: the removal first, then the definition (R107, R127). -/
def Panel.defineMarker (n : Fin 2) (m : Marker) (p : Panel) : Panel :=
  let added := (p.removeMarker n).setMarker n m
  if m.on then Panel.joinRows m.rows added else added

/-- A marker after one counted tick: the counter of an active one advances, and its on-state follows (R124, R126). -/
def Marker.advance (m : Marker) : Marker :=
  if m.active then
    let ticked := { m with counter := if m.counter + 1 = m.period then 0 else m.counter + 1 }
    { ticked with on := ticked.onByCounter }
  else m

/-- The next counted tick turns the on-state over (R126). -/
def Marker.flipsNext (m : Marker) : Bool := m.advance.on != m.on

/-- A counted tick at marker `n`: it advances, and at a flip its whole rectangle enters or leaves the overlay and the rows
are taken in ascending order (R126, R129). -/
def Panel.tickMarker (n : Fin 2) (p : Panel) : Panel :=
  let m := p.markers[n.val]
  let ticked := p.setMarker n m.advance
  if m.flipsNext then Panel.joinRows m.rows ticked else ticked

/-- The marker unit takes a tick: it is counted only while the engine is RUNNING, marker 0 with its joins before marker 1
(R126, R131). -/
def tickMarkers (s : State) : State :=
  if s.work.port.engine = .running then changePanel (fun p => (p.tickMarker 0).tickMarker 1) s else s

end Sys2Proof.Machine
end

