-- ==== Sys2Proof/Machine/Supply.lean ====
section
/-! DEFINITION. The supply monitor (spec/02, 2.1): PANEL_ON, the ramp and its two ends, and the changes of SUPOK. -/

namespace Sys2Proof.Machine

/-- The first count at which the monitor acts on SUPOK (R23). -/
def rampMinimum : Nat := 10

/-- The last count of a ramp (R24). -/
def rampLimit : Nat := 50

/-- The supply in another state, with the ramp count not kept. -/
def Supply.enter (st : SupplyState) (v : Supply) : Supply := { v with state := st, ramp := 0 }

/-- Entry into OFF or FAILED at the driver and the plane store: the pulse is abandoned, the bulk request is dropped, P and U
are cleared and the queue is rebuilt (R15, R27). ROW8–ROW0 keep their value (R36); where the entry stops a column shift
midway, CSD, CSCK and the columns last shifted keep what they held before that shift (the model's choice, log 32). -/
def Panel.supplyDown (st : SupplyState) (p : Panel) : Panel :=
  Panel.rebuild { p with
    supply := p.supply.enter st
    driver := p.driver.withoutPulse (if p.driver.state = .stalled then .stalled else .idle)
    bulkRequest := false
    panel := Plane.dark
    doubt := Plane.dark }

/-- Entry into OFF (R26). -/
def supplyOff (s : State) : State := endPanelEvent (changePanel (Panel.supplyDown .off) s)

/-- Entry into FAILED: the SUPPLY cause is set (R24, R25, R28). -/
def supplyFailed (s : State) : State := (changePanel (Panel.supplyDown .failed) s).onWork (setCause .supply)

/-- Entry into READY: the SUPPLY cause is set (R23, R28). The event that brings it ends with a start test (R31). -/
def supplyReady (s : State) : State :=
  (s.onPanel fun p => { p with supply := p.supply.enter .ready }).onWork (setCause .supply)

/-- The supply monitor acts on a PANEL_ON value (R22). -/
def actOnPanelOn (value : Bool) (s : State) : State :=
  match s.panel.supply.state, value with
  | .off, true => s.onPanel fun p => { p with supply := p.supply.enter .ramping }
  | .off, false => s
  | .ramping, true | .ready, true | .failed, true => s
  | .ramping, false | .ready, false | .failed, false => supplyOff s

/-- The level of the SUPOK pin. -/
def Panel.setSupok (level : Bool) (p : Panel) : Panel := { p with supply := { p.supply with supok := level } }

/-- The ramp has reached a tick at which SUPOK is acted on (R23). -/
def Supply.actsOnSupok (v : Supply) : Bool := decide (v.state = .ramping) && decide (rampMinimum ≤ v.ramp)

/-- The next tick takes the ramp to READY (R23). -/
def Supply.readyNext (v : Supply) : Bool :=
  decide (v.state = .ramping) && decide (rampMinimum ≤ v.ramp + 1) && v.supok

/-- The next tick takes the ramp to FAILED (R24). -/
def Supply.failsNext (v : Supply) : Bool :=
  decide (v.state = .ramping) && decide (rampLimit ≤ v.ramp + 1) && !v.supok

/-- The ramp count after a tick that ends nothing; it is kept only while RAMPING (R23). -/
def Supply.countTick (v : Supply) : Supply := if v.state = .ramping then { v with ramp := v.ramp + 1 } else v

/-- The supply monitor takes a tick, in every engine state (R23, R24, R166). -/
def tickSupply (s : State) : State :=
  if s.panel.supply.readyNext then supplyReady s
  else if s.panel.supply.failsNext then supplyFailed s
  else s.onPanel fun p => { p with supply := p.supply.countTick }

/-- A rise of SUPOK (R23, R25). -/
def riseSupok (s : State) : State :=
  let risen := s.onPanel (Panel.setSupok true)
  if s.panel.supply.actsOnSupok then endPanelEvent (startTest (supplyReady risen)) else risen

/-- A fall of SUPOK (R25). -/
def fallSupok (s : State) : State :=
  let fallen := s.onPanel (Panel.setSupok false)
  if s.panel.supply.state = .ready then endPanelEvent (supplyFailed fallen) else fallen

/-! ## Meanings -/

/-- PANEL_ON (R22, R26, R172). -/
def execPanelOn (value : Bool) (s : State) : Host.Outcome State Fault Refusal :=
  event (fun s =>
    actOnPanelOn value (s.onWork fun w => { w with port := { w.port with panelOn := value } })) s

/-- SUPOK_RISE (R23, R25). The pin's level changes in every state; while RESET is asserted nothing acts on it (R185). -/
def execSupokRise (s : State) : Host.Outcome State Fault Refusal :=
  .next (if s.work.port.resetAsserted then s.onPanel (Panel.setSupok true) else riseSupok s)

/-- SUPOK_FALL (R25). The pin's level changes in every state; while RESET is asserted nothing acts on it (R185). -/
def execSupokFall (s : State) : Host.Outcome State Fault Refusal :=
  .next (if s.work.port.resetAsserted then s.onPanel (Panel.setSupok false) else fallSupok s)

end Sys2Proof.Machine
end

