-- ==== Sys2Proof/Machine/Timebase.lean ====
section
/-! DEFINITION. The timebase (spec/08): tick intervals, the clock, the tick as one event at every block that counts it,
with the expiries that come at it, and the clock hold. -/

namespace Sys2Proof.Machine

/-! ## Intervals (R160) -/

/-- The accumulator after one more interval has started. -/
def nextAccumulator (a : Nat) : Nat := (a + 68) % 100

/-- The length in reference periods of the interval that leaves the accumulator at `a`: the sum was 100 or more exactly
when less than 68 is left. -/
def intervalLength (a : Nat) : Nat := if a < 68 then 328 else 327

/-- A tick interval starts. -/
def Timebase.startInterval (t : Timebase) : Timebase :=
  { t with accumulator := nextAccumulator t.accumulator, interval := some 0 }

/-- The end of a tick interval: the clock advances, and the next interval starts (R160, R162). A first interval that has
not been started yet is started before it ends. -/
def Timebase.tick (t : Timebase) : Timebase :=
  let running := if t.interval.isNone then t.startInterval else t
  { running.startInterval with clock := t.clock + 1 }

/-! ## The tick at the blocks that count it (R161, R166, R167) -/

/-- The blocks that take a tick, in the order R161 names them. -/
inductive TickBlock | clock | lanes | markers | driver | supply | hold
  deriving DecidableEq, Repr

/-- The timebase takes a tick: the clock advances (R162). -/
def tickClock (w : Work) : Work := { w with time := w.time.tick }

/-- The port takes a tick: at the second one after the CLOCKL read the clock hold is released (R163). -/
def tickHold (w : Work) : Work :=
  let released (h : ClockHold) : Option ClockHold := if h.ticks ≤ 1 then none else some { h with ticks := h.ticks - 1 }
  { w with port := { w.port with hold := w.port.hold.bind released } }

/-- One block takes the tick by its own rule, the expiry that comes at it included (R161, R166). -/
def takeTick (b : TickBlock) (s : State) : State :=
  match b with
  | .clock => s.onWork tickClock
  | .lanes => s.onWork tickLanes
  | .markers => tickMarkers s
  | .driver => tickDriver s
  | .supply => tickSupply s
  | .hold => s.onWork tickHold

/-- A tick that began in `before` calls for a start test: a row joined in it, or the supply became READY in it (R31). -/
def startTestDue (before after : State) : Bool :=
  decide (before.panel.queue.length < after.panel.queue.length)
    || (decide (before.panel.supply.state ≠ .ready) && decide (after.panel.supply.state = .ready))

/-- The rest of a tick that began in `before`: the blocks `rest` take it, and the event ends with one start test, where one
is due, and the engine's choice (R31, R68). A start test that finds every row that joined in this tick stale enters settled
(the model's choice, log 40). -/
def finishTick (before : State) (rest : List TickBlock) (s : State) : State :=
  let taken := rest.foldl (fun t b => takeTick b t) s
  endPanelEvent (if startTestDue before taken then startTest taken else taken)

/-- A tick, which the blocks take in this order, each once, as one event (R161). -/
def tickInOrder (order : List TickBlock) (s : State) : State := finishTick s order s

/-- R161 gives no order among the blocks: the model takes the order in which it names them (log 12). -/
def tickBlocks : List TickBlock := [.clock, .lanes, .markers, .driver, .supply, .hold]

/-- A tick, offered to every block (R161). -/
def tickAll (s : State) : State := tickInOrder tickBlocks s

/-- A tick at which block `b` has an expiry, taken by `b` first and then by the others (log 12). -/
def tickFrom (b : TickBlock) (s : State) : State := tickInOrder (b :: tickBlocks.filter (· ≠ b)) s

/-- The row of an expiry is the tick at which the expiry comes (R166: "The owner acts on the expiry in the event of that
tick"); where the next tick does not bring it, nothing happens (log 8). -/
def expiry (comes : State → Bool) (b : TickBlock) (s : State) : State := if comes s then tickFrom b s else s

/-- One rising edge of REF32: it starts the first interval, is counted, or completes the interval and makes the tick
(R160). -/
def referenceEdge (s : State) : State :=
  match s.work.time.interval with
  | none => s.onWork fun w => { w with time := w.time.startInterval }
  | some n =>
    if n + 1 < intervalLength s.work.time.accumulator then
      s.onWork fun w => { w with time := { w.time with interval := some (n + 1) } }
    else tickAll s

/-! ## Meanings -/

/-- TICK (R160 to R162, R166, R167). -/
def execTick (s : State) : Host.Outcome State Fault Refusal := event tickAll s

/-- CLOCK_HOLD_RELEASE: the tick that releases the clock hold (R163). -/
def execClockHoldRelease (s : State) : Host.Outcome State Fault Refusal :=
  event (expiry (fun s => s.work.port.hold.any fun h => decide (h.ticks ≤ 1)) .hold) s

/-- WAIT_EXPIRY: the tick at which the WAIT of this lane is complete (R64). -/
def execWaitExpiry (lane : LaneNo) (s : State) : Host.Outcome State Fault Refusal :=
  event (expiry (fun s => decide (s.work.port.engine = .running) && s.work.waitRunsOut lane) .lanes) s

/-- DRAIN_TIMEOUT: the tick at which the DRAIN limit of this lane runs out (R65). -/
def execDrainTimeout (lane : LaneNo) (s : State) : Host.Outcome State Fault Refusal :=
  event (expiry (fun s => decide (s.work.port.engine = .running) && s.work.limitRunsOut lane) .lanes) s

/-- MARKER_FLIP: the tick at which this marker flips (R126, R129, R130). -/
def execMarkerFlip (marker : Fin 2) (s : State) : Host.Outcome State Fault Refusal :=
  event (expiry (fun s => decide (s.work.port.engine = .running) && s.panel.markers[marker.val].flipsNext) .markers) s

/-- PULSE_TIMEOUT: the tick at which a row pulse's answer deadline expires (R42, R43). -/
def execPulseTimeout (s : State) : Host.Outcome State Fault Refusal :=
  event (expiry (fun s => s.panel.rowRunsOut) .driver) s

/-- BULK_TIMEOUT: the tick at which a BULK pulse's answer deadline expires (R42, R43). -/
def execBulkTimeout (s : State) : Host.Outcome State Fault Refusal :=
  event (expiry (fun s => s.panel.bulkRunsOut) .driver) s

/-- RAMP_READY: the tick that takes a ramp to READY (R23). -/
def execRampReady (s : State) : Host.Outcome State Fault Refusal :=
  event (expiry (fun s => s.panel.supply.readyNext) .supply) s

/-- RAMP_FAILED: the tick that takes a ramp to FAILED (R24). -/
def execRampFailed (s : State) : Host.Outcome State Fault Refusal :=
  event (expiry (fun s => s.panel.supply.failsNext) .supply) s

/-- CLOCKL_READ: the low half is returned and the hold is made or renewed (R163). A port read returns 0 while RESET is
asserted (R170). -/
def execClocklRead (s : State) : Host.Outcome State Fault Refusal :=
  .next (s.onWork fun w =>
    if w.port.resetAsserted then { w with port := { w.port with readData := 0 } }
    else { w with port := { w.port with readData := w.stamp, hold := some { value := w.clockHigh, ticks := 2 } } })

/-- CLOCKH_READ: the held or the live high half is returned, and the hold is released (R164). -/
def execClockhRead (s : State) : Host.Outcome State Fault Refusal :=
  .next (s.onWork fun w =>
    if w.port.resetAsserted then { w with port := { w.port with readData := 0 } }
    else { w with port := { w.port with readData := w.clockhValue, hold := none } })

end Sys2Proof.Machine
end

