-- ==== Sys2Proof/Machine/Resets.lean ====
section
/-! DEFINITION. CAUSE, ENABLE and the ignored port writes (spec/09, 9.1 and 9.5), the three resets (9.8), and what the block
does on an empty queue. -/

namespace Sys2Proof.Machine

/-! ## Resets (R185 to R187) -/

/-- The station bus after a reset: a turn that stood for the cut of an event by this reset is used up. -/
def busAfterReset : List BusTurn → List BusTurn
  | [] => []
  | t :: rest => if t.answer = .cutOff then rest else t :: rest

/-- The port after a reset of this kind: the straps, their pins and the data lines are kept (R172, R181, R185). -/
def Port.afterReset (cause : StartCause) (p : Port) : Port :=
  { p with
    run := false
    panelOn := false
    lineOn := false
    engine := .halted
    enable := 0
    hold := none
    startCause := cause
    fence := none }

/-- The half that works on station memory after a reset: no reset writes station memory (R185). -/
def Work.afterReset (cause : StartCause) (w : Work) : Work :=
  { mem := w.mem
    bus := busAfterReset w.bus
    cause := 0
    port := w.port.afterReset cause
    time := Timebase.reset
    lanes := LaneUnit.reset
    line := LineReceiver.reset }

/-- A reset of every block; the commands that wait, station memory and the levels at the pins are kept. -/
def resetAll (cause : StartCause) (s : State) : State :=
  { pending := s.pending
    work := s.work.afterReset cause
    panel := Panel.reset s.panel.supply.supok
    glyphs := GlyphStore.reset }

/-- RESET is asserted or deasserted. -/
def setResetAsserted (level : Bool) (s : State) : State :=
  s.onWork fun w => w.modPort fun p => { p with resetAsserted := level }

/-- The straps are latched at the end of a power-on reset, and at no other time (R186). -/
def Port.latchStraps (p : Port) : Port :=
  if p.startCause = .power then { p with station := p.stationPins, segment := p.segmentPins } else p

/-- The strap pins. -/
def Port.withPins (station : Byte) (segment : BitVec 4) (p : Port) : Port :=
  { p with stationPins := station, segmentPins := segment }

/-- POWER_ON: VCC rises with RESET asserted (R185). -/
def execPowerOn (station : Byte) (segment : BitVec 4) (s : State) : Host.Outcome State Fault Refusal :=
  .next (setResetAsserted true ((resetAll .power s).onWork fun w => w.modPort (Port.withPins station segment)))

/-- RESET asserted (R185). -/
def execReset (s : State) : Host.Outcome State Fault Refusal := event (fun s => setResetAsserted true (resetAll .pin s)) s

/-- CLEAR (R187). -/
def execClear (s : State) : Host.Outcome State Fault Refusal := event (resetAll .clear) s

/-- RESET deasserted: the reset ends, and a power-on latches the straps (R185, R186). -/
def execResetDeasserted (s : State) : Host.Outcome State Fault Refusal :=
  .next (if s.work.port.resetAsserted then setResetAsserted false (s.onWork fun w => w.modPort Port.latchStraps) else s)

/-! ## CAUSE, ENABLE and the ignored writes -/

/-- CAUSE_WRITE (R180). -/
def execCauseWrite (data : Word) (s : State) : Host.Outcome State Fault Refusal :=
  event (State.onWork fun w => { w with cause := causeAfterWrite w.cause data }) s

/-- ENABLE_WRITE (R181). -/
def execEnableWrite (data : Word) (s : State) : Host.Outcome State Fault Refusal :=
  event (State.onWork fun w => w.modPort fun p => { p with enable := data.extractLsb' 0 12 }) s

/-- PORT_WRITE_IGNORED: nothing changes (R57, R162, R170). -/
def execPortWriteIgnored (_word : BitVec 3) (_data : Word) (s : State) : Host.Outcome State Fault Refusal := .next s

/-- The host writes `data` to port word `word`: the commands of the write join the queue together (R170, R172). -/
def State.withPortWrite (word : BitVec 3) (data : Word) (s : State) : State :=
  { s with pending := s.pending ++ portWriteCommands word data }

/-- The host reads port word `word`; what it sees is `State.portRead` at that moment (R170). -/
def State.withPortRead (word : BitVec 3) (s : State) : State := { s with pending := s.pending ++ portReadCommands word }

/-! ## The empty queue -/

/-- What goes on while no command waits (log 13): bits that wait in the receiver are passed on, an engine choice that is
owed is made, and REF32 rises once. -/
def idle (s : State) : State :=
  if s.work.port.resetAsserted then s
  else referenceEdge (s.onWork fun w => settleLanes (passBuffered w).1)

end Sys2Proof.Machine
end

