-- ==== Sys2Proof/Machine/Render.lean ====
section
/-! DEFINITION. The render engine's way through a record (spec/04, 4.2): which lane it serves, the four stages of R87,
the end of a record at a preemption point or in an error, and the drawing that several records share. -/

namespace Sys2Proof.Machine

/-! ## The lane served -/

/-- The lane whose records the engine runs: the ACTIVE lane, while the engine is RUNNING or STOPPING (R68, R71). -/
def Work.servedLane (w : Work) : Option LaneNo :=
  if w.port.engine = .running ∨ w.port.engine = .stopping then w.activeLane else none

/-- The drawing context of a lane. -/
def State.contextOf (s : State) (n : LaneNo) : Context := (s.work.laneOf n).context

/-- The progress of a lane. -/
def State.progressOf (s : State) (n : LaneNo) : Progress := (s.work.laneOf n).progress

/-- Change the context of a lane. -/
def modContext (n : LaneNo) (f : Context → Context) (s : State) : State :=
  s.onWork fun w => w.modLane n fun l => { l with context := f l.context }

/-- Change the progress of a lane. -/
def modProgress (n : LaneNo) (f : Progress → Progress) (s : State) : State :=
  s.onWork fun w => w.modLane n fun l => { l with progress := f l.progress }

/-- The address of word `i` of the body of lane `n`'s block (R51, R78). -/
def Work.bodyAddress (w : Work) (n : LaneNo) (i : Nat) : Addr :=
  addressPlus (w.laneOf n).current ((if n = 3 then 16 else 12) + 2 * i)

/-! ## How a record ends -/

/-- The block retires at this record (R88), or at a WAIT or DRAIN that a cancel request meets (R63). -/
def endBlock (n : LaneNo) (o : BlockOutcome) (s : State) : State := s.onWork fun w => settleLanes (retire n o w)

/-- A preemption point inside a record (R69). -/
def pointInside (n : LaneNo) (s : State) : State := s.onWork fun w => settleLanes (preemptionPoint n w)

/-- The record is complete: the ordinal moves on, and the point after the record is taken (R69, R87). -/
def completeRecord (n : LaneNo) (s : State) : State :=
  pointInside n (modProgress n (fun p => { p with ordinal := p.ordinal + 1, inHand := none }) s)

/-- The record goes on at its next row or octet. -/
def suspendable (n : LaneNo) (r : RecordInHand) (s : State) : State :=
  pointInside n (modProgress n (fun p => { p with inHand := some r }) s)

/-! ## The four stages of R87 -/

/-- The immediate and the words of a record, as stages 1 to 3 read them. -/
structure RecordWords where
  imm : BitVec 12
  words : List Word
  deriving DecidableEq, Repr

/-- Stage 3 and what follows: the words after the head are read, and the record is carried out (R87). -/
def readRecordBody (n : LaneNo) (head : Word) (length : Nat) (act : LaneNo → RecordWords → State → State) (s : State) :
    State :=
  match readStationList .engine (some n)
      (wordRun (s.work.bodyAddress n ((s.progressOf n).nextWord + 1)) (length - 1)) s.work with
  | (some ws, w1) =>
    act n { imm := recordImmediate head, words := ws }
      (modProgress n (fun p => { p with nextWord := p.nextWord + length }) { s with work := w1 })
  | (none, w1) => endBlock n .memory { s with work := w1 }

/-- Stage 2: a record that runs past the body ends the block (R87). -/
def checkLength (n : LaneNo) (head : Word) (act : LaneNo → RecordWords → State → State) (s : State) : State :=
  let length := recordLength (recordKind head) (recordImmediate head)
  let p := s.progressOf n
  if p.bodyLength < p.nextWord + length then endBlock n .badRecord s else readRecordBody n head length act s

/-- The record of kind `k` at the next word of lane `n`'s body (R87). A head word of another kind is another command's
event, and nothing happens here (log 8); a head that cannot be read ends the block whatever the kind. -/
def takeRecord (k : RecordKind) (n : LaneNo) (act : LaneNo → RecordWords → State → State) (s : State) : State :=
  match readStation .engine (some n) (s.work.bodyAddress n (s.progressOf n).nextWord) s.work with
  | (some head, w1) =>
    if recordKind head = k then checkLength n head act { s with work := w1 } else s
  | (none, w1) => endBlock n .memory { s with work := w1 }

/-- The engine's step at a record of kind `k`: a record in hand goes on by `resume`, and a record not yet begun is read,
checked and carried out by `act`. -/
def runRecord (k : RecordKind) (resume : LaneNo → RecordInHand → State → State)
    (act : LaneNo → RecordWords → State → State) (s : State) : State :=
  match s.work.servedLane with
  | none => s
  | some n =>
    match (s.progressOf n).inHand with
    | some r => if r.kind = k then resume n r s else s
    | none => if (s.progressOf n).atEnd then s else takeRecord k n act s

/-- A record that is not divided is never in hand between two steps. -/
def notDivided (_n : LaneNo) (_r : RecordInHand) (s : State) : State := s

/-- Carry a record out if it passes its check, else end the block with BAD_RECORD (R87 stage 4, R88). -/
def checked (ok : Bool) (n : LaneNo) (act : State → State) (s : State) : State :=
  if ok then act s else endBlock n .badRecord s

/-! ## Drawing -/

/-- Cells changed are counted for the block in hand (R89). -/
def countCells (n : LaneNo) (cells : Nat) (s : State) : State :=
  modProgress n (fun p => { p with cells := saturate16 p.cells cells }) s

/-- Draw rows in the context of lane `n`: the cells are changed and counted, the rows join, and the driver makes its start
test (R6, R10, R31, R85, R89). -/
def drawRows (n : LaneNo) (rows : List PaintedRow) (s : State) : State :=
  let painted := s.panel.paintRows (s.contextOf n) rows
  countCells n painted.2 (changeTarget (fun _ => painted.1) s)

/-- A figure's row: its 1 cells only (R85). -/
def figureRow (y : Int) (cells : Cols) : PaintedRow := { y := y, ones := cells, zeros := 0 }

/-- A row of an image box or glyph box of width `w` with its left edge at `x` (R85). -/
def patternRow (x : Int) (w : Nat) (y : Int) (pattern : Cols) : PaintedRow :=
  { y := y
    ones := placeCols x pattern
    zeros := placeCols x (~~~pattern &&& ~~~(colsFrom w)) }

/-- The pen as exact coordinates (R83, R86). -/
def Context.pen (c : Context) : Int × Int := (c.penX.toInt, c.penY.toInt)

/-- The pen moved to a position of the record's words. -/
def Context.withPen (x y : Word) (c : Context) : Context := { c with penX := x, penY := y }

/-! ## Packed rows of cells (R97) -/

/-- The pattern of a row's words: bit 15 of the first word is the leftmost cell; bits beyond the box are ignored. -/
def patternOfWords (w : Nat) (ws : List Word) : Cols :=
  colsWhere fun i => decide (i.val < w) && (fieldWord ws (i.val / 16)).getLsbD (15 - i.val % 16)

/-- Word `j` of the packed row of `w` cells from column `x` of a panel row; bits beyond the region are 0 (R102). -/
def packedWord (cells : Cols) (x w j : Nat) : Word :=
  BitVec.ofFnLE fun i : Fin 16 => decide (16 * j + (15 - i.val) < w) && cells.getLsbD (x + 16 * j + (15 - i.val))

/-- The words of the packed row. -/
def packedRow (cells : Cols) (x w : Nat) : List Word := (List.range (rowWords w)).map (packedWord cells x w)

end Sys2Proof.Machine
end

