-- ==== Sys2Proof/Machine/Records.lean ====
section
/-! DEFINITION. The drawing records but for text (spec/04): the figures, IMAGE, READBACK, CLEARALL, SETMODE, SETCLIP, the
marker records, WAIT and DRAIN. -/

namespace Sys2Proof.Machine

/-! ## MOVE, POINT and VECTOR -/

/-- MOVE (R90). -/
def moveAct (n : LaneNo) (r : RecordWords) (s : State) : State :=
  completeRecord n (modContext n (Context.withPen (fieldWord r.words 0) (fieldWord r.words 1)) s)

/-- POINT (R91). -/
def pointAct (n : LaneNo) (r : RecordWords) (s : State) : State :=
  let drawn := drawRows n [figureRow (fieldInt r.words 1) (colsSpan (fieldInt r.words 0) 1)] s
  completeRecord n (modContext n (Context.withPen (fieldWord r.words 0) (fieldWord r.words 1)) drawn)

/-- The offset of cell `i` of a line of `length` steps along an axis whose whole delta is `delta`: the exact offset rounded
to the nearest integer, a half away from the start (R92). Along the major axis it is `i` steps toward the end. -/
def lineOffset (length i : Nat) (delta : Int) : Int :=
  delta.sign * ((2 * i * delta.natAbs + length) / (2 * length) : Nat)

/-- The magnitude of the major delta of a line (R92). -/
def lineLength (dx dy : Int) : Nat := max dx.natAbs dy.natAbs

/-- Cell `i` of the line from (x, y) with deltas dx and dy (R92). -/
def lineCell (x y dx dy : Int) (i : Nat) : Int × Int :=
  (x + lineOffset (lineLength dx dy) i dx, y + lineOffset (lineLength dx dy) i dy)

/-- The cells of a line in the order of `i` (R92, R93). -/
def lineRows (x y dx dy : Int) : List PaintedRow :=
  (List.range (lineLength dx dy + 1)).map fun i =>
    figureRow (lineCell x y dx dy i).2 (colsSpan (lineCell x y dx dy i).1 1)

/-- VECTOR (R92, R93). -/
def vectorAct (n : LaneNo) (r : RecordWords) (s : State) : State :=
  let pen := (s.contextOf n).pen
  let rows := lineRows pen.1 pen.2 (fieldInt r.words 0 - pen.1) (fieldInt r.words 1 - pen.2)
  completeRecord n (modContext n (Context.withPen (fieldWord r.words 0) (fieldWord r.words 1)) (drawRows n rows s))

/-! ## AREA -/

/-- A size of 1 to 512 (R94, R96, R100). -/
def sizeOk (size : Nat) : Bool := decide (1 ≤ size) && decide (size ≤ 512)

/-- After row `rowsDone` of a record of `h` rows: the record is complete, or goes on with what is kept in hand. -/
def afterRow (n : LaneNo) (h rowsDone : Nat) (inHand : Nat → RecordInHand) (s : State) : State :=
  if h ≤ rowsDone + 1 then completeRecord n s else suspendable n (inHand (rowsDone + 1)) s

/-- One row of an AREA (R95). -/
def areaRow (n : LaneNo) (x y : Int) (w h rowsDone : Nat) (s : State) : State :=
  afterRow n h rowsDone (RecordInHand.area x y w h) (drawRows n [figureRow (y + rowsDone) (colsSpan x w)] s)

/-- AREA taken (R94). -/
def areaAct (n : LaneNo) (r : RecordWords) (s : State) : State :=
  let w := fieldNat r.words 0
  let h := fieldNat r.words 1
  let pen := (s.contextOf n).pen
  checked (sizeOk w && sizeOk h) n (areaRow n pen.1 pen.2 w h 0) s

/-- AREA resumed (R95). -/
def areaResume (n : LaneNo) (r : RecordInHand) (s : State) : State :=
  match r with
  | .area x y w h rowsDone => areaRow n x y w h rowsDone s
  | .image .. | .readback .. | .text .. => s

/-! ## IMAGE -/

/-- One row of an IMAGE: the whole pattern row is read, and then painted (R97 to R99). -/
def imageRow (n : LaneNo) (x y : Int) (w h : Nat) (source : Addr) (stride rowsDone : Nat) (s : State) : State :=
  match readStationList .engine (some n) (wordRun (addressPlus source (2 * stride * rowsDone)) (rowWords w)) s.work with
  | (some ws, w1) =>
    afterRow n h rowsDone (RecordInHand.image x y w h source stride)
      (drawRows n [patternRow x w (y + rowsDone) (patternOfWords w ws)] { s with work := w1 })
  | (none, w1) => endBlock n .memory { s with work := w1 }

/-- IMAGE taken (R96). -/
def imageAct (n : LaneNo) (r : RecordWords) (s : State) : State :=
  let w := fieldNat r.words 0
  let h := fieldNat r.words 1
  let source := address20 (fieldWord r.words 2) (fieldWord r.words 3)
  let stride := fieldNat r.words 4
  let pen := (s.contextOf n).pen
  checked (sizeOk w && sizeOk h && addressEven source && decide (rowWords w ≤ stride)) n
    (imageRow n pen.1 pen.2 w h source stride 0) s

/-- IMAGE resumed (R98). -/
def imageResume (n : LaneNo) (r : RecordInHand) (s : State) : State :=
  match r with
  | .image x y w h source stride rowsDone => imageRow n x y w h source stride rowsDone s
  | .area .. | .readback .. | .text .. => s

/-! ## READBACK -/

/-- The last byte of a READBACK's target span, formed without wrapping (R101). -/
def targetLast (target : Addr) (stride w h : Nat) : Nat :=
  target.toNat + 2 * stride * (h - 1) + 2 * rowWords w - 1

/-- Does the target span lie inside the fence in force (R101)? -/
def Port.fenceAllows (p : Port) (target : Addr) (stride w h : Nat) : Bool :=
  match p.fence with
  | some f => decide (f.low.toNat ≤ target.toNat) && decide (targetLast target stride w h < f.high.toNat)
  | none => false

/-- The cells of a panel row in D; `y` is on the panel by R100. -/
def Panel.drawnRow (p : Panel) (y : Nat) : Cols := if h : y < 512 then p.drawn[y] else 0

/-- The words of row `rowsDone` of a READBACK, with their addresses (R102). -/
def readbackWords (s : State) (x y w : Nat) (target : Addr) (stride rowsDone : Nat) : List (Addr × Word) :=
  (wordRun (addressPlus target (2 * stride * rowsDone)) (rowWords w)).zip
    (packedRow (s.panel.drawnRow (y + rowsDone)) x w)

/-- One row of a READBACK: the fence is checked, and the row is copied (R101 to R103). -/
def readbackRow (n : LaneNo) (x y w h : Nat) (target : Addr) (stride rowsDone : Nat) (s : State) : State :=
  if s.work.port.fenceAllows target stride w h then
    match writeStationList .engine (some n) (readbackWords s x y w target stride rowsDone) s.work with
    | (true, w1) => afterRow n h rowsDone (RecordInHand.readback x y w h target stride) { s with work := w1 }
    | (false, w1) => endBlock n .memory { s with work := w1 }
  else endBlock n .fence s

/-- A coordinate on the panel (R100, R107). -/
def onPanel (v : Int) : Bool := decide (0 ≤ v) && decide (v ≤ 511)

/-- The checks of R100. -/
def readbackOk (x y : Int) (w h : Nat) (target : Addr) (stride : Nat) : Bool :=
  onPanel x && onPanel y && sizeOk w && sizeOk h && decide (x + w ≤ 512) && decide (y + h ≤ 512)
    && addressEven target && decide (1 ≤ stride) && decide (rowWords w ≤ stride)

/-- READBACK taken (R100, R101). -/
def readbackAct (n : LaneNo) (r : RecordWords) (s : State) : State :=
  let stride := (r.imm.extractLsb' 4 8).toNat
  let target : Addr := r.imm.extractLsb' 0 4 ++ fieldWord r.words 4
  let x := fieldInt r.words 0
  let y := fieldInt r.words 1
  let w := fieldNat r.words 2
  let h := fieldNat r.words 3
  checked (readbackOk x y w h target stride) n (readbackRow n x.toNat y.toNat w h target stride 0) s

/-- READBACK resumed (R101, R102). -/
def readbackResume (n : LaneNo) (r : RecordInHand) (s : State) : State :=
  match r with
  | .readback x y w h target stride rowsDone => readbackRow n x y w h target stride rowsDone s
  | .area .. | .image .. | .text .. => s

/-! ## CLEARALL, SETMODE and SETCLIP -/

/-- CLEARALL (R16, R104). -/
def clearallAct (n : LaneNo) (_r : RecordWords) (s : State) : State :=
  let counted := countCells n (Plane.litCells s.panel.drawn) s
  completeRecord n (startTest (changePanel Panel.clearAll counted))

/-- SETMODE (R105). -/
def setmodeAct (n : LaneNo) (r : RecordWords) (s : State) : State :=
  checked (decide (r.imm.toNat ≤ 3)) n
    (fun s => completeRecord n (modContext n (fun c => { c with mode := drawMode r.imm.toNat }) s)) s

/-- The check of SETCLIP on one axis (R106). -/
def clipOk (low high : Int) : Bool := decide (0 ≤ low) && decide (low ≤ high) && decide (high ≤ 511)

/-- SETCLIP (R106). -/
def setclipAct (n : LaneNo) (r : RecordWords) (s : State) : State :=
  let x0 := fieldInt r.words 0
  let y0 := fieldInt r.words 1
  let x1 := fieldInt r.words 2
  let y1 := fieldInt r.words 3
  checked (clipOk x0 x1 && clipOk y0 y1) n
    (fun s => completeRecord n (modContext n
      (fun c => { c with clipX0 := x0.toNat, clipY0 := y0.toNat, clipX1 := x1.toNat, clipY1 := y1.toNat }) s)) s

/-! ## MARK and UNMARK -/

/-- The marker a number names. -/
def markerNo (imm : BitVec 12) : Fin 2 := if imm = 0 then 0 else 1

/-- A marker's size of 1 to 64 (R107). -/
def markerSizeOk (size : Nat) : Bool := decide (1 ≤ size) && decide (size ≤ 64)

/-- The checks of R107. -/
def markOk (imm : BitVec 12) (x y : Int) (w h p d : Nat) : Bool :=
  decide (imm.toNat ≤ 1) && onPanel x && onPanel y && markerSizeOk w && markerSizeOk h && decide (x + w ≤ 512)
    && decide (y + h ≤ 512) && decide (2 ≤ p) && decide (d ≤ p)

/-- MARK (R107, R127). -/
def markAct (n : LaneNo) (r : RecordWords) (s : State) : State :=
  let x := fieldInt r.words 0
  let y := fieldInt r.words 1
  let w := fieldNat r.words 2
  let h := fieldNat r.words 3
  let p := ((fieldWord r.words 4).extractLsb' 8 8).toNat
  let d := ((fieldWord r.words 4).extractLsb' 0 8).toNat
  checked (markOk r.imm x y w h p d) n
    (fun s => completeRecord n
      (changeTarget (Panel.defineMarker (markerNo r.imm) (Marker.defined x.toNat y.toNat w h p d)) s)) s

/-- UNMARK (R108, R128). -/
def unmarkAct (n : LaneNo) (r : RecordWords) (s : State) : State :=
  checked (decide (r.imm.toNat ≤ 1)) n
    (fun s => completeRecord n (changeTarget (Panel.removeMarker (markerNo r.imm)) s)) s

/-! ## WAIT and DRAIN -/

/-- The ACTIVE lane stops at its WAIT or DRAIN record and gives the engine back (R64, R65). -/
def stopLane (n : LaneNo) (st : LaneState) (f : Progress → Progress) (s : State) : State :=
  s.onWork fun w =>
    settleLanes (writeLaneRecord n 0
      ((w.modLane n fun l => { l with state := st, progress := f l.progress }).release n))

/-- WAIT (R63, R64, R109). -/
def waitAct (n : LaneNo) (r : RecordWords) (s : State) : State :=
  let count := fieldNat r.words 0
  if count = 0 then completeRecord n s
  else if (s.work.laneOf n).cancelRequested then endBlock n .cancelled s
  else stopLane n .waiting (fun p => { p with waitCount := count }) s

/-- DRAIN (R63, R65, R110). -/
def drainAct (n : LaneNo) (r : RecordWords) (s : State) : State :=
  let limit := fieldNat r.words 0
  if s.panel.settled then completeRecord n s
  else if (s.work.laneOf n).cancelRequested then endBlock n .cancelled s
  else stopLane n .draining (fun p => { p with limit := if limit = 0 then none else some limit }) s

/-! ## Meanings -/

/-- MOVE. -/
def execMove (s : State) : Host.Outcome State Fault Refusal := event (runRecord .move notDivided moveAct) s

/-- POINT. -/
def execPoint (s : State) : Host.Outcome State Fault Refusal := event (runRecord .point notDivided pointAct) s

/-- VECTOR. -/
def execVector (s : State) : Host.Outcome State Fault Refusal := event (runRecord .vector notDivided vectorAct) s

/-- One row of an AREA. -/
def execArea (s : State) : Host.Outcome State Fault Refusal := event (runRecord .area areaResume areaAct) s

/-- One row of an IMAGE. -/
def execImage (s : State) : Host.Outcome State Fault Refusal := event (runRecord .image imageResume imageAct) s

/-- One row of a READBACK. -/
def execReadback (s : State) : Host.Outcome State Fault Refusal :=
  event (runRecord .readback readbackResume readbackAct) s

/-- CLEARALL. -/
def execClearall (s : State) : Host.Outcome State Fault Refusal := event (runRecord .clearall notDivided clearallAct) s

/-- SETMODE. -/
def execSetmode (s : State) : Host.Outcome State Fault Refusal := event (runRecord .setmode notDivided setmodeAct) s

/-- SETCLIP. -/
def execSetclip (s : State) : Host.Outcome State Fault Refusal := event (runRecord .setclip notDivided setclipAct) s

/-- MARK. -/
def execMark (s : State) : Host.Outcome State Fault Refusal := event (runRecord .mark notDivided markAct) s

/-- UNMARK. -/
def execUnmark (s : State) : Host.Outcome State Fault Refusal := event (runRecord .unmark notDivided unmarkAct) s

/-- WAIT. -/
def execWait (s : State) : Host.Outcome State Fault Refusal := event (runRecord .wait notDivided waitAct) s

/-- DRAIN. -/
def execDrain (s : State) : Host.Outcome State Fault Refusal := event (runRecord .drain notDivided drainAct) s

end Sys2Proof.Machine
end

