-- ==== Sys2Proof/Machine/Text.lean ====
section
/-! DEFINITION. Text and the glyph store (spec/05): SETTEXT, GLYPHLOAD and one octet of a TEXT. -/

namespace Sys2Proof.Machine

/-! ## The glyph store -/

/-- The octet of glyph row `row` of code `code` of set 0, within the limits R112 gives: blank for 32, solid for 127, and
for the others rows 0 and 15 and column 7 blank, the underline of code 95 in row 14. -/
def fixedGlyphRow (code row : Nat) : Byte :=
  if code = 32 then 0
  else if code = 127 then 0xFF
  else if row = 0 ∨ 15 ≤ row then 0
  else if code = 95 ∧ row ≠ 14 then 0
  else Config.glyphOctet code row &&& 0xFE

/-- The octet of glyph row `row` of code `code` in glyph set `set` (R111). -/
def State.glyphRow (s : State) (set : Fin 4) (code row : Nat) : Byte :=
  if set = 0 then fixedGlyphRow code row
  else if h : set.val - 1 < 3 ∧ code - 32 < 96 ∧ row < 16 then ((s.glyphs[set.val - 1]'h.1)[code - 32]'h.2.1)[row]'h.2.2
  else 0

/-- Replace a glyph of loadable set `set` (R114). -/
def storeGlyph (set code : Nat) (g : Glyph) (s : State) : State :=
  if h : set - 1 < 3 ∧ code - 32 < 96 then
    { s with glyphs := s.glyphs.set (set - 1) ((s.glyphs[set - 1]'h.1).set (code - 32) g h.2) h.1 }
  else s

/-- The glyph of eight source words: word `j` holds rows `2j` and `2j + 1`, the upper octet first (R114). -/
def glyphOfWords (ws : List Word) : Glyph :=
  Vector.ofFn fun row : Fin 16 =>
    let w := fieldWord ws (row.val / 2)
    if row.val % 2 = 0 then w.extractLsb' 8 8 else w.extractLsb' 0 8

/-- Load glyphs from code `code` on, `count` of them; at a read error the glyphs before it stand (R114, R115). Answers
whether every word was read. -/
def loadGlyphs (n : LaneNo) (set : Nat) : Nat → Nat → Addr → State → Bool × State
  | 0, _, _, s => (true, s)
  | count + 1, code, source, s =>
    match readStationList .engine (some n) (wordRun source 8) s.work with
    | (some ws, w1) =>
      loadGlyphs n set count (code + 1) (addressPlus source 16)
        (storeGlyph set code (glyphOfWords ws) { s with work := w1 })
    | (none, w1) => (false, { s with work := w1 })

/-- The checks of R113. -/
def glyphloadOk (set count first : Nat) (source : Addr) : Bool :=
  decide (1 ≤ set) && decide (set ≤ 3) && decide (1 ≤ count) && decide (count ≤ 96) && decide (32 ≤ first)
    && decide (first ≤ 127) && decide (first + count ≤ 128) && addressEven source

/-- GLYPHLOAD (R113 to R115). -/
def glyphloadAct (n : LaneNo) (r : RecordWords) (s : State) : State :=
  let set := (r.imm.extractLsb' 0 2).toNat
  let count := (r.imm.extractLsb' 4 7).toNat
  let first := fieldNat r.words 0
  let source := address20 (fieldWord r.words 1) (fieldWord r.words 2)
  checked (glyphloadOk set count first source) n
    (fun s =>
      match loadGlyphs n set count first source s with
      | (true, s1) => completeRecord n s1
      | (false, s1) => endBlock n .memory s1) s

/-! ## SETTEXT -/

/-- The text settings of a SETTEXT immediate (R116; spec/11, 11.4). -/
def Context.withText (imm : BitVec 12) (c : Context) : Context :=
  { c with
    glyphSet := (imm.extractLsb' 0 2).toFin
    scale := (imm.extractLsb' 2 2).toNat
    wrap := imm.getLsbD 4 }

/-- SETTEXT (R116). -/
def settextAct (n : LaneNo) (r : RecordWords) (s : State) : State :=
  let scale := (r.imm.extractLsb' 2 2).toNat
  checked (decide (scale = 1 ∨ scale = 2)) n (fun s => completeRecord n (modContext n (Context.withText r.imm) s)) s

/-! ## TEXT -/

/-- The pen after the wrap test of a printable octet (R119 step 1). -/
def Context.wrapped (c : Context) : Context :=
  if c.wrap = true ∧ (c.clipX1 : Int) < c.penX.toInt + 8 * c.scale - 1 then
    { c with penX := BitVec.ofNat 16 c.clipX0, penY := c.penY + BitVec.ofNat 16 (16 * c.scale) }
  else c

/-- The pen after the advance of a printable octet (R119 step 3, R118). -/
def Context.advanced (c : Context) : Context := { c with penX := c.penX + BitVec.ofNat 16 (8 * c.scale) }

/-- The pen after a control octet (R121). -/
def Context.controlled (code : Nat) (c : Context) : Context :=
  if code = 8 then { c with penX := c.penX - BitVec.ofNat 16 (8 * c.scale) }
  else if code = 10 then { c with penY := c.penY + BitVec.ofNat 16 (16 * c.scale) }
  else if code = 13 then { c with penX := BitVec.ofNat 16 c.clipX0 }
  else c

/-- A glyph row's octet as a box row of scale `scale`: box column `i` is glyph column `i / scale`, whose cell is bit
`7 - i / scale` (R111, R114, R120). -/
def glyphColumns (scale : Nat) (octet : Byte) : Cols :=
  colsWhere fun i => decide (i.val < 8 * scale) && octet.getLsbD (7 - i.val / scale)

/-- The rows of a glyph's box at the pen, from box row 0 on (R120). -/
def glyphRows (c : Context) (glyph : Nat → Byte) : List PaintedRow :=
  (List.range (16 * c.scale)).map fun (j : Nat) =>
    patternRow c.pen.1 (8 * c.scale) (c.pen.2 + (j : Int)) (glyphColumns c.scale (glyph (j / c.scale)))

/-- A printable octet: wrap test, draw, advance (R119, R120). -/
def printOctet (n : LaneNo) (code : Nat) (s : State) : State :=
  let wrapped := modContext n Context.wrapped s
  let c := wrapped.contextOf n
  modContext n Context.advanced (drawRows n (glyphRows c (wrapped.glyphRow c.glyphSet code)) wrapped)

/-- One octet of a TEXT (R118, R119, R121). -/
def takeOctet (n : LaneNo) (octet : Byte) (s : State) : State :=
  if 32 ≤ octet.toNat ∧ octet.toNat ≤ 127 then printOctet n octet.toNat s
  else modContext n (Context.controlled octet.toNat) s

/-- The next octet of a TEXT in hand (R118). -/
def textOctet (n : LaneNo) (octets : List Byte) (taken : Nat) (s : State) : State :=
  afterRow n octets.length taken (RecordInHand.text octets) (takeOctet n (octets.getD taken 0) s)

/-- TEXT taken (R117). -/
def textAct (n : LaneNo) (r : RecordWords) (s : State) : State :=
  let count := r.imm.toNat
  checked (decide (1 ≤ count) && decide (count ≤ 255)) n (textOctet n (textOctets count r.words) 0) s

/-- TEXT resumed (R118). -/
def textResume (n : LaneNo) (r : RecordInHand) (s : State) : State :=
  match r with
  | .text octets taken => textOctet n octets taken s
  | .area .. | .image .. | .readback .. => s

/-! ## Meanings -/

/-- One octet of a TEXT. -/
def execText (s : State) : Host.Outcome State Fault Refusal := event (runRecord .text textResume textAct) s

/-- SETTEXT. -/
def execSettext (s : State) : Host.Outcome State Fault Refusal := event (runRecord .settext notDivided settextAct) s

/-- GLYPHLOAD. -/
def execGlyphload (s : State) : Host.Outcome State Fault Refusal :=
  event (runRecord .glyphload notDivided glyphloadAct) s

end Sys2Proof.Machine
end

