-- ==== Sys2Proof/Machine/Dispatch.lean ====
section
/-! DEFINITION. The effect of a command on everything but the queue: one arm per constructor of `Instr`. -/

namespace Sys2Proof.Machine

/-- The outcome of one command. -/
def exec (i : Instr) (s : State) : Host.Outcome State Fault Refusal :=
  match i with
  | .nudge operand => Sys2Proof.Machine.execNudge operand s
  | .resume operand => Sys2Proof.Machine.execResume operand s
  | .cancel operand => Sys2Proof.Machine.execCancel operand s
  | .returnSlot slot => Sys2Proof.Machine.execReturnSlot slot s
  | .run value => Sys2Proof.Machine.execRun value s
  | .panelOn value => Sys2Proof.Machine.execPanelOn value s
  | .lineOn value => Sys2Proof.Machine.execLineOn value s
  | .driveResume => Sys2Proof.Machine.execDriveResume s
  | .clear => Sys2Proof.Machine.execClear s
  | .causeWrite data => Sys2Proof.Machine.execCauseWrite data s
  | .enableWrite data => Sys2Proof.Machine.execEnableWrite data s
  | .clocklRead => Sys2Proof.Machine.execClocklRead s
  | .clockhRead => Sys2Proof.Machine.execClockhRead s
  | .portWriteIgnored word data => Sys2Proof.Machine.execPortWriteIgnored word data s
  | .powerOn station segment => Sys2Proof.Machine.execPowerOn station segment s
  | .reset => Sys2Proof.Machine.execReset s
  | .tick => Sys2Proof.Machine.execTick s
  | .clockHoldRelease => Sys2Proof.Machine.execClockHoldRelease s
  | .waitExpiry lane => Sys2Proof.Machine.execWaitExpiry lane s
  | .drainTimeout lane => Sys2Proof.Machine.execDrainTimeout lane s
  | .markerFlip marker => Sys2Proof.Machine.execMarkerFlip marker s
  | .rampReady => Sys2Proof.Machine.execRampReady s
  | .rampFailed => Sys2Proof.Machine.execRampFailed s
  | .supokRise => Sys2Proof.Machine.execSupokRise s
  | .supokFall => Sys2Proof.Machine.execSupokFall s
  | .pulseIssue => Sys2Proof.Machine.execPulseIssue s
  | .bulkIssue => Sys2Proof.Machine.execBulkIssue s
  | .rowPdone => Sys2Proof.Machine.execRowPdone s
  | .bulkPdone => Sys2Proof.Machine.execBulkPdone s
  | .pfault => Sys2Proof.Machine.execPfault s
  | .pulseTimeout => Sys2Proof.Machine.execPulseTimeout s
  | .bulkTimeout => Sys2Proof.Machine.execBulkTimeout s
  | .move => Sys2Proof.Machine.execMove s
  | .point => Sys2Proof.Machine.execPoint s
  | .vector => Sys2Proof.Machine.execVector s
  | .area => Sys2Proof.Machine.execArea s
  | .text => Sys2Proof.Machine.execText s
  | .image => Sys2Proof.Machine.execImage s
  | .readback => Sys2Proof.Machine.execReadback s
  | .clearall => Sys2Proof.Machine.execClearall s
  | .setmode => Sys2Proof.Machine.execSetmode s
  | .setclip => Sys2Proof.Machine.execSetclip s
  | .settext => Sys2Proof.Machine.execSettext s
  | .glyphload => Sys2Proof.Machine.execGlyphload s
  | .mark => Sys2Proof.Machine.execMark s
  | .unmark => Sys2Proof.Machine.execUnmark s
  | .wait => Sys2Proof.Machine.execWait s
  | .drain => Sys2Proof.Machine.execDrain s
  | .settingsReadEnd late => Sys2Proof.Machine.execSettingsReadEnd late s
  | .huntFlag ldat => Sys2Proof.Machine.execHuntFlag ldat s
  | .huntAbort ldat => Sys2Proof.Machine.execHuntAbort ldat s
  | .frameOpen ldat => Sys2Proof.Machine.execFrameOpen ldat s
  | .frameOctet ldat => Sys2Proof.Machine.execFrameOctet ldat s
  | .frameAbort ldat => Sys2Proof.Machine.execFrameAbort ldat s
  | .frameClose ldat => Sys2Proof.Machine.execFrameClose ldat s
  | .breakEntry ldat => Sys2Proof.Machine.execBreakEntry ldat s
  | .breakEnd ldat => Sys2Proof.Machine.execBreakEnd ldat s
  | .lclkRisingEdge ldat busy => Sys2Proof.Machine.execLclkRisingEdge ldat busy s
  | .resetDeasserted => Sys2Proof.Machine.execResetDeasserted s

end Sys2Proof.Machine
end

