-- ==== Sys2Proof/Machine/Step.lean ====
section
/-! DEFINITION. One step of the block: the command at the front of the queue, or what goes on while none waits. -/

namespace Sys2Proof.Machine

/-- The state with command `c` at the front of its queue. -/
def State.withCommand (c : Instr) (s : State) : State := { s with pending := c :: s.pending }

/-- One step: the command at the front of the queue is carried out on the state with the queue's rest; on an empty queue
the block goes on by itself (`idle`, log 13). -/
def step (s : State) : Host.Outcome State Fault Refusal :=
  match s.pending with
  | c :: rest => exec c { s with pending := rest }
  | [] => .next (idle s)

/-- The state with the command that a table word spells put at the front of its queue; unchanged where the word spells
none. -/
def State.withFetchWord (s : State) (nbits w : Nat) : State :=
  match decodeTableWord nbits w with
  | some c => s.withCommand c
  | none => s

end Sys2Proof.Machine
end

