-- ==== Sys2Proof/Safety.lean ====
section
/-! DEFINITION. The vocabulary of the statements: when a command runs undisturbed, what a record meets and leaves, what a
figure does to the drawn plane, and the invariants of the machine. -/

namespace Sys2Proof.Machine

/-! ## When a command runs undisturbed -/

/-- RESET is not asserted (R185). -/
def State.awake (s : State) : Prop := s.work.port.resetAsserted = false

/-- Every access of the 5120 completes, and no other master stores meanwhile (R183). -/
def Work.quiet (w : Work) : Prop := w.bus = []

/-- Words stored one after another. -/
def storeWords : List (Addr × Word) → Work → Work
  | [], w => w
  | (a, v) :: rest, w => storeWords rest (storeWord a v w)

/-- Lane `n`'s record is written (R49). -/
def Work.recorded (n : LaneNo) (w : Work) : Work := storeWords (w.laneRecordWords n) w

/-- The line status record is written (R158). -/
def Work.statusWritten (w : Work) : Work := storeWords w.lineStatusWords w

/-- A slot takes a state, and its state word is written (R155). -/
def Work.slotChanged (k : SlotNo) (st : SlotState) (w : Work) : Work :=
  storeWord (w.slotAddress k) st.code (w.setSlot k st)

/-- The engine has nothing to choose and STOPPING is not over (R68, R71). -/
def Work.noChoiceDue (w : Work) : Prop :=
  w.lanes.activeValid = true ∨ w.port.engine = .halted ∨ w.port.engine = .starting
    ∨ (w.port.engine = .running ∧ w.lowestReady = none)

/-- No lane waits in a DRAIN. -/
def Work.noneDraining (w : Work) : Prop := ∀ n, (w.laneOf n).state ≠ .draining

/-! ## When one access fails -/

/-- A bus whose first `i` accesses complete, whose next one this answers, and whose later ones complete (R183). -/
def Work.withFailure (i : Nat) (answer : BusAnswer) (w : Work) : Work :=
  { w with bus := List.replicate i { stores := [], answer := .completes } ++ [{ stores := [], answer := answer }] }

/-- The answer fails a read, by a failure of this kind code: PARITY 1, NO ANSWER 2 (R183; spec/11, 11.2). A write fails by
NO ANSWER only. -/
def BusAnswer.FailsRead (answer : BusAnswer) (kind : Word) : Prop :=
  (answer = .parity ∧ kind = 1) ∨ ((∃ stored, answer = .noAnswer stored) ∧ kind = 2)

/-- The words of the memory fault record: the address, the unit (ENGINE 1, LINE 2, LANE 3), the lane (8 for none), the stamp,
and the kind last (R184; spec/11, 11.2). -/
def Work.failureWords (kind unit lane : Word) (a : Addr) (w : Work) : List (Addr × Word) :=
  [(w.exchange 0x74, a.extractLsb' 0 16), (w.exchange 0x76, (a.extractLsb' 16 4).setWidth 16), (w.exchange 0x72, unit),
    (w.exchange 0x78, lane), (w.exchange 0x7A, w.time.clock.extractLsb' 0 16), (w.exchange 0x70, kind)]

/-- A failed access at `a` is reported: the memory fault record is written if its kind word reads 0, and MEMORY is set
(R184). -/
def Work.failureNoted (kind unit lane : Word) (a : Addr) (w : Work) : Work :=
  setCause .memory (if w.mem.readWord (w.exchange 0x70) = 0 then storeWords (w.failureWords kind unit lane a) w else w)

/-- A run of writes is cut short at its word `j`, which is stored or not: the words before it are written, those after it are
not, and the failure is reported (R183, R184). -/
def Work.cutShort (j : Nat) (stored : Bool) (unit lane : Word) (l : List (Addr × Word)) (w : Work) : Work :=
  (storeWords (l.take (if stored then j + 1 else j)) w).failureNoted 2 unit lane (l.getD j (0, 0)).1

/-! ## Lanes -/

/-- Lane `n` holds no block any more: its state and current block address are these, and its progress and cancel request
are discarded (R63, R74). -/
def Lane.without (st : LaneState) (current : Addr) (l : Lane) : Lane :=
  { l with state := st, current := current, progress := Progress.none, cancelRequested := false }

/-- Lane `n` enters FAULTED with this current block address, and is ACTIVE no more if it was; nothing is written yet (R50,
R56). -/
def Work.laneLost (n : LaneNo) (current : Addr) (w : Work) : Work :=
  let w1 := w.modLane n (Lane.without .faulted current)
  if w.activeLane = some n then { w1 with lanes := { w1.lanes with activeValid := false } } else w1

/-- What lane `n`, which entered FAULTED for this reason, writes: the reason if its word reads 0, and then the lane record
(R50). -/
def Work.faultWords (n : LaneNo) (reason : LaneFaultReason) (w : Work) : List (Addr × Word) :=
  (if w.mem.readWord (w.laneRecord n 0xE) = 0 then [(w.laneRecord n 0xE, reason.code)] else []) ++ w.laneRecordWords n

/-- Lane `n` has become FAULTED: the reason and the lane record are written, and then LANE_FAULT is set (R50). -/
def Work.faulted (n : LaneNo) (reason : LaneFaultReason) (current : Addr) (w : Work) : Work :=
  setCause .laneFault (storeWords ((w.laneLost n current).faultWords n reason) (w.laneLost n current))

/-- The result words of the block of host lane `n`, W4, W5, and W3 last (R52, R60). -/
def Work.blockResultWords (n : LaneNo) (o : BlockOutcome) (w : Work) : List (Addr × Word) :=
  let l := w.laneOf n
  [(addressPlus l.current 8, BitVec.ofNat 16 l.progress.cells), (addressPlus l.current 10, w.time.clock.extractLsb' 0 16),
    (addressPlus l.current 6, o.code ++ (0 : BitVec 2) ++ BitVec.ofNat 10 l.progress.ordinal)]

/-- The result words of lane 3's slot, W6, W7, and W5 last (R80). -/
def Work.slotResultWords (o : BlockOutcome) (w : Work) : List (Addr × Word) :=
  let l := w.laneOf 3
  [(addressPlus l.current 12, BitVec.ofNat 16 l.progress.cells), (addressPlus l.current 14, w.time.clock.extractLsb' 0 16),
    (addressPlus l.current 10, o.code ++ (0 : BitVec 2) ++ BitVec.ofNat 10 l.progress.ordinal)]

/-- A retire of lane `n` is counted (R60). -/
def Work.retireCounted (n : LaneNo) (o : BlockOutcome) (w : Work) : Work :=
  w.modLane n fun l => { l with retireCount := l.retireCount + 1, lastOutcome := o }

/-- The result words of the block of host lane `n` are written, and the retire is counted (R52, R60). -/
def Work.blockResult (n : LaneNo) (o : BlockOutcome) (w : Work) : Work :=
  (storeWords (w.blockResultWords n o) w).retireCounted n o

/-- The result words of lane 3's slot are written, and the retire is counted (R80). -/
def Work.slotResult (o : BlockOutcome) (w : Work) : Work := (storeWords (w.slotResultWords o) w).retireCounted 3 o

/-- BLOCK_DONE is set if the retired block had SIGNAL (R61). -/
def Work.signalled (signal : Bool) (w : Work) : Work := if signal then setCause .blockDone w else w

/-- Lane 3 has given up the slot `k` it held: the slot is FREE and is the first pending one no more (R80). -/
def Work.slotGivenUp (k : SlotNo) (w : Work) : Work :=
  { w with line :=
    { w.line with pendingSlots := w.line.pendingSlots.tail, purgeRequested := false } }.slotChanged k .free

/-- Lane 3 has retired its slot: the results are written, the slot is given up, and the lane takes the next pending slot and
becomes READY, or becomes IDLE; it is ACTIVE no more if it was. The lane record is written, and then an error outcome sets
LANE_FAULT (R80). -/
def Work.slotRetired (o : BlockOutcome) (w : Work) : Work :=
  match w.line.pendingSlots with
  | [] => w
  | p :: rest =>
    let freed := (w.slotResult o).slotGivenUp p.slot
    let r : Work := if w.activeLane = some 3 then { freed with lanes := { freed.lanes with activeValid := false } } else freed
    let after := match rest with
      | [] => r.modLane 3 (Lane.without .idle 0)
      | q :: _ => r.modLane 3 fun l => { l with
          state := .ready
          current := w.slotAddress q.slot
          cancelRequested := false
          progress :=
            { bodyLength := q.octets / 2, signal := false, stop := false, fresh := false
              ordinal := 0, nextWord := 0, inHand := none, pointOwed := false, cells := 0, waitCount := 0, limit := none } }
    if o.isError = true then setCause .laneFault (after.recorded 3) else after.recorded 3

/-- The QUEUED slots become FREE in arrival order (R153; at a CANCEL the order is the model's choice, log 37). -/
def Work.queuedFreed (w : Work) : Work :=
  (w.line.pendingSlots.filter fun p => w.slotOf p.slot = .queued).foldl (fun w p => w.slotChanged p.slot .free)
    { w with line := { w.line with pendingSlots := w.line.pendingSlots.filter fun p => w.slotOf p.slot ≠ .queued } }

/-! ## Records -/

/-- The next record of lane `n`, which the engine serves, is read from the words `ws`; it lies within the body (R87). -/
structure State.MeetsRecord (s : State) (n : LaneNo) (ws : List Word) : Prop where
  awake : s.awake
  quiet : s.work.quiet
  served : s.work.servedLane = some n
  notInHand : (s.progressOf n).inHand = none
  words : ∀ i, (h : i < ws.length) →
    s.work.mem.readWord (s.work.bodyAddress n ((s.progressOf n).nextWord + i)) = ws[i]
  fits : (s.progressOf n).nextWord + ws.length ≤ (s.progressOf n).bodyLength

/-- Lane `n`, which the engine serves, has this record in hand (R74). -/
structure State.HasInHand (s : State) (n : LaneNo) (r : RecordInHand) : Prop where
  awake : s.awake
  quiet : s.work.quiet
  served : s.work.servedLane = some n
  inHand : (s.progressOf n).inHand = some r

/-- The sixteen records with the kinds of their heads. -/
def recordCommands : List (Instr × RecordKind) :=
  [(.move, .move), (.point, .point), (.vector, .vector), (.area, .area), (.text, .text), (.image, .image),
    (.readback, .readback), (.clearall, .clearall), (.setmode, .setmode), (.setclip, .setclip), (.settext, .settext),
    (.glyphload, .glyphload), (.mark, .mark), (.unmark, .unmark), (.wait, .wait), (.drain, .drain)]

/-- Change lane `n`. -/
def State.modLane (n : LaneNo) (f : Lane → Lane) (s : State) : State := s.onWork fun w => w.modLane n f

/-- Lane `n` after a record of `length` words is complete: the ordinal moves on (R87). -/
def Lane.recordTaken (length : Nat) (l : Lane) : Lane :=
  { l with progress :=
    { l.progress with ordinal := l.progress.ordinal + 1, nextWord := l.progress.nextWord + length, inHand := none } }

/-- A lane whose words of a record have been read. -/
def Lane.wordsRead (length : Nat) (l : Lane) : Lane :=
  { l with progress := { l.progress with nextWord := l.progress.nextWord + length } }

/-- A lane that keeps this record in hand. -/
def Lane.keepsInHand (r : RecordInHand) (l : Lane) : Lane := { l with progress := { l.progress with inHand := some r } }

/-- A lane after row or octet `k` of `h`: the record is complete, or is kept in hand as `next` says (R69, R87). -/
def Lane.afterPart (h k : Nat) (next : RecordInHand) (l : Lane) : Lane :=
  if k + 1 < h then l.keepsInHand next else l.recordTaken 0

/-! ## The drive port -/

/-- The row pulse `pulse` for row `r` is at the glass, with `k` ticks left of its deadline (R36, R42). -/
def Panel.RowPulseIssued (p : Panel) (pulse : Pulse) (r : Row) (k : Nat) : Prop :=
  p.driver.state = .firing ∧ p.driver.pulse = some pulse ∧ pulse.row = some r ∧ pulse.deadline = some k

/-- The BULK pulse is at the glass, with `k` ticks left of its deadline (R37, R42). -/
def Panel.BulkPulseIssued (p : Panel) (pulse : Pulse) (k : Nat) : Prop :=
  p.driver.state = .bulk ∧ p.driver.pulse = some pulse ∧ pulse.deadline = some k

/-- No pulse is at the glass: PREQ is low, or the driver holds no pulse of its state. -/
def Panel.NoPulseIssued (p : Panel) : Prop :=
  (∀ pulse r k, ¬p.RowPulseIssued pulse r k) ∧ ∀ pulse k, ¬p.BulkPulseIssued pulse k

/-- The words of the drive fault record: row, polarity, cells selected and stamp, and the kind last (R44). -/
def Work.driveFaultRecord (kind : Word) (row : Nat) (pulse : Pulse) (w : Work) : List (Addr × Word) :=
  [(w.exchange 0x62, BitVec.ofNat 16 row), (w.exchange 0x64, pulse.kind.code.setWidth 16),
    (w.exchange 0x66, BitVec.ofNat 16 pulse.count), (w.exchange 0x68, w.time.clock.extractLsb' 0 16), (w.exchange 0x60, kind)]

/-- The drive fault record is written if its kind word reads 0, the kind word last, and DRIVE_FAULT is set (R44). -/
def Work.driveFaultNoted (kind : Word) (row : Nat) (pulse : Pulse) (w : Work) : Work :=
  setCause .driveFault
    (if w.mem.readWord (w.exchange 0x60) = 0 then storeWords (w.driveFaultRecord kind row pulse) w else w)

/-- `v` is what a report of a drive fault leaves of `w` where `answer` fails its access `i`, the read of the kind word or the
write of word `i - 1` of the record: the record is left as far as it was written, the failure is reported for unit ENGINE with
no lane, and DRIVE_FAULT is set all the same (R44). -/
def Work.DriveFaultCut (i : Nat) (answer : BusAnswer) (kind : Word) (row : Nat) (pulse : Pulse) (w v : Work) : Prop :=
  (i = 0 ∧ ∃ code, answer.FailsRead code ∧ v = setCause .driveFault (w.failureNoted code 1 8 (w.exchange 0x60))) ∨
    ∃ (j : Nat) (stored : Bool), i = 1 + j ∧ j < 5 ∧ answer = .noAnswer stored ∧ w.mem.readWord (w.exchange 0x60) = 0 ∧
      v = setCause .driveFault (w.cutShort j stored 1 8 (w.driveFaultRecord kind row pulse))

/-- The counter of a marker after its next counted tick (R126). -/
def Marker.nextCounter (m : Marker) : Nat := if m.counter + 1 = m.period then 0 else m.counter + 1

/-- A tick of this state brings no expiry and no flip (R166). -/
structure State.NothingDue (s : State) : Prop where
  hold : ∀ h, s.work.port.hold = some h → 2 ≤ h.ticks
  waits : s.work.port.engine = .running → ∀ n, (s.work.laneOf n).state = .waiting → 2 ≤ (s.work.laneOf n).progress.waitCount
  limits : s.work.port.engine = .running → ∀ n k, (s.work.laneOf n).state = .draining →
    (s.work.laneOf n).progress.limit = some k → 2 ≤ k
  markers : s.work.port.engine = .running → ∀ k : Fin 2, (s.panel.markers[k.val]).active = true →
    (s.panel.markers[k.val]).on = decide ((s.panel.markers[k.val]).nextCounter < (s.panel.markers[k.val]).onTime)
  pulse : ∀ pulse k, s.panel.driver.pulse = some pulse → pulse.deadline = some k → 2 ≤ k
  ramp : s.panel.supply.state = .ramping →
    s.panel.supply.ramp + 1 < 50 ∧ (10 ≤ s.panel.supply.ramp + 1 → s.panel.supply.supok = false)

/-- The rows that differ, in ascending order (R14). -/
def Panel.differingRows (p : Panel) : List Row := allRows.filter p.differs

/-- `p` is `old` after an entry of the supply into OFF or FAILED: P and U are clear, the bulk request is dropped, the pulse
is abandoned, a STALLED driver stays so and another is IDLE, and the queue holds the rows that differ in ascending order
(R15, R27). -/
def Panel.EntersDark (p old : Panel) (st : SupplyState) : Prop :=
  (∀ r : Row, p.panel[r.val] = 0 ∧ p.doubt[r.val] = 0) ∧
    p = { old with
      panel := p.panel, doubt := p.doubt, bulkRequest := false, queue := p.differingRows
      supply := { state := st, ramp := 0, supok := old.supply.supok }
      driver := { old.driver with pulse := none, state := if old.driver.state = .stalled then .stalled else .idle } }

/-! ## Drawing -/

/-- Cell (x, y) of a plane. -/
def Plane.cell (p : Plane) (x : Fin 512) (y : Row) : Bool := p[y.val].getLsbD x.val

/-- Marker `m` covers cell (x, y) now: it is active and on, and the cell lies in its rectangle (R4). -/
def Marker.covers (m : Marker) (x : Fin 512) (y : Row) : Bool :=
  m.active && m.on && decide (m.x ≤ x.val ∧ x.val < m.x + m.w) && decide (m.y ≤ y.val ∧ y.val < m.y + m.h)

/-- What a mode makes of a cell of a figure (R85). -/
def DrawMode.ofFigure (m : DrawMode) (old : Bool) : Bool :=
  match m with
  | .set | .replace => true
  | .clear => false
  | .invert => !old

/-- What a mode makes of a cell under a pattern cell (R85). -/
def DrawMode.ofPattern (m : DrawMode) (pattern old : Bool) : Bool :=
  match m, pattern with
  | .set, true | .replace, true => true
  | .clear, true | .replace, false => false
  | .invert, true => !old
  | .set, false | .clear, false | .invert, false => old

/-- Cell (x, y) is inside the clip window (R84). -/
def Context.inside (c : Context) (x : Fin 512) (y : Row) : Prop :=
  c.clipX0 ≤ x.val ∧ x.val ≤ c.clipX1 ∧ c.clipY0 ≤ y.val ∧ y.val ≤ c.clipY1

/-- `after` is `before` with a figure drawn in context `c` (R83 to R85). -/
def FigureDrawn (c : Context) (figure : Fin 512 → Row → Prop) (before after : Plane) : Prop :=
  ∀ x y, (figure x y ∧ c.inside x y → after.cell x y = c.mode.ofFigure (before.cell x y))
    ∧ (¬(figure x y ∧ c.inside x y) → after.cell x y = before.cell x y)

/-- `after` is `before` with a box drawn in context `c`, whose pattern cell over (x, y) is `pattern x y` (R83 to R85). -/
def PatternDrawn (c : Context) (box : Fin 512 → Row → Prop) (pattern : Fin 512 → Row → Bool) (before after : Plane) :
    Prop :=
  ∀ x y, (box x y ∧ c.inside x y → after.cell x y = c.mode.ofPattern (pattern x y) (before.cell x y))
    ∧ (¬(box x y ∧ c.inside x y) → after.cell x y = before.cell x y)

/-- Rows have joined at the tail, in one event: the plane store is not settled once a row has joined, and the event ends with
a start test, which may find every row that waits stale (R10, R11, R18, R31); settled is then entered (log 40). -/
def Panel.withJoins (joined : List Row) (p : Panel) : Panel :=
  if joined = [] then p
  else
    let q := ({ p with queue := p.queue ++ joined, settled := false } : Panel).startTest
    { q with settled := q.queue.isEmpty && q.driver.pulse.isNone && !q.bulkRequest }

/-- The panel after a record has changed D to `drawn`, reaching its rows in the order `order`: the CLEAN rows that changed
join at the tail in that order (R6, R10). -/
def Panel.afterJoins (order : List Row) (drawn : Plane) (p : Panel) : Panel :=
  ({ p with drawn := drawn } : Panel).withJoins
    (order.filter fun r => decide (p.rowState r = .clean) && drawn[r.val] != p.drawn[r.val])

/-- What a drawing record of lane `n`, which reaches its rows in the order `order`, leaves: all is as it was but the drawn
plane, lane `n`, the queue with the rows that joined, and the driver where an IDLE one forms a pulse for the first of them. A
driver that is not IDLE keeps its pulse (R35), and the lines of the drive port keep their levels (R36). A row leaves CLEAN
exactly when it was CLEAN and changed (R10). -/
structure DrawsOnly (n : LaneNo) (order : List Row) (s t : State) : Prop where
  pending : t.pending = s.pending
  glyphs : t.glyphs = s.glyphs
  work : t.work = s.work.setLane n (t.work.laneOf n)
  panel : t.panel.panel = s.panel.panel
  doubt : t.panel.doubt = s.panel.doubt
  markers : t.panel.markers = s.panel.markers
  supply : t.panel.supply = s.panel.supply
  bulkRequest : t.panel.bulkRequest = s.panel.bulkRequest
  budget : t.panel.driver.budget = s.panel.driver.budget
  clean : ∀ r, t.panel.rowState r = .clean ↔
    s.panel.rowState r = .clean ∧ t.panel.drawn[r.val] = s.panel.drawn[r.val]
  joins : t.panel = s.panel.afterJoins order t.panel.drawn
  driver : s.panel.driver.state ≠ .idle → t.panel.driver = s.panel.driver
  lines : t.panel.driver.rowLines = s.panel.driver.rowLines ∧ t.panel.driver.shifted = s.panel.driver.shifted
    ∧ t.panel.driver.csd = s.panel.driver.csd ∧ t.panel.driver.csck = s.panel.driver.csck

/-- The number of cells in which two planes differ. -/
def Plane.changes (p q : Plane) : Nat := (allRows.map fun r => countCols (p[r.val] ^^^ q[r.val])).sum

/-- A lane that has counted `k` more cells changed, saturating at 65,535 (R89). -/
def Lane.counted (k : Nat) (l : Lane) : Lane :=
  { l with progress := { l.progress with cells := min 65535 (l.progress.cells + k) } }

/-- A lane with its cells-changed count set. -/
def Lane.withCells (k : Nat) (l : Lane) : Lane := { l with progress := { l.progress with cells := k } }

/-- A lane with its pen set. -/
def Lane.withPen (x y : Word) (l : Lane) : Lane := { l with context := { l.context with penX := x, penY := y } }

/-- Cell (x, y) is a cell of the line from (px, py) to (ex, ey): cell `i` is `i` steps along the major axis, and `m` steps
along the minor axis, where `m` is `i` times the minor delta over the major one, rounded to the nearest with a half away
from the start (R92). -/
def OnLine (px py ex ey x y : Int) : Prop :=
  let dx := ex - px
  let dy := ey - py
  if dx = 0 ∧ dy = 0 then x = px ∧ y = py
  else if dy.natAbs ≤ dx.natAbs then
    ∃ i m : Nat, i ≤ dx.natAbs ∧ 2 * dx.natAbs * m ≤ 2 * i * dy.natAbs + dx.natAbs
      ∧ 2 * i * dy.natAbs + dx.natAbs < 2 * dx.natAbs * (m + 1) ∧ x = px + dx.sign * i ∧ y = py + dy.sign * m
  else
    ∃ i m : Nat, i ≤ dy.natAbs ∧ 2 * dy.natAbs * m ≤ 2 * i * dx.natAbs + dy.natAbs
      ∧ 2 * i * dx.natAbs + dy.natAbs < 2 * dy.natAbs * (m + 1) ∧ y = py + dy.sign * i ∧ x = px + dx.sign * m

/-- Row `k` of an AREA of `w` by `h` cells at (x, y) has been filled; `read` words of the record were read in this step
(R94, R95). -/
def AreaRowTaken (n : LaneNo) (x y : Int) (w h k read : Nat) (s t : State) : Prop :=
  DrawsOnly n allRows s t ∧
    FigureDrawn (s.contextOf n) (fun cx cy => (cy.val : Int) = y + k ∧ x ≤ cx.val ∧ (cx.val : Int) < x + w) s.panel.drawn
      t.panel.drawn ∧
    t.work.laneOf n = (((s.work.laneOf n).wordsRead read).afterPart h k (.area x y w h (k + 1))).counted
      (s.panel.drawn.changes t.panel.drawn)

/-- Row `k` of an IMAGE of `w` by `h` cells at (x, y) has been painted from its words at `source` (R97, R98). -/
def ImageRowTaken (n : LaneNo) (x y : Int) (w h : Nat) (source : Addr) (stride k read : Nat) (s t : State) : Prop :=
  DrawsOnly n allRows s t ∧
    PatternDrawn (s.contextOf n) (fun cx cy => (cy.val : Int) = y + k ∧ x ≤ cx.val ∧ (cx.val : Int) < x + w)
      (fun cx _ => (s.work.mem.readWord
        (source + BitVec.ofNat 20 (2 * stride * k + 2 * ((cx.val - x).toNat / 16)))).getLsbD (15 - (cx.val - x).toNat % 16))
      s.panel.drawn t.panel.drawn ∧
    t.work.laneOf n = (((s.work.laneOf n).wordsRead read).afterPart h k (.image x y w h source stride (k + 1))).counted
      (s.panel.drawn.changes t.panel.drawn)

/-- The pen of a context after the wrap test of a printable octet (R119). -/
def Context.penAfterWrap (c : Context) : Word × Word :=
  if c.wrap = true ∧ (c.clipX1 : Int) < c.penX.toInt + 8 * c.scale - 1 then
    (BitVec.ofNat 16 c.clipX0, c.penY + BitVec.ofNat 16 (16 * c.scale))
  else (c.penX, c.penY)

/-- The pen of a context after octet `code`, which draws nothing (R121). -/
def Context.penAfterControl (code : Nat) (c : Context) : Word × Word :=
  match code with
  | 8 => (c.penX - BitVec.ofNat 16 (8 * c.scale), c.penY)
  | 10 => (c.penX, c.penY + BitVec.ofNat 16 (16 * c.scale))
  | 13 => (BitVec.ofNat 16 c.clipX0, c.penY)
  | _ => (c.penX, c.penY)

/-- Octet `k` of a TEXT of these octets has been taken: a printable octet draws the glyph's box at the pen after the wrap
test and advances the pen, and another moves the pen only (R118 to R121). -/
def TextOctetTaken (n : LaneNo) (octets : List Byte) (k read : Nat) (s t : State) : Prop :=
  let c := s.contextOf n
  let code := (octets.getD k 0).toNat
  let pen := c.penAfterWrap
  let after := ((s.work.laneOf n).wordsRead read).afterPart octets.length k (.text octets (k + 1))
  DrawsOnly n allRows s t ∧
    (32 ≤ code ∧ code ≤ 127 →
      PatternDrawn c
        (fun cx cy => pen.1.toInt ≤ cx.val ∧ (cx.val : Int) < pen.1.toInt + 8 * c.scale
          ∧ pen.2.toInt ≤ cy.val ∧ (cy.val : Int) < pen.2.toInt + 16 * c.scale)
        (fun cx cy => (s.glyphRow c.glyphSet code ((cy.val - pen.2.toInt).toNat / c.scale)).getLsbD
          (7 - (cx.val - pen.1.toInt).toNat / c.scale))
        s.panel.drawn t.panel.drawn ∧
      t.work.laneOf n = (after.withPen (pen.1 + BitVec.ofNat 16 (8 * c.scale)) pen.2).counted
        (s.panel.drawn.changes t.panel.drawn)) ∧
    (¬(32 ≤ code ∧ code ≤ 127) → t.panel = s.panel ∧
      t.work.laneOf n = after.withPen (c.penAfterControl code).1 (c.penAfterControl code).2)

/-- The words of row `k` of a READBACK of `w` cells from column `x`: word `j`, at its address, has cell `16 j + i` at bit
`15 - i`, and 0 beyond the region (R97, R102). -/
def Panel.IsReadbackRow (p : Panel) (x y w : Nat) (target : Addr) (stride k : Nat) (words : List (Addr × Word)) : Prop :=
  words.length = (w + 15) / 16 ∧
    ∀ j, (hj : j < words.length) →
      (words[j]).1 = target + BitVec.ofNat 20 (2 * stride * k + 2 * j) ∧
      ∀ i : Fin 16, (words[j]).2.getLsbD (15 - i.val) =
        (decide (16 * j + i.val < w) && (p.drawnRow (y + k)).getLsbD (x + 16 * j + i.val))

/-- Row `k` of a READBACK has been copied (R102). -/
def ReadbackRowTaken (n : LaneNo) (x y w h : Nat) (target : Addr) (stride k read : Nat) (s t : State) : Prop :=
  ∃ words, s.panel.IsReadbackRow x y w target stride k words ∧
    t = s.onWork fun w1 => (storeWords words w1).modLane n fun l =>
      (l.wordsRead read).afterPart h k (.readback x y w h target stride (k + 1))

/-! ## The line -/

/-- An edge of LCLK that samples `ldat` forms the decoded bit `b`, with no bit waiting before it; the line receiver is then
`l` (R136). -/
def Work.EdgeForms (w : Work) (ldat b : Bool) (l : LineReceiver) : Prop :=
  w.quiet ∧ w.line.state ≠ .off ∧ w.line.buffer = [] ∧ ∃ t, w.line.settings = some t ∧
    ((t.nrzi = false ∧ b = ldat ∧ l = w.line) ∨
      (t.nrzi = true ∧ ∃ r, w.line.reference = some r ∧ b = decide (r = ldat) ∧ l = { w.line with reference := some ldat }))

/-- The window with one more bit at its newest end (R137). -/
def LineReceiver.withBit (b : Bool) (l : LineReceiver) : LineReceiver :=
  { l with window := l.window ++ [{ bit := b, flagEnd := false }] }

/-- The zero count of HUNT after a decoded bit (R139). -/
def LineReceiver.countZero (b : Bool) (l : LineReceiver) : LineReceiver := { l with zeros := if b then 0 else l.zeros + 1 }

/-- The bits of a window spell this. -/
def LineReceiver.windowBits (l : LineReceiver) : List Bool := l.window.map WindowBit.bit

/-- A loss is counted and reported: the count, the first-loss reason if its word reads 0, the line status record, and
LINE_LOSS (R146 steps 2 to 5). -/
def Work.lossReported (reason : LossReason) (w : Work) : Work :=
  let w1 : Work := { w with line := { w.line with losses := min 65535 (w.line.losses + 1) } }
  let w2 := if w1.mem.readWord (w1.exchange 0x4A) = 0 then storeWord (w1.exchange 0x4A) reason.code w1 else w1
  setCause .lineLoss w2.statusWritten

/-- The line has left FRAME for HUNT (R143). -/
def Work.frameEnded (flagSeen : Bool) (w : Work) : Work :=
  { w with line :=
    { w.line with state := .hunt, flagSeen := flagSeen, frame := none, octetBits := [], zeros := 0 } }.statusWritten

/-- The expected sequence has moved on past `received`, with a gap counted and reported if it was another (R148). -/
def Work.sequenced (received : Byte) (w : Work) : Work :=
  match w.line.expected with
  | none => { w with line := { w.line with expected := some (received + 1) } }.statusWritten
  | some e =>
    if e = received then { w with line := { w.line with expected := some (received + 1) } }.statusWritten
    else setCause .lineGap { w with line :=
      { w.line with
        expected := some (received + 1), gaps := min 65535 (w.line.gaps + 1), gapExpected := e
        gapReceived := received } }.statusWritten

/-- The words of an accepted slot `k`: the last payload word of an odd payload, and the header words W1 to W7 (R150). -/
def Work.headWords (k : SlotNo) (f : Frame) (payload : Nat) (w : Work) : List (Addr × Word) :=
  let a := w.slotAddress k
  let last := match f.half with
    | some o => [(a + BitVec.ofNat 20 (16 + 2 * ((f.stored - 1) / 2)), o ++ (0 : Byte))]
    | none => []
  last ++
    [(a + 2, f.head.getD 1 0 ++ f.head.getD 0 0), (a + 4, (f.head.getD 2 0).setWidth 16), (a + 6, BitVec.ofNat 16 payload),
      (a + 8, w.time.clock.extractLsb' 0 16), (a + 10, 0), (a + 12, 0), (a + 14, 0)]

/-- The words of an accepted slot are written (R150). -/
def Work.headerStored (k : SlotNo) (f : Frame) (payload : Nat) (w : Work) : Work := storeWords (w.headWords k f payload) w

/-- The frame in assembly has given its slot `k` back, and the loss is counted and reported: the rest of it is skipped (R141,
R142, R146). -/
def Work.frameLost (k : SlotNo) (reason : LossReason) (w : Work) : Work :=
  (({ w with line := { w.line with frame := w.line.frame.map fun f => { f with slot := none } } } : Work).slotChanged k
    .free).lossReported reason

/-! ## Invariants -/

/-- Station memory has its canonical form. -/
def State.MemoryCanonical (s : State) : Prop := s.work.mem.wf

/-- The plane store, the row queue, the bulk request, the settled flag, the pulse and the supply agree (R7 to R9, R18, R27,
R29, R30). -/
structure Panel.Sound (p : Panel) : Prop where
  queueNodup : p.queue.Nodup
  firingNotQueued : ∀ r, p.firingRow = some r → r ∉ p.queue
  noPulse : p.driver.pulse = none ↔ p.driver.state = .idle ∨ p.driver.state = .stalled
  rowPulse : ∀ pulse, p.driver.pulse = some pulse →
    (p.driver.state = .firing ↔ pulse.row.isSome) ∧ (p.driver.state = .bulk ↔ pulse.row = none)
      ∧ (pulse.kind = .bulk ↔ pulse.row = none)
  bulkAsked : p.driver.state = .bulk → p.bulkRequest = true
  cleanAgrees : ∀ r, p.rowState r = .clean → p.differs r = false
  darkUnlessReady : p.supply.state ≠ .ready →
    p.panel = Plane.dark ∧ p.doubt = Plane.dark ∧ p.driver.pulse = none ∧ p.bulkRequest = false
  nothingWaits : p.driver.state = .idle → p.supply.state = .ready → p.queue = [] ∧ p.bulkRequest = false
  settledFlag : p.settled = p.isSettled

/-- No lane waits in a DRAIN while the plane store is settled: the entry into settled completes every DRAIN, and a DRAIN that
finds it settled completes at once (R18, R65). -/
def State.DrainsWait (s : State) : Prop := s.panel.settled = true → s.work.noneDraining

/-- At most one lane is ACTIVE, STATE names it, and a lane is ACTIVE only while the engine is RUNNING or STOPPING (R56,
R68, R71). -/
structure Work.OneActive (w : Work) : Prop where
  active : ∀ n, (w.laneOf n).state = .active ↔ w.activeLane = some n
  engine : w.lanes.activeValid = true → w.port.engine = .running ∨ w.port.engine = .stopping

/-- The line is OFF unless LINE_ON is 1 and the engine is RUNNING, and the receiver's fields agree with its state (R134 to
R139, R158, R159). -/
structure Work.LineSound (w : Work) : Prop where
  inForce : w.port.engine = .running ∨ w.port.engine = .stopping →
    w.line.settings.isSome ∧ w.line.spool.isSome ∧ w.port.fence.isSome
  offUnless : w.line.state ≠ .off → w.port.lineOn = true ∧ w.port.engine = .running
  frame : w.line.state = .frame ↔ w.line.frame.isSome
  breakFlag : w.line.breakFlag = true ↔ w.line.state = .inBreak
  window : w.line.window.length ≤ 8
  octet : w.line.octetBits.length < 8
  buffer : w.line.buffer.length ≤ 64
  bufferOff : w.line.state = .off → w.line.buffer = []
  zeros : w.line.state = .hunt → w.line.zeros < 32

/-- The slot states, the open frame, lane 3's pending list and lane 3 agree: the FILLING slot is the open frame's, so that at
most one is FILLING; the QUEUED and RUNNING slots are exactly those of the pending list, without repetition; a RUNNING slot is
the first pending one and lane 3 holds it, so that at most one is RUNNING; an IDLE lane 3 has nothing pending, and one that
holds a block has (R55, R78 to R80, R155). -/
structure Work.SpoolSound (w : Work) : Prop where
  filling : ∀ k, w.slotOf k = .filling ↔ ∃ f, w.line.frame = some f ∧ f.slot = some k
  pending : ∀ k, (w.slotOf k = .queued ∨ w.slotOf k = .running) ↔ k ∈ w.line.pendingSlots.map PendingSlot.slot
  nodup : (w.line.pendingSlots.map PendingSlot.slot).Nodup
  running : ∀ k, w.slotOf k = .running →
    w.line.pendingSlots.head?.map PendingSlot.slot = some k ∧ (w.laneOf 3).state.holdsBlock = true
  idle : (w.laneOf 3).state = .idle → w.line.pendingSlots = []
  holding : (w.laneOf 3).state.holdsBlock = true → w.line.pendingSlots ≠ []
  laneThree : (w.laneOf 3).state ≠ .parked ∧ (w.laneOf 3).state ≠ .held

/-- A lane context holds values of its ranges (R72). -/
def Context.Legal (c : Context) : Prop :=
  c.clipX0 ≤ c.clipX1 ∧ c.clipX1 ≤ 511 ∧ c.clipY0 ≤ c.clipY1 ∧ c.clipY1 ≤ 511 ∧ (c.scale = 1 ∨ c.scale = 2)

/-- An active marker holds values of its ranges (R124). -/
def Marker.Legal (m : Marker) : Prop :=
  m.active = true → m.x + m.w ≤ 512 ∧ m.y + m.h ≤ 512 ∧ 1 ≤ m.w ∧ m.w ≤ 64 ∧ 1 ≤ m.h ∧ m.h ≤ 64
    ∧ 2 ≤ m.period ∧ m.period ≤ 255 ∧ m.onTime ≤ m.period ∧ m.counter < m.period

/-- The fields of a record in hand are those its checks let pass, and a row or octet of it is still to come (R74, R94, R96,
R100, R117). -/
def RecordInHand.Legal (r : RecordInHand) : Prop :=
  match r with
  | .area _ _ w h rowsDone => 1 ≤ w ∧ w ≤ 512 ∧ 1 ≤ h ∧ h ≤ 512 ∧ rowsDone < h
  | .image _ _ w h source stride rowsDone =>
    1 ≤ w ∧ w ≤ 512 ∧ 1 ≤ h ∧ h ≤ 512 ∧ source.toNat % 2 = 0 ∧ (w + 15) / 16 ≤ stride ∧ stride ≤ 65535 ∧ rowsDone < h
  | .readback x y w h target stride rowsDone =>
    1 ≤ w ∧ x + w ≤ 512 ∧ 1 ≤ h ∧ y + h ≤ 512 ∧ target.toNat % 2 = 0 ∧ (w + 15) / 16 ≤ stride ∧ stride ≤ 255 ∧ rowsDone < h
  | .text octets taken => 1 ≤ octets.length ∧ octets.length ≤ 255 ∧ taken < octets.length

/-- The progress of a block in hand: the cells-changed count is one of 16 bits, the next word lies within a body of at most
1,023 words, and each record taken, with the one in hand or stopped at, was at least one word of it (R51, R74, R87, R89). -/
structure Lane.ProgressLegal (l : Lane) : Prop where
  cells : l.progress.cells ≤ 65535
  body : l.progress.bodyLength ≤ 1023
  nextWord : l.progress.nextWord ≤ l.progress.bodyLength
  ordinal : l.progress.ordinal +
    (if l.progress.inHand.isSome ∨ l.state = .waiting ∨ l.state = .draining then 1 else 0) ≤ l.progress.nextWord
  stopped : l.state = .waiting ∨ l.state = .draining → l.progress.inHand = none

/-- The spool geometry in force passed its check (R154, R175). -/
def Spool.Legal (sp : Spool) : Prop :=
  2 ≤ sp.count ∧ sp.count ≤ 32 ∧ sp.size % 64 = 0 ∧ 64 ≤ sp.size ∧ sp.size ≤ 1024 ∧ sp.base.toNat % 64 = 0

/-- The frame in assembly with its slot: three head octets at most, the delay at most full, the payload within the slot, and,
until the long mark is set, every octet counted is in one of the three (R141, R142). -/
def Frame.Legal (crcOctets room : Nat) (f : Frame) : Prop :=
  f.head.length ≤ 3 ∧ f.delay.length ≤ crcOctets ∧ f.stored ≤ room ∧
    (f.long = false → f.octets = f.head.length + f.stored + f.delay.length)

/-- Lane contexts, the progress of the lanes, records in hand, markers, the budget, the deadlines, the ramp count, the
timebase, the spool, the frame and the pending slots hold values of their ranges, and the on-state of an active marker follows
from its counter (R21, R32, R42, R51, R64, R65, R72, R74, R78, R87, R89, R124, R125, R142, R151, R154, R160, R163). -/
structure State.InRange (s : State) : Prop where
  contexts : ∀ n, (s.contextOf n).Legal
  inHand : ∀ n r, (s.progressOf n).inHand = some r → r.Legal
  markers : ∀ k : Fin 2, (s.panel.markers[k.val]).Legal
  onState : ∀ k : Fin 2, (s.panel.markers[k.val]).active = true →
    (s.panel.markers[k.val]).on = decide ((s.panel.markers[k.val]).counter < (s.panel.markers[k.val]).onTime)
  waits : ∀ n, (s.work.laneOf n).state = .waiting → 1 ≤ (s.progressOf n).waitCount ∧ (s.progressOf n).waitCount ≤ 65535
  limits : ∀ n k, (s.work.laneOf n).state = .draining → (s.progressOf n).limit = some k → 1 ≤ k ∧ k ≤ 65535
  deadline : ∀ pulse k, s.panel.driver.pulse = some pulse → pulse.deadline = some k → 1 ≤ k ∧ k ≤ 20
  ramp : s.panel.supply.ramp < 50 ∧ (s.panel.supply.state ≠ .ramping → s.panel.supply.ramp = 0)
  hold : ∀ h, s.work.port.hold = some h → h.ticks = 1 ∨ h.ticks = 2
  budget : s.panel.driver.budget = 16 ∨ s.panel.driver.budget = 32 ∨ s.panel.driver.budget = 64
    ∨ s.panel.driver.budget = 128
  accumulator : s.work.time.accumulator < 100
  interval : ∀ k, s.work.time.interval = some k → k < intervalLength s.work.time.accumulator
  progress : ∀ n, (s.work.laneOf n).ProgressLegal
  spool : ∀ sp, s.work.line.spool = some sp → sp.Legal
  frame : ∀ f, s.work.line.frame = some f → f.slot.isSome → f.Legal s.work.crcOctets s.work.payloadRoom
  pendingSlots : ∀ p ∈ s.work.line.pendingSlots, p.octets % 2 = 0 ∧ p.octets ≤ s.work.payloadRoom

end Sys2Proof.Machine
end

