-- ==== Sys2Proof/Certificates/Slice0/Obligations.lean ====
section
/-! DEFINITION. The statements for the provers. A statement that rests on a choice of the model names its log entry. -/

section

open Sys2Proof Sys2Proof.Machine

/-! ## One command at a time -/

/-- A step with a command at the front of the queue is that command's effect on the state with the queue's rest. -/
def Obligations.StepTakesFrontCommand : Prop :=
  ∀ (c : Instr) (s : State), step (s.withCommand c) = exec c s

/-- Every command answers a next state, in every state, and leaves the queue as it is. That no command stops the machine is
the model's reading (log 8). -/
def Obligations.EveryCommandKeepsTheQueue : Prop :=
  ∀ (c : Instr) (s : State), ∃ t, exec c s = .next t ∧ t.pending = s.pending

/-- The intervals of the tick accumulator, and what one edge of REF32 does: it starts the first interval, is counted, or
completes the interval and makes the tick, whose order of
the blocks is the model's choice (log 12). An idle step is one edge (log 13), so that after a reset the 327 edges that
follow the first edge make the first tick, and no earlier edge does. -/
def Obligations.TickIntervalsFollowTheAccumulator : Prop :=
  (∀ t : Timebase, t.accumulator < 100 →
    t.startInterval.accumulator = (if 100 ≤ t.accumulator + 68 then t.accumulator + 68 - 100 else t.accumulator + 68) ∧
    intervalLength t.startInterval.accumulator = (if 100 ≤ t.accumulator + 68 then 328 else 327) ∧
    t.startInterval.interval = some 0 ∧ t.startInterval.clock = t.clock) ∧
  (∀ s : State, s.work.time.interval = none →
    referenceEdge s = s.onWork fun w => { w with time := w.time.startInterval }) ∧
  (∀ (s : State) (k : Nat), s.work.time.interval = some k →
    (k + 1 < intervalLength s.work.time.accumulator →
      referenceEdge s = s.onWork fun w => { w with time := { w.time with interval := some (k + 1) } }) ∧
    (k + 1 = intervalLength s.work.time.accumulator →
      referenceEdge s = tickInOrder [.clock, .lanes, .markers, .driver, .supply, .hold] s)) ∧
  (∀ s : State, s.work.time = Timebase.reset →
    (∀ k, k ≤ 327 → ((referenceEdge)^[k] s).work.time.clock = 0) ∧ ((referenceEdge)^[328] s).work.time.clock = 1) ∧
  (∀ s : State, s.pending = [] → s.awake → s.work.line.buffer = [] → s.work.noChoiceDue →
    step s = .next (referenceEdge s))

/-! ## Resets -/

/-- CLEAR and an assertion of the RESET pin set every block to its reset values; station memory, the queue, the strap pins,
the latched straps and the level of SUPOK are kept. They differ in the start cause and in that RESET stays asserted until
it is deasserted. What the pins and the data lines keep is the model's choice (logs 5, 6), and so are the values of
State.reset for fields that are not in use at reset: a marker's rectangle and period, the window, flag-seen, the run counts
and the columns last shifted (log 11). -/
def Obligations.ClearAndResetPinResetEveryBlock : Prop :=
  ∀ s : State, s.awake → s.work.quiet →
    exec .clear s = .next { State.reset with
      pending := s.pending
      work := { State.reset.work with
        mem := s.work.mem
        port := { State.reset.work.port with
          startCause := .clear, readData := s.work.port.readData
          station := s.work.port.station, segment := s.work.port.segment
          stationPins := s.work.port.stationPins, segmentPins := s.work.port.segmentPins } }
      panel := { State.reset.panel with supply := { State.reset.panel.supply with supok := s.panel.supply.supok } } } ∧
    exec .reset s = .next { State.reset with
      pending := s.pending
      work := { State.reset.work with
        mem := s.work.mem
        port := { State.reset.work.port with
          startCause := .pin, readData := s.work.port.readData, resetAsserted := true
          station := s.work.port.station, segment := s.work.port.segment
          stationPins := s.work.port.stationPins, segmentPins := s.work.port.segmentPins } }
      panel := { State.reset.panel with supply := { State.reset.panel.supply with supok := s.panel.supply.supok } } }

/-- POWER_ON resets every block in every state, and the end of that reset latches the levels of the strap pins; the end of
a pin reset latches nothing. That a power-on keeps station memory, the queue and SUPOK's level is the model's choice
(log 17), and so are the values of State.reset for fields that are not in use at reset (log 11), and that a RESET_DEASSERTED
while RESET is not asserted changes nothing (log 8). -/
def Obligations.PowerOnLatchesTheStraps : Prop :=
  (∀ (station : Byte) (segment : BitVec 4) (s : State), s.work.quiet →
    ∃ t, exec (.powerOn station segment) s = .next t ∧
      t = { State.reset with
        pending := s.pending
        work := { State.reset.work with
          mem := s.work.mem
          port := { State.reset.work.port with
            startCause := .power, readData := s.work.port.readData, resetAsserted := true
            station := s.work.port.station, segment := s.work.port.segment
            stationPins := station, segmentPins := segment } }
        panel := { State.reset.panel with supply := { State.reset.panel.supply with supok := s.panel.supply.supok } } } ∧
      exec .resetDeasserted t = .next (t.onWork fun w => { w with port := { w.port with
        resetAsserted := false, station := station, segment := segment } })) ∧
  (∀ s : State, s.work.port.resetAsserted = true → s.work.port.startCause ≠ .power →
    exec .resetDeasserted s = .next (s.onWork fun w => { w with port := { w.port with resetAsserted := false } })) ∧
  (∀ s : State, s.awake → exec .resetDeasserted s = .next s)

/-- While RESET is asserted the part does nothing: every command but a power-on, the deassertion of RESET, a change of
SUPOK and the two clock reads leaves the state as it is, SUPOK's level is all that its change moves (the model's choice, log
5), and every port word reads 0. -/
def Obligations.ResetAssertedHoldsEveryBlock : Prop :=
  ∀ s : State, s.work.port.resetAsserted = true →
    (∀ c : Instr, (∀ a b, c ≠ .powerOn a b) → c ≠ .resetDeasserted → c ≠ .supokRise → c ≠ .supokFall →
      c ≠ .clocklRead → c ≠ .clockhRead → exec c s = .next s) ∧
    (∀ word, s.portRead word = 0) ∧
    (∃ t, exec .clocklRead s = .next t ∧ t.work.port.readData = 0 ∧ t.work.port.hold = s.work.port.hold) ∧
    (∃ t, exec .clockhRead s = .next t ∧ t.work.port.readData = 0 ∧ t.work.port.hold = s.work.port.hold) ∧
    exec .supokRise s = .next (s.onPanel fun p => { p with supply := { p.supply with supok := true } }) ∧
    exec .supokFall s = .next (s.onPanel fun p => { p with supply := { p.supply with supok := false } }) ∧
    (s.pending = [] → step s = .next s)

/-! ## The port -/

/-- STATE shows the state of each owner at the moment of the read, and after each kind of reset it reads engine HALTED,
supply OFF, driver IDLE, line OFF, active lane 0 with the valid bit clear, and the settled bit 1. -/
def Obligations.StateWordShowsEachOwner : Prop :=
  (∀ s : State, s.awake →
    (s.portRead 2).extractLsb' 0 2 = s.work.port.engine.code ∧
    (s.portRead 2).extractLsb' 2 2 = s.panel.supply.state.code ∧
    (s.portRead 2).extractLsb' 4 2 = s.panel.driver.state.code ∧
    (s.portRead 2).extractLsb' 6 2 = s.work.line.state.code ∧
    ((s.portRead 2).extractLsb' 8 3).toNat = s.work.lanes.activeNo.val ∧
    (s.portRead 2).getLsbD 11 = s.work.lanes.activeValid ∧
    (s.portRead 2).getLsbD 12 = s.panel.settled ∧
    (s.panel.Sound → s.panel.settled =
      (s.panel.queue.isEmpty && s.panel.driver.pulse.isNone && !s.panel.bulkRequest)) ∧
    (s.portRead 2).extractLsb' 13 3 = 0) ∧
  (∀ s t : State, s.awake → exec .clear s = .next t → t.portRead 2 = 0x1000) ∧
  (∀ s t u : State, s.awake → exec .reset s = .next t → exec .resetDeasserted t = .next u → u.portRead 2 = 0x1000) ∧
  (∀ (a : Byte) (b : BitVec 4) (s t u : State),
    exec (.powerOn a b) s = .next t → exec .resetDeasserted t = .next u → u.portRead 2 = 0x1000) ∧
  State.reset.portRead 2 = 0x1000


/-- A write of CAUSE clears each flag written 1 and changes nothing else; a write of ENABLE sets each enable to the value
written and leaves every flag, and a read returns them; IRQ is asserted exactly while some flag and its enable are both set;
after a reset every enable is clear and IRQ is deasserted. -/
def Obligations.CauseAndEnableDecideIrq : Prop :=
  (∀ (data : Word) (s : State), s.awake →
    ∃ t, exec (.causeWrite data) s = .next t ∧ t = { s with work := { s.work with cause := t.work.cause } } ∧
      ∀ c : Cause, t.work.hasCause c = (s.work.hasCause c && !data.getLsbD c.bit)) ∧
  (∀ (data : Word) (s : State), s.awake →
    ∃ t, exec (.enableWrite data) s = .next t ∧
      t = { s with work := { s.work with port := { s.work.port with enable := data.extractLsb' 0 12 } } } ∧
      t.portRead 4 = (data.extractLsb' 0 12).setWidth 16) ∧
  (∀ s : State, s.work.irq = true ↔ ∃ c : Cause, s.work.hasCause c = true ∧ s.work.port.enable.getLsbD c.bit = true) ∧
  (∀ (cause : StartCause) (s : State), (resetAll cause s).work.port.enable = 0 ∧ (resetAll cause s).work.irq = false)

/-- CLOCKL returns the low half of the clock and holds the high half for two ticks; CLOCKH returns the held half, or the
live one, and releases the hold; the second tick releases the hold, and the first does not. CLOCK_HOLD_RELEASE is the whole
tick that releases the hold, which the port takes before the other blocks (the order is the model's choice, log 12); where the
next tick releases none it changes nothing (the model's choice, log 8). -/
def Obligations.ClockHalvesAgreeThroughTheHold : Prop :=
  ∀ s : State, s.awake →
    exec .clocklRead s = .next (s.onWork fun w => { w with port := { w.port with
      readData := w.time.clock.extractLsb' 0 16
      hold := some { value := w.time.clock.extractLsb' 16 16, ticks := 2 } } }) ∧
    (∀ h, s.work.port.hold = some h →
      exec .clockhRead s = .next (s.onWork fun w => { w with port := { w.port with readData := h.value, hold := none } })) ∧
    (s.work.port.hold = none →
      exec .clockhRead s = .next (s.onWork fun w => { w with port := { w.port with
        readData := w.time.clock.extractLsb' 16 16, hold := none } })) ∧
    (∀ h, s.work.port.hold = some h →
      (h.ticks ≤ 1 → exec .clockHoldRelease s = .next (finishTick s [.clock, .lanes, .markers, .driver, .supply]
        (s.onWork fun w => { w with port := { w.port with hold := none } }))) ∧
      (2 ≤ h.ticks → exec .clockHoldRelease s = .next s)) ∧
    (s.work.port.hold = none → exec .clockHoldRelease s = .next s) ∧
    (∀ t u, exec .clocklRead s = .next t → exec .tick t = .next u →
      exec .clockHoldRelease t = .next t ∧
      u.work.port.hold = some { value := s.work.time.clock.extractLsb' 16 16, ticks := 1 } ∧
      (∀ v, exec .tick u = .next v → v.work.port.hold = none) ∧
      ∀ v, exec .clockHoldRelease u = .next v → v.work.port.hold = none ∧ v.work.time = u.work.time.tick)

/-- The ignored port writes and the ignored postings change nothing; a NUDGE or RESUME of a host lane taken while the engine
is not RUNNING sets its pending flag and changes nothing else. A write of a port word is the commands that the fields of the
word form, its other bits being ignored; they join the queue together, and the order of the commands of one CONTROL write is
the model's choice (log 14). -/
def Obligations.IgnoredWritesAndPendingPostings : Prop :=
  (∀ (word : BitVec 3) (data : Word) (s : State), exec (.portWriteIgnored word data) s = .next s) ∧
  (∀ (operand : BitVec 5) (s : State), operand = 3 ∨ 8 ≤ operand.toNat →
    exec (.nudge operand) s = .next s ∧ exec (.resume operand) s = .next s) ∧
  (∀ (operand : BitVec 5) (s : State), 8 ≤ operand.toNat → exec (.cancel operand) s = .next s) ∧
  (∀ (n : LaneNo) (s : State), n ≠ 3 → s.awake → s.work.port.engine ≠ .running →
    exec (.nudge (BitVec.ofNat 5 n.val)) s = .next (s.modLane n fun l => { l with nudgePending := true }) ∧
    exec (.resume (BitVec.ofNat 5 n.val)) s = .next (s.modLane n fun l => { l with resumePending := true })) ∧
  (∀ data : Word,
    let action := data.extractLsb' 5 3
    let operand := data.extractLsb' 0 5
    (action = 1 → operand.toNat < 8 → portWriteCommands 0 data = [.nudge operand]) ∧
    (action = 2 → operand.toNat < 8 → portWriteCommands 0 data = [.resume operand]) ∧
    (action = 3 → operand.toNat < 8 → portWriteCommands 0 data = [.cancel operand]) ∧
    (action = 4 → portWriteCommands 0 data = [.returnSlot operand]) ∧
    (action = 0 ∨ 5 ≤ action.toNat ∨ (action ≠ 4 ∧ 8 ≤ operand.toNat) →
      portWriteCommands 0 data = [.portWriteIgnored 0 data]) ∧
    (data.getLsbD 15 = true → portWriteCommands 1 data = [.clear]) ∧
    (data.getLsbD 15 = false → portWriteCommands 1 data =
      [.run (data.getLsbD 0), .panelOn (data.getLsbD 1), .lineOn (data.getLsbD 2)] ++
        if data.getLsbD 14 then [.driveResume] else []) ∧
    portWriteCommands 3 data = [.causeWrite data] ∧ portWriteCommands 4 data = [.enableWrite data] ∧
    (∀ word : BitVec 3, word = 2 ∨ word = 5 ∨ word = 6 ∨ word = 7 →
      portWriteCommands word data = [.portWriteIgnored word data]) ∧
    ∀ (word : BitVec 3) (s : State), (∀ c ∈ portWriteCommands word data, c.wellFormed = true) ∧
      s.withPortWrite word data = { s with pending := s.pending ++ portWriteCommands word data })

/-! ## Time -/

/-- A tick is one event: the blocks take it one after another, each once, each with the expiry that comes at it, and one start
test, where a row has joined or the supply has become READY, and the engine's choice end it. A tick while the engine is not
RUNNING is no tick for the lanes and the markers. A tick that brings no expiry and no flip moves the clock and each count by
one and nothing else. The order of the blocks is the model's choice (log 12), and so is that a start test which finds every row
that joined in the tick stale enters settled (log 40). -/
def Obligations.TickIsCountedOnceByEachBlock : Prop :=
  (∀ s : State, s.awake → exec .tick s = .next (finishTick s [.clock, .lanes, .markers, .driver, .supply, .hold] s)) ∧
  (∀ (before s : State) (b : TickBlock) (rest : List TickBlock),
    finishTick before (b :: rest) s = finishTick before rest (takeTick b s)) ∧
  (∀ before s : State,
    (before.panel.queue.length < s.panel.queue.length ∨ (before.panel.supply.state ≠ .ready ∧ s.panel.supply.state = .ready) →
      finishTick before [] s = (startTest s).onWork settleLanes) ∧
    (s.panel.queue.length ≤ before.panel.queue.length → before.panel.supply.state = .ready ∨ s.panel.supply.state ≠ .ready →
      finishTick before [] s = s.onWork settleLanes)) ∧
  (∀ s : State, s.work.port.engine ≠ .running → takeTick .lanes s = s ∧ takeTick .markers s = s) ∧
  ∀ s : State, s.awake → s.work.time.interval.isSome → s.work.time.accumulator < 100 → s.panel.Sound → s.NothingDue →
    ∃ t : State, exec .tick s = .next (t.onWork settleLanes) ∧
      t.pending = s.pending ∧ t.glyphs = s.glyphs ∧
      t.work = { s.work with
        time := { accumulator := (s.work.time.accumulator + 68) % 100, interval := some 0, clock := s.work.time.clock + 1 }
        port := { s.work.port with hold := s.work.port.hold.map fun h => { h with ticks := h.ticks - 1 } }
        lanes := { s.work.lanes with lane := t.work.lanes.lane } } ∧
      t.panel = { s.panel with
        markers := t.panel.markers
        driver := { s.panel.driver with pulse := s.panel.driver.pulse.map fun p =>
          { p with deadline := p.deadline.map fun k => k - 1 } }
        supply := { s.panel.supply with
          ramp := if s.panel.supply.state = .ramping then s.panel.supply.ramp + 1 else s.panel.supply.ramp } } ∧
      (s.work.port.engine ≠ .running → t.work.lanes = s.work.lanes ∧ t.panel.markers = s.panel.markers) ∧
      (s.work.port.engine = .running → ∀ n,
        ((s.work.laneOf n).state ≠ .waiting → (s.work.laneOf n).state ≠ .draining → t.work.laneOf n = s.work.laneOf n) ∧
        ((s.work.laneOf n).state = .waiting → t.work.laneOf n = { s.work.laneOf n with
          progress := { s.progressOf n with waitCount := (s.progressOf n).waitCount - 1 } }) ∧
        ((s.work.laneOf n).state = .draining → t.work.laneOf n = { s.work.laneOf n with
          progress := { s.progressOf n with limit := (s.progressOf n).limit.map fun k => k - 1 } })) ∧
      (s.work.port.engine = .running → ∀ k : Fin 2,
        ((s.panel.markers[k.val]).active = false → t.panel.markers[k.val] = s.panel.markers[k.val]) ∧
        ((s.panel.markers[k.val]).active = true → t.panel.markers[k.val] = { s.panel.markers[k.val] with
          counter := (s.panel.markers[k.val]).nextCounter }))
/-! ## The lane unit -/

/-- A NUDGE that finds a host lane IDLE, while the engine is RUNNING: it reads the head; a head that is none changes
nothing; another head is cleared, and a valid one is fetched, one that is not valid makes the lane FAULTED. A fetch copies
the flags and the body length and starts the progress anew. A failed read of the head or of the block's header, or a failed
write on clearing the head, makes the lane FAULTED with MEMORY; that both head words are read though the low one is 0, and
that the low one is cleared before the high one, is the model's choice (log 18). A failed write of a lane record does so too,
with the block in hand, or else the one being retired, as its current block; that a retire with both names the new one is the
model's choice (log 39). The words after a failed one are not written (the model's deduction, log 22). A FAULTED report goes
on without its reason when the reason cannot be read; after a failed write of another cause's report one more attempt is made,
which writes the first cause's address (the model's choice, log 34), and after a write error none; and LANE_FAULT is set
whatever the bus does. -/
def Obligations.NudgeOfAnIdleLaneFetchesTheHead : Prop :=
  (∀ (n : LaneNo) (s : State) (low high : Word), n ≠ 3 → s.awake → s.work.quiet → s.work.port.engine = .running →
    (s.work.laneOf n).state = .idle → s.work.activeLane ≠ some n →
    s.work.mem.readWord (s.work.laneRecord n 0) = low → s.work.mem.readWord (s.work.laneRecord n 2) = high →
    let cleared := storeWords [(s.work.laneRecord n 0, 0), (s.work.laneRecord n 2, 0)] s.work
    let a := address20 low high
    (low = 0 → exec (.nudge (BitVec.ofNat 5 n.val)) s = .next (s.onWork settleLanes)) ∧
    (low ≠ 0 → a.toNat % 2 = 0 → exec (.nudge (BitVec.ofNat 5 n.val)) s = .next (s.onWork fun _ =>
      settleLanes ((cleared.modLane n (Lane.fetched a (cleared.mem.readWord (a + 2)) (cleared.mem.readWord (a + 4)))).recorded
        n))) ∧
    (low ≠ 0 → a.toNat % 2 = 1 → exec (.nudge (BitVec.ofNat 5 n.val)) s = .next (s.onWork fun _ =>
      settleLanes (cleared.faulted n .badLink a)))) ∧
  (∀ (a : Addr) (w1 w2 : Word) (l : Lane), l.fetched a w1 w2 = { l with
    state := .ready
    current := a
    cancelRequested := false
    progress :=
      { bodyLength := (w2.extractLsb' 0 10).toNat, signal := w1.getLsbD 15, stop := w1.getLsbD 14, fresh := w1.getLsbD 13
        ordinal := 0, nextWord := 0, inHand := none, pointOwed := false, cells := 0, waitCount := 0, limit := none }
    context := if w1.getLsbD 13 = true then
      { penX := 0, penY := 0, mode := .set, clipX0 := 0, clipY0 := 0, clipX1 := 511, clipY1 := 511, glyphSet := 0
        scale := 1, wrap := true } else l.context }) ∧
  (∀ (n : LaneNo) (s : State) (low high : Word), n ≠ 3 → s.awake → s.work.quiet → s.work.port.engine = .running →
    (s.work.laneOf n).state = .idle → s.work.activeLane ≠ some n →
    s.work.mem.readWord (s.work.laneRecord n 0) = low → s.work.mem.readWord (s.work.laneRecord n 2) = high →
    let heads : List (Addr × Word) := [(s.work.laneRecord n 0, 0), (s.work.laneRecord n 2, 0)]
    let a := address20 low high
    let lane := BitVec.ofNat 16 n.val
    let nudged (i : Nat) (answer : BusAnswer) (w : Work) :=
      exec (.nudge (BitVec.ofNat 5 n.val)) (s.onWork (Work.withFailure i answer)) = .next (s.onWork fun _ => settleLanes w)
    (∀ (i : Nat) (answer : BusAnswer) (kind : Word), i < 2 → answer.FailsRead kind →
      nudged i answer ((s.work.failureNoted kind 3 lane (s.work.laneRecord n (2 * i))).faulted n .memory 0)) ∧
    (∀ (j : Nat) (stored : Bool), j < 2 → low ≠ 0 →
      nudged (2 + j) (.noAnswer stored) ((s.work.cutShort j stored 3 lane heads).faulted n .memory a)) ∧
    (∀ (i : Nat) (answer : BusAnswer) (kind : Word), i < 2 → answer.FailsRead kind → low ≠ 0 → a.toNat % 2 = 0 →
      nudged (4 + i) answer (((storeWords heads s.work).failureNoted kind 3 lane (a + BitVec.ofNat 20 (2 + 2 * i))).faulted
        n .memory a))) ∧
  (∀ (n : LaneNo) (w : Work) (retired : Addr) (j : Nat) (stored : Bool), n ≠ 3 → w.quiet → j < 5 →
    let l := w.laneOf n
    writeLaneRecord n retired (w.withFailure j (.noAnswer stored)) =
      (w.cutShort j stored 3 (BitVec.ofNat 16 n.val) (w.laneRecordWords n)).faulted n .memory
        (if l.state = .ready ∨ l.state = .active ∨ l.state = .waiting ∨ l.state = .draining then l.current else retired)) ∧
  (∀ (n : LaneNo) (w : Work) (reason : LaneFaultReason) (current : Addr), n ≠ 3 → w.quiet →
    let lost := w.laneLost n current
    let lane := BitVec.ofNat 16 n.val
    (∀ afterWriteError, enterFaulted n reason current afterWriteError w = w.faulted n reason current) ∧
    (∀ (answer : BusAnswer) (kind : Word) (afterWriteError : Bool), answer.FailsRead kind →
      enterFaulted n reason current afterWriteError (w.withFailure 0 answer) =
        let told := lost.failureNoted kind 3 lane (w.laneRecord n 0xE)
        setCause .laneFault (storeWords (told.laneRecordWords n) told)) ∧
    (∀ (j : Nat) (stored : Bool), j < (lost.faultWords n reason).length →
      let cut := lost.cutShort j stored 3 lane (lost.faultWords n reason)
      enterFaulted n reason current true (w.withFailure (1 + j) (.noAnswer stored)) = setCause .laneFault cut ∧
      enterFaulted n reason current false (w.withFailure (1 + j) (.noAnswer stored)) = cut.faulted n .memory current)) ∧
  (∀ (n : LaneNo) (w : Work) (reason : LaneFaultReason) (current : Addr) (afterWriteError : Bool),
    ((enterFaulted n reason current afterWriteError w).laneOf n).state = .faulted ∧
      (enterFaulted n reason current afterWriteError w).hasCause .laneFault = true)

/-- A NUDGE in PARKED and a RESUME in HELD read the link of the current block: none leaves the lane PARKED or makes it so,
a valid one is fetched, another makes the lane FAULTED with BAD_LINK, and a failed read of either word of the link, or of the
header of the block it names, makes it FAULTED with MEMORY; in the other states (but a NUDGE in IDLE) neither has an effect. -/
def Obligations.LinkDecidesNudgeAndResume : Prop :=
  ∀ (n : LaneNo) (s : State) (low high : Word), n ≠ 3 → s.awake → s.work.quiet → s.work.port.engine = .running →
    s.work.mem.readWord (s.work.laneOf n).current = low → s.work.mem.readWord ((s.work.laneOf n).current + 2) = high →
    let a := address20 low high
    let fetched := (s.work.modLane n (Lane.fetched a (s.work.mem.readWord (a + 2)) (s.work.mem.readWord (a + 4)))).recorded n
    ((s.work.laneOf n).state = .held → s.work.activeLane ≠ some n →
      (low = 0 → exec (.resume (BitVec.ofNat 5 n.val)) s = .next (s.onWork fun w =>
        settleLanes ((w.modLane n (Lane.without .parked (s.work.laneOf n).current)).recorded n))) ∧
      (low ≠ 0 → a.toNat % 2 = 0 → exec (.resume (BitVec.ofNat 5 n.val)) s = .next (s.onWork fun _ => settleLanes fetched)) ∧
      (low ≠ 0 → a.toNat % 2 = 1 → exec (.resume (BitVec.ofNat 5 n.val)) s = .next (s.onWork fun w =>
        settleLanes (w.faulted n .badLink (s.work.laneOf n).current)))) ∧
    ((s.work.laneOf n).state = .parked → s.work.activeLane ≠ some n →
      (low = 0 → exec (.nudge (BitVec.ofNat 5 n.val)) s = .next (s.onWork settleLanes)) ∧
      (low ≠ 0 → a.toNat % 2 = 0 → exec (.nudge (BitVec.ofNat 5 n.val)) s = .next (s.onWork fun _ => settleLanes fetched)) ∧
      (low ≠ 0 → a.toNat % 2 = 1 → exec (.nudge (BitVec.ofNat 5 n.val)) s = .next (s.onWork fun w =>
        settleLanes (w.faulted n .badLink (s.work.laneOf n).current)))) ∧
    (∀ (c : Instr) (i : Nat) (answer : BusAnswer) (kind : Word),
      (c = .resume (BitVec.ofNat 5 n.val) ∧ (s.work.laneOf n).state = .held) ∨
        (c = .nudge (BitVec.ofNat 5 n.val) ∧ (s.work.laneOf n).state = .parked) →
      (i = 0 ∨ (i = 1 ∧ low ≠ 0) → answer.FailsRead kind →
        exec c (s.onWork (Work.withFailure i answer)) = .next (s.onWork fun w => settleLanes
          ((w.failureNoted kind 3 (BitVec.ofNat 16 n.val) ((s.work.laneOf n).current + BitVec.ofNat 20 (2 * i))).faulted n .memory
            (s.work.laneOf n).current))) ∧
      (i < 2 → low ≠ 0 → a.toNat % 2 = 0 → answer.FailsRead kind →
        exec c (s.onWork (Work.withFailure (2 + i) answer)) = .next (s.onWork fun w => settleLanes
          ((w.failureNoted kind 3 (BitVec.ofNat 16 n.val) (a + BitVec.ofNat 20 (2 + 2 * i))).faulted n .memory a)))) ∧
    ((s.work.laneOf n).state ≠ .held → exec (.resume (BitVec.ofNat 5 n.val)) s = .next (s.onWork settleLanes)) ∧
    ((s.work.laneOf n).state ≠ .idle → (s.work.laneOf n).state ≠ .parked →
      exec (.nudge (BitVec.ofNat 5 n.val)) s = .next (s.onWork settleLanes))


/-- A CANCEL of a host lane acts at once in every engine state: the pending flags are cleared; an IDLE lane is left, an
ACTIVE one gets its cancel-requested flag, a PARKED, HELD or FAULTED one becomes IDLE, and the block of a READY, WAITING or
DRAINING one retires CANCELLED. -/
def Obligations.CancelOfAHostLane : Prop :=
  ∀ (n : LaneNo) (s : State), n ≠ 3 → s.awake → s.work.quiet →
    let w0 := s.work.modLane n fun l => { l with nudgePending := false, resumePending := false }
    ((s.work.laneOf n).state = .idle → exec (.cancel (BitVec.ofNat 5 n.val)) s = .next (s.onWork fun _ => settleLanes w0)) ∧
    ((s.work.laneOf n).state = .active → exec (.cancel (BitVec.ofNat 5 n.val)) s = .next (s.onWork fun _ =>
      settleLanes (w0.modLane n fun l => { l with cancelRequested := true }))) ∧
    (s.work.activeLane ≠ some n →
      (s.work.laneOf n).state = .parked ∨ (s.work.laneOf n).state = .held ∨ (s.work.laneOf n).state = .faulted →
      exec (.cancel (BitVec.ofNat 5 n.val)) s = .next (s.onWork fun _ =>
        settleLanes ((w0.modLane n (Lane.without .idle 0)).recorded n))) ∧
    (s.work.activeLane ≠ some n →
      (s.work.laneOf n).state = .ready ∨ (s.work.laneOf n).state = .waiting ∨ (s.work.laneOf n).state = .draining →
      exec (.cancel (BitVec.ofNat 5 n.val)) s = .next (s.onWork fun _ =>
        settleLanes ((((w0.blockResult n .cancelled).modLane n (Lane.without .idle 0)).recorded n).signalled
          (s.progressOf n).signal)))

/-- A CANCEL of lane 3 frees every QUEUED slot without a result, in arrival order (the model's choice, log 37); a lane 3 that
had not begun its slot becomes IDLE, an ACTIVE one gets its cancel-requested flag, the RUNNING slot of a READY, WAITING or
DRAINING one retires CANCELLED, and a FAULTED one becomes IDLE. -/
def Obligations.CancelOfLaneThree : Prop :=
  ∀ s : State, s.awake → s.work.quiet →
    let w0 := s.work.modLane 3 fun l => { l with nudgePending := false, resumePending := false }
    (s.work.lane3NotBegun = true → s.work.activeLane ≠ some 3 →
      exec (.cancel 3) s = .next (s.onWork fun _ =>
        settleLanes ((w0.queuedFreed.modLane 3 (Lane.without .idle 0)).recorded 3))) ∧
    (s.work.lane3NotBegun = false → (s.work.laneOf 3).state = .idle →
      exec (.cancel 3) s = .next (s.onWork fun _ => settleLanes w0.queuedFreed)) ∧
    (s.work.lane3NotBegun = false → (s.work.laneOf 3).state = .active →
      exec (.cancel 3) s = .next (s.onWork fun _ =>
        settleLanes (w0.queuedFreed.modLane 3 fun l => { l with cancelRequested := true }))) ∧
    (s.work.lane3NotBegun = false → (s.work.laneOf 3).state = .faulted → s.work.activeLane ≠ some 3 →
      exec (.cancel 3) s = .next (s.onWork fun _ =>
        settleLanes ((w0.queuedFreed.modLane 3 (Lane.without .idle 0)).recorded 3))) ∧
    (s.work.lane3NotBegun = false → (s.work.line.pendingSlots.filter fun q => s.work.slotOf q.slot ≠ .queued) ≠ [] →
      (s.work.laneOf 3).state = .ready ∨ (s.work.laneOf 3).state = .waiting ∨ (s.work.laneOf 3).state = .draining →
      exec (.cancel 3) s = .next (s.onWork fun _ =>
        settleLanes (w0.queuedFreed.slotRetired .cancelled)))

/-- A RETURN of a PASSED slot of the spool in force makes it FREE and writes its state word 0; every other RETURN is
ignored. -/
def Obligations.ReturnFreesAPassedSlot : Prop :=
  ∀ (slot : BitVec 5) (s : State), s.awake → s.work.quiet →
    (∀ sp, s.work.line.spool = some sp → slot.toNat < sp.count → s.work.slotOf slot.toFin = .passed →
      exec (.returnSlot slot) s = .next (s.onWork fun w =>
        storeWord (addressPlus sp.base (slot.toNat * sp.size)) 0 (w.setSlot slot.toFin .free))) ∧
    ((∀ sp, s.work.line.spool = some sp → slot.toNat < sp.count → s.work.slotOf slot.toFin ≠ .passed) →
      exec (.returnSlot slot) s = .next s)

/-- WAIT_EXPIRY and DRAIN_TIMEOUT are the whole tick, counted while the engine is RUNNING, at which the WAIT or the DRAIN limit
of their lane ends. At such a tick a WAIT is complete and its lane READY, a limit that runs out retires the block of a host lane
TIMEOUT, which makes it HELD, and that of lane 3 its slot, behind which the next pending one is taken; another count falls by
one. That the lanes come first, in ascending number, is the model's choice (log 12), and so is that neither row does anything
where the next tick does not bring its expiry (log 8). -/
def Obligations.ExpiriesEndWaitAndDrain : Prop :=
  (∀ (n : LaneNo) (s : State), s.awake →
    let ticked := finishTick s [.clock, .markers, .driver, .supply, .hold]
      (s.onWork fun w => ([0, 1, 2, 3, 4, 5, 6, 7] : List LaneNo).foldl (fun w m => tickLane m w) w)
    (s.work.port.engine = .running → (s.work.laneOf n).state = .waiting → (s.progressOf n).waitCount ≤ 1 →
      exec (.waitExpiry n) s = .next ticked) ∧
    (s.work.port.engine ≠ .running ∨ (s.work.laneOf n).state ≠ .waiting ∨ 2 ≤ (s.progressOf n).waitCount →
      exec (.waitExpiry n) s = .next s) ∧
    (∀ k, s.work.port.engine = .running → (s.work.laneOf n).state = .draining → (s.progressOf n).limit = some k → k ≤ 1 →
      exec (.drainTimeout n) s = .next ticked) ∧
    (s.work.port.engine ≠ .running ∨ (s.work.laneOf n).state ≠ .draining ∨ (∀ k, (s.progressOf n).limit = some k → 2 ≤ k) →
      exec (.drainTimeout n) s = .next s)) ∧
  (∀ (n : LaneNo) (w : Work), w.quiet →
    let l := w.laneOf n
    (l.state = .waiting → l.progress.waitCount ≤ 1 → tickLane n w = (w.modLane n fun l => { l with
      state := .ready
      progress := { l.progress with
        ordinal := l.progress.ordinal + 1, waitCount := 0, limit := none, pointOwed := true } }).recorded n) ∧
    (l.state = .waiting → 2 ≤ l.progress.waitCount → tickLane n w = w.modLane n fun l => { l with
      progress := { l.progress with waitCount := l.progress.waitCount - 1 } }) ∧
    (∀ k, n ≠ 3 → l.state = .draining → l.progress.limit = some k → k ≤ 1 → l.cancelRequested = false →
      w.activeLane ≠ some n →
      tickLane n w = Work.signalled l.progress.signal (setCause .laneFault (setCause .laneHeld
        (((w.blockResult n .timeout).modLane n (Lane.without .held l.current)).recorded n)))) ∧
    (∀ k, n = 3 → l.state = .draining → l.progress.limit = some k → k ≤ 1 → w.line.pendingSlots ≠ [] →
      tickLane n w = w.slotRetired .timeout) ∧
    (∀ k, l.state = .draining → l.progress.limit = some k → 2 ≤ k → tickLane n w = w.modLane n fun l => { l with
      progress := { l.progress with limit := some (k - 1) } }) ∧
    (l.state = .draining → l.progress.limit = none → tickLane n w = w) ∧
    (l.state ≠ .waiting → l.state ≠ .draining → tickLane n w = w))

/-- What ends every event of the lanes: STOPPING ends when no lane is ACTIVE, and a free engine that is RUNNING grants the
lowest-numbered READY lane, whose record is written; a slot that lane 3 begins becomes RUNNING, its state word before the
record (the model's choice, log 33). A grant with a point owed after a WAIT or DRAIN, or of a body with no record left, takes
the preemption point at once, and the engine chooses again as often as is left of one event (the model's choice, log 7); an
owed point at which no case holds leaves the lane ACTIVE. -/
def Obligations.EngineGrantsTheLowestReadyLane : Prop :=
  (∀ w : Work, w.noChoiceDue → settleLanes w = w) ∧
  (∀ w : Work, w.port.engine = .stopping → w.lanes.activeValid = false →
    settleLanes w = { w with port := { w.port with engine := if w.port.run then .starting else .halted } }) ∧
  (∀ (w : Work) (n : LaneNo), w.lowestReady = some n ↔
    (w.laneOf n).state = .ready ∧ ∀ m, m < n → (w.laneOf m).state ≠ .ready) ∧
  (∀ (w : Work) (n : LaneNo), w.quiet → w.port.engine = .running → w.lanes.activeValid = false →
    w.lowestReady = some n →
    let active : Work := { w with lanes :=
      { lane := w.lanes.lane.set n.val { w.laneOf n with state := .active }, activeNo := n, activeValid := true } }
    let begun : Work := match w.line.pendingSlots with
      | p :: _ => if n = 3 ∧ w.slotOf p.slot = .queued then active.slotChanged p.slot .running else active
      | [] => active
    let granted := begun.recorded n
    let l := w.laneOf n
    let ended := l.progress.inHand = none ∧ l.progress.bodyLength ≤ l.progress.nextWord
    (¬ended → l.progress.pointOwed = false → settleLanes w = granted) ∧
    (ended ∨ l.progress.pointOwed = true →
      settleLanes w = engineChoice (Config.choicesPerEvent - 1) (preemptionPoint n granted)) ∧
    (¬ended → l.progress.pointOwed = true → l.cancelRequested = false → ¬(n = 3 ∧ w.line.purgeRequested = true) →
      settleLanes w = granted.modLane n fun l => { l with progress := { l.progress with pointOwed := false } }))

/-- The preemption point takes the first case that holds: cancel, purge of lane 3, end of the body, STOPPING, a lower lane
READY; and where none holds the lane goes on with nothing changed. -/
def Obligations.PreemptionPointTakesTheFirstCase : Prop :=
  ∀ (n : LaneNo) (w : Work),
    ((w.laneOf n).cancelRequested = true → preemptionPoint n w = retire n .cancelled w) ∧
    ((w.laneOf n).cancelRequested = false → n = 3 → w.line.purgeRequested = true →
      preemptionPoint n w = retire n .purged w) ∧
    ((w.laneOf n).cancelRequested = false → ¬(n = 3 ∧ w.line.purgeRequested = true) →
      ((w.laneOf n).progress.inHand = none ∧ (w.laneOf n).progress.bodyLength ≤ (w.laneOf n).progress.nextWord →
        preemptionPoint n w = retire n .done w) ∧
      (¬((w.laneOf n).progress.inHand = none ∧ (w.laneOf n).progress.bodyLength ≤ (w.laneOf n).progress.nextWord) →
        (w.quiet → w.activeLane = some n →
          w.port.engine = .stopping ∨ (∃ m, m < n ∧ (w.laneOf m).state = .ready) →
          preemptionPoint n w = ({ w with lanes := { w.lanes with
            lane := w.lanes.lane.set n.val { w.laneOf n with
              state := .ready, progress := { (w.laneOf n).progress with pointOwed := false } }
            activeValid := false } }).recorded n) ∧
        (w.port.engine ≠ .stopping → (∀ m, m < n → (w.laneOf m).state ≠ .ready) →
          preemptionPoint n w = w.modLane n fun l => { l with progress := { l.progress with pointOwed := false } }))) ∧
    (∀ s : State, pointInside n s = s.onWork fun w => settleLanes (preemptionPoint n w))

/-- The retire of a host lane's block, from any state in which it holds one: the result words are written with W3 last and the
retire is counted; CANCELLED makes the lane IDLE, an error outcome or STOP makes it HELD, and another DONE goes on by the link;
the lane record and then the causes follow, BLOCK_DONE if SIGNAL was set. A failed write of a result word, read of the link or
of the next block's header, or write of the lane record stops the retire there, which counts, and makes the lane FAULTED with
MEMORY. Its current block is the retired one until the link has been read, and then the next one: at the lane record this is
the model's choice (log 39). That a failed record of a HELD lane leaves LANE_HELD unset (log 25), that the words after a failed
one are not written (log 22), and that a retire by the link writes the lane record once, after the fetch (log 26), are the
model's deductions. -/
def Obligations.RetireOfAHostLaneGoesOnByOutcome : Prop :=
  ∀ (n : LaneNo) (o : BlockOutcome) (w : Work), n ≠ 3 → w.quiet →
    let l := w.laneOf n
    let r : Work := if w.activeLane = some n then
      { w.blockResult n o with lanes := { (w.blockResult n o).lanes with activeValid := false } } else w.blockResult n o
    let a := address20 (r.mem.readWord l.current) (r.mem.readWord (l.current + 2))
    (o = .cancelled → retire n o w = ((r.modLane n (Lane.without .idle 0)).recorded n).signalled l.progress.signal) ∧
    (o.isError = true → l.cancelRequested = true → retire n o w =
      (setCause .laneFault ((r.modLane n (Lane.without .idle 0)).recorded n)).signalled l.progress.signal) ∧
    (o.isError = true → l.cancelRequested = false → retire n o w =
      (setCause .laneFault (setCause .laneHeld ((r.modLane n (Lane.without .held l.current)).recorded n))).signalled
        l.progress.signal) ∧
    (o = .done → l.cancelRequested = false → l.progress.stop = true → retire n o w =
      (setCause .laneHeld ((r.modLane n (Lane.without .held l.current)).recorded n)).signalled l.progress.signal) ∧
    (o = .done → l.cancelRequested = false → l.progress.stop = false →
      (r.mem.readWord l.current = 0 → retire n o w =
        ((r.modLane n (Lane.without .parked l.current)).recorded n).signalled l.progress.signal) ∧
      (r.mem.readWord l.current ≠ 0 → a.toNat % 2 = 0 → retire n o w =
        ((r.modLane n (Lane.fetched a (r.mem.readWord (a + 2)) (r.mem.readWord (a + 4)))).recorded n).signalled
          l.progress.signal) ∧
      (r.mem.readWord l.current ≠ 0 → a.toNat % 2 = 1 → retire n o w =
        (r.faulted n .badLink l.current).signalled l.progress.signal)) ∧
    (let lane := BitVec.ofNat 16 n.val
      let loses (i : Nat) (answer : BusAnswer) (block : Addr) (cut : Work) :=
        retire n o (w.withFailure i answer) = (cut.faulted n .memory block).signalled l.progress.signal
      let cuts (first : Nat) (block : Addr) (v : Work) := ∀ (j : Nat) (stored : Bool), j < 5 →
        loses (first + j) (.noAnswer stored) block (v.cutShort j stored 3 lane (v.laneRecordWords n))
      (∀ (j : Nat) (stored : Bool), j < 3 →
        loses j (.noAnswer stored) l.current ((w.cutShort j stored 3 lane (w.blockResultWords n o)).retireCounted n o)) ∧
      (o = .cancelled ∨ (o.isError = true ∧ l.cancelRequested = true) →
        cuts 3 l.current (r.modLane n (Lane.without .idle 0))) ∧
      (o.isError = true ∨ (o = .done ∧ l.progress.stop = true) → l.cancelRequested = false →
        cuts 3 l.current (r.modLane n (Lane.without .held l.current))) ∧
      (o = .done → l.cancelRequested = false → l.progress.stop = false →
        (∀ (i : Nat) (answer : BusAnswer) (kind : Word), answer.FailsRead kind →
          i = 0 ∨ (i = 1 ∧ r.mem.readWord l.current ≠ 0) →
          loses (3 + i) answer l.current (r.failureNoted kind 3 lane (l.current + BitVec.ofNat 20 (2 * i)))) ∧
        (r.mem.readWord l.current = 0 → cuts 4 l.current (r.modLane n (Lane.without .parked l.current))) ∧
        (r.mem.readWord l.current ≠ 0 → a.toNat % 2 = 0 →
          (∀ (i : Nat) (answer : BusAnswer) (kind : Word), answer.FailsRead kind → i < 2 →
            loses (5 + i) answer a (r.failureNoted kind 3 lane (a + BitVec.ofNat 20 (2 + 2 * i)))) ∧
          cuts 7 a (r.modLane n (Lane.fetched a (r.mem.readWord (a + 2)) (r.mem.readWord (a + 4)))))))

/-- Lane 3 retires its slot from any state in which it holds one: W6, W7 and then W5 are written, the slot becomes FREE, and
lane 3 takes the next pending slot and becomes READY, or becomes IDLE; the lane record follows, and then an error outcome sets
LANE_FAULT. A failed write of a result word, which still counts the retire, or of lane 3's record gives up the slot that lane 3
holds and makes the lane FAULTED with MEMORY; that the slot's state word comes before the report (log 20), and that the report
names the next slot where the lane has taken it (log 39), is the model's choice. The words after a failed one are not written
(the model's deduction, log 22). -/
def Obligations.RetireOfASlotTakesTheNext : Prop :=
  ∀ (o : BlockOutcome) (w : Work) (p : PendingSlot) (rest : List PendingSlot), w.quiet →
    (w.laneOf 3).state = .ready ∨ (w.laneOf 3).state = .active ∨ (w.laneOf 3).state = .waiting
      ∨ (w.laneOf 3).state = .draining →
    w.line.pendingSlots = p :: rest →
    let freed := (w.slotResult o).slotGivenUp p.slot
    let r : Work := if w.activeLane = some 3 then { freed with lanes := { freed.lanes with activeValid := false } } else freed
    let after := match rest with
      | [] => r.modLane 3 (Lane.without .idle 0)
      | q :: _ => r.modLane 3 fun l => { l with
          state := .ready
          current := w.slotAddress q.slot
          cancelRequested := false
          progress :=
            { bodyLength := q.octets / 2, signal := false, stop := false, fresh := false
              ordinal := 0, nextWord := 0, inHand := none, pointOwed := false, cells := 0, waitCount := 0, limit := none } }
    retire 3 o w = (if o.isError = true then setCause .laneFault (after.recorded 3) else after.recorded 3) ∧
      retire 3 o w = w.slotRetired o ∧
      (∀ (j : Nat) (stored : Bool), j < 3 → retire 3 o (w.withFailure j (.noAnswer stored)) =
        (((w.cutShort j stored 3 3 (w.slotResultWords o)).retireCounted 3 o).slotGivenUp p.slot).faulted 3 .memory
          (w.laneOf 3).current) ∧
      (∀ (j : Nat) (stored : Bool) (retired : Addr), j < 5 → writeLaneRecord 3 retired (w.withFailure j (.noAnswer stored)) =
        ((w.cutShort j stored 3 3 (w.laneRecordWords 3)).slotGivenUp p.slot).faulted 3 .memory (w.laneOf 3).current) ∧
      (∀ (v : Work) (j : Nat) (stored : Bool) (retired : Addr), j < 5 → v.quiet →
        (v.laneOf 3).state = .idle ∨ (v.laneOf 3).state = .faulted →
        writeLaneRecord 3 retired (v.withFailure j (.noAnswer stored)) =
          (v.cutShort j stored 3 3 (v.laneRecordWords 3)).faulted 3 .memory retired)
/-! ## Records -/

/-- A MOVE record sets the pen to its (x, y), whatever they are, in one step, and changes nothing else before its
preemption point. -/
def Obligations.MoveSetsThePen : Prop :=
  ∀ (n : LaneNo) (s : State) (head x y : Word), s.MeetsRecord n [head, x, y] → recordKind head = .move →
    exec .move s = .next (pointInside n (s.modLane n fun l => (l.withPen x y).recordTaken 3))

/-- SETMODE, SETCLIP and SETTEXT that pass their checks set their fields of the lane context and change nothing else
before their preemption point. -/
def Obligations.SettingRecordsSetTheContext : Prop :=
  ∀ (n : LaneNo) (s : State) (head : Word),
    (∀ (m : DrawMode) (code : Nat),
      (m, code) ∈ [(DrawMode.set, 0), (DrawMode.clear, 1), (DrawMode.replace, 2), (DrawMode.invert, 3)] →
      s.MeetsRecord n [head] → recordKind head = .setmode → (recordImmediate head).toNat = code →
      exec .setmode s = .next (pointInside n (s.modLane n fun l =>
        { l with context := { l.context with mode := m } }.recordTaken 1))) ∧
    (∀ x0 y0 x1 y1 : Word, s.MeetsRecord n [head, x0, y0, x1, y1] → recordKind head = .setclip →
      0 ≤ x0.toInt → x0.toInt ≤ x1.toInt → x1.toInt ≤ 511 → 0 ≤ y0.toInt → y0.toInt ≤ y1.toInt → y1.toInt ≤ 511 →
      exec .setclip s = .next (pointInside n (s.modLane n fun l =>
        { l with context := { l.context with
          clipX0 := x0.toNat, clipY0 := y0.toNat, clipX1 := x1.toNat, clipY1 := y1.toNat } }.recordTaken 5))) ∧
    (s.MeetsRecord n [head] → recordKind head = .settext →
      (head.extractLsb' 2 2 = 1 ∨ head.extractLsb' 2 2 = 2) →
      exec .settext s = .next (pointInside n (s.modLane n fun l =>
        { l with context := { l.context with
          glyphSet := (head.extractLsb' 0 2).toFin, scale := (head.extractLsb' 2 2).toNat
          wrap := head.getLsbD 4 } }.recordTaken 1)))

/-- A record that runs past the body ends the block with BAD_RECORD and no further word is read; a record of which a word
cannot be read, the head or a later one, for a parity error or no answer, ends the block with MEMORY before it has any effect,
and the failure of unit ENGINE is reported with the lane and the address of the word. A head that cannot be read ends the block
whichever of the sixteen commands stands for the record (the model's reading, log 8). -/
def Obligations.RecordThatCannotBeReadEndsTheBlock : Prop :=
  ∀ (n : LaneNo) (s : State) (c : Instr) (k : RecordKind), (c, k) ∈ recordCommands → s.awake → s.work.quiet →
    s.work.servedLane = some n → (s.progressOf n).inHand = none →
    (s.progressOf n).nextWord < (s.progressOf n).bodyLength →
    let first := (s.progressOf n).nextWord
    let head := s.work.mem.readWord (s.work.bodyAddress n first)
    let length := recordLength k (recordImmediate head)
    (recordKind head = k → (s.progressOf n).bodyLength < first + length → exec c s = .next (endBlock n .badRecord s)) ∧
    (∀ (i : Nat) (answer : BusAnswer) (kind : Word), answer.FailsRead kind →
      i = 0 ∨ (recordKind head = k ∧ first + length ≤ (s.progressOf n).bodyLength ∧ i < length) →
      exec c (s.onWork (Work.withFailure i answer)) = .next (endBlock n .memory (s.onWork
        (Work.failureNoted kind 1 (BitVec.ofNat 16 n.val) (s.work.bodyAddress n (first + i))))))

/-- A record whose fields are outside the ranges of its rule ends the block with BAD_RECORD and has no effect. -/
def Obligations.RecordOutsideItsRangesEndsTheBlock : Prop :=
  ∀ (n : LaneNo) (s : State) (head a b c d e : Word),
    let imm := (recordImmediate head).toNat
    let bad (length : Nat) := endBlock n .badRecord (s.modLane n (Lane.wordsRead length))
    (s.MeetsRecord n [head, a, b] → recordKind head = .area →
      ¬(1 ≤ a.toNat ∧ a.toNat ≤ 512 ∧ 1 ≤ b.toNat ∧ b.toNat ≤ 512) → exec .area s = .next (bad 3)) ∧
    (s.MeetsRecord n [head, a, b, c, d, e] → recordKind head = .image →
      ¬(1 ≤ a.toNat ∧ a.toNat ≤ 512 ∧ 1 ≤ b.toNat ∧ b.toNat ≤ 512 ∧ c.toNat % 2 = 0 ∧ (a.toNat + 15) / 16 ≤ e.toNat) →
      exec .image s = .next (bad 6)) ∧
    (s.MeetsRecord n [head, a, b, c, d, e] → recordKind head = .readback →
      ¬(0 ≤ a.toInt ∧ a.toInt ≤ 511 ∧ 0 ≤ b.toInt ∧ b.toInt ≤ 511 ∧ 1 ≤ c.toNat ∧ c.toNat ≤ 512 ∧ 1 ≤ d.toNat
        ∧ d.toNat ≤ 512 ∧ a.toInt + c.toNat ≤ 512 ∧ b.toInt + d.toNat ≤ 512 ∧ e.toNat % 2 = 0
        ∧ 1 ≤ (head.extractLsb' 4 8).toNat ∧ (c.toNat + 15) / 16 ≤ (head.extractLsb' 4 8).toNat) →
      exec .readback s = .next (bad 6)) ∧
    (s.MeetsRecord n [head] → recordKind head = .setmode → 4 ≤ imm → exec .setmode s = .next (bad 1)) ∧
    (s.MeetsRecord n [head, a, b, c, d] → recordKind head = .setclip →
      ¬(0 ≤ a.toInt ∧ a.toInt ≤ c.toInt ∧ c.toInt ≤ 511 ∧ 0 ≤ b.toInt ∧ b.toInt ≤ d.toInt ∧ d.toInt ≤ 511) →
      exec .setclip s = .next (bad 5)) ∧
    (s.MeetsRecord n [head] → recordKind head = .settext → head.extractLsb' 2 2 ≠ 1 → head.extractLsb' 2 2 ≠ 2 →
      exec .settext s = .next (bad 1)) ∧
    (s.MeetsRecord n [head, a, b, c] → recordKind head = .glyphload →
      ¬(1 ≤ (head.extractLsb' 0 2).toNat ∧ 1 ≤ (head.extractLsb' 4 7).toNat ∧ (head.extractLsb' 4 7).toNat ≤ 96
        ∧ 32 ≤ a.toNat ∧ a.toNat ≤ 127 ∧ a.toNat + (head.extractLsb' 4 7).toNat - 1 ≤ 127 ∧ b.toNat % 2 = 0) →
      exec .glyphload s = .next (bad 4)) ∧
    (s.MeetsRecord n [head, a, b, c, d, e] → recordKind head = .mark →
      ¬(imm ≤ 1 ∧ 0 ≤ a.toInt ∧ a.toInt ≤ 511 ∧ 0 ≤ b.toInt ∧ b.toInt ≤ 511 ∧ 1 ≤ c.toNat ∧ c.toNat ≤ 64 ∧ 1 ≤ d.toNat
        ∧ d.toNat ≤ 64 ∧ a.toInt + c.toNat ≤ 512 ∧ b.toInt + d.toNat ≤ 512 ∧ 2 ≤ (e.extractLsb' 8 8).toNat
        ∧ (e.extractLsb' 0 8).toNat ≤ (e.extractLsb' 8 8).toNat) →
      exec .mark s = .next (bad 6)) ∧
    (s.MeetsRecord n [head] → recordKind head = .unmark → 2 ≤ imm → exec .unmark s = .next (bad 1)) ∧
    (∀ ws : List Word, s.MeetsRecord n (head :: ws) → ws.length = (imm + 1) / 2 → recordKind head = .text →
      imm = 0 ∨ 256 ≤ imm → exec .text s = .next (bad (1 + ws.length)))

/-- A POINT record plots its cell in the lane's mode if it is on the panel and inside the window, and moves the pen there;
the changed cell is counted, a CLEAN row that changed joins the queue, and nothing else changes before the preemption point. -/
def Obligations.PointPlotsOneCell : Prop :=
  ∀ (n : LaneNo) (s : State) (head x y : Word), s.panel.Sound → s.MeetsRecord n [head, x, y] → recordKind head = .point →
    ∃ t, exec .point s = .next (pointInside n t) ∧ DrawsOnly n allRows s t ∧
      FigureDrawn (s.contextOf n) (fun cx cy => (cx.val : Int) = x.toInt ∧ (cy.val : Int) = y.toInt) s.panel.drawn
        t.panel.drawn ∧
      t.work.laneOf n =
        (((s.work.laneOf n).withPen x y).recordTaken 3).counted (s.panel.drawn.changes t.panel.drawn)

/-- A VECTOR record draws the cells of the line from the pen to its (x, y), both ends included, each once, in the lane's mode,
counts the cells of D that it changes, and moves the pen to the end; the CLEAN rows that change join in the order in which the
line reaches them. -/
def Obligations.VectorDrawsItsLine : Prop :=
  ∀ (n : LaneNo) (s : State) (head x y : Word), s.panel.Sound → s.MeetsRecord n [head, x, y] → recordKind head = .vector →
    ∃ t, exec .vector s = .next (pointInside n t) ∧
      DrawsOnly n (if (s.contextOf n).penY.toInt ≤ y.toInt then allRows else allRows.reverse) s t ∧
      FigureDrawn (s.contextOf n)
        (fun cx cy => OnLine (s.contextOf n).penX.toInt (s.contextOf n).penY.toInt x.toInt y.toInt cx.val cy.val)
        s.panel.drawn t.panel.drawn ∧
      t.work.laneOf n =
        (((s.work.laneOf n).withPen x y).recordTaken 3).counted (s.panel.drawn.changes t.panel.drawn)


/-- An AREA fills one row of its rectangle in a step, the first in the step that reads it, and ends each row at a
preemption point with the rows done kept in hand. -/
def Obligations.AreaFillsOneRowAStep : Prop :=
  ∀ (n : LaneNo) (s : State), s.panel.Sound →
    (∀ head w h : Word, s.MeetsRecord n [head, w, h] → recordKind head = .area →
      1 ≤ w.toNat → w.toNat ≤ 512 → 1 ≤ h.toNat → h.toNat ≤ 512 →
      ∃ t, exec .area s = .next (pointInside n t) ∧
        AreaRowTaken n (s.contextOf n).penX.toInt (s.contextOf n).penY.toInt w.toNat h.toNat 0 3 s t) ∧
    (∀ (x y : Int) (w h k : Nat), s.HasInHand n (.area x y w h k) →
      ∃ t, exec .area s = .next (pointInside n t) ∧ AreaRowTaken n x y w h k 0 s t)

/-- An IMAGE reads one pattern row and paints it in a step, and ends each row at a preemption point. A word of the row that
cannot be read ends the block with MEMORY, with no cell of that row changed. -/
def Obligations.ImagePaintsOneRowAStep : Prop :=
  ∀ (n : LaneNo) (s : State), s.panel.Sound →
    (∀ head w h low high stride : Word, s.MeetsRecord n [head, w, h, low, high, stride] → recordKind head = .image →
      1 ≤ w.toNat → w.toNat ≤ 512 → 1 ≤ h.toNat → h.toNat ≤ 512 → low.toNat % 2 = 0 → (w.toNat + 15) / 16 ≤ stride.toNat →
      ∃ t, exec .image s = .next (pointInside n t) ∧
        ImageRowTaken n (s.contextOf n).penX.toInt (s.contextOf n).penY.toInt w.toNat h.toNat (address20 low high)
          stride.toNat 0 6 s t) ∧
    (∀ head w h low high stride : Word, s.MeetsRecord n [head, w, h, low, high, stride] → recordKind head = .image →
      1 ≤ w.toNat → w.toNat ≤ 512 → 1 ≤ h.toNat → h.toNat ≤ 512 → low.toNat % 2 = 0 → (w.toNat + 15) / 16 ≤ stride.toNat →
      ∀ (i : Nat) (answer : BusAnswer) (kind : Word), answer.FailsRead kind → i < (w.toNat + 15) / 16 →
        exec .image (s.onWork (Work.withFailure (6 + i) answer)) = .next (endBlock n .memory
          ((s.modLane n (Lane.wordsRead 6)).onWork
            (Work.failureNoted kind 1 (BitVec.ofNat 16 n.val) (address20 low high + BitVec.ofNat 20 (2 * i)))))) ∧
    (∀ (x y : Int) (w h : Nat) (source : Addr) (stride k : Nat), s.HasInHand n (.image x y w h source stride k) →
      w ≤ 512 →
      (∃ t, exec .image s = .next (pointInside n t) ∧ ImageRowTaken n x y w h source stride k 0 s t) ∧
      ∀ (i : Nat) (answer : BusAnswer) (kind : Word), answer.FailsRead kind → i < (w + 15) / 16 →
        exec .image (s.onWork (Work.withFailure i answer)) = .next (endBlock n .memory (s.onWork
          (Work.failureNoted kind 1 (BitVec.ofNat 16 n.val) (source + BitVec.ofNat 20 (2 * stride * k + 2 * i))))))

/-- A TEXT takes one octet in a step: a printable one is drawn as its glyph's box at the pen after the wrap test and
advances the pen, another moves the pen only; each octet ends at a preemption point. -/
def Obligations.TextTakesOneOctetAStep : Prop :=
  ∀ (n : LaneNo) (s : State) (octets : List Byte), s.panel.Sound → (s.contextOf n).Legal →
    (∀ (head : Word) (ws : List Word), s.MeetsRecord n (head :: ws) → recordKind head = .text →
      octets.length = (recordImmediate head).toNat → 1 ≤ octets.length → octets.length ≤ 255 →
      ws.length = (octets.length + 1) / 2 →
      (∀ i, (hi : i < octets.length) → octets[i] =
        if i % 2 = 0 then (ws.getD (i / 2) 0).extractLsb' 8 8 else (ws.getD (i / 2) 0).extractLsb' 0 8) →
      ∃ t, exec .text s = .next (pointInside n t) ∧ TextOctetTaken n octets 0 (1 + ws.length) s t) ∧
    (∀ k, s.HasInHand n (.text octets k) →
      ∃ t, exec .text s = .next (pointInside n t) ∧ TextOctetTaken n octets k 0 s t)

/-- A READBACK copies one row of its region from D into station memory in a step, if its whole target span lies inside the
fence in force; otherwise it ends the block with FENCE and writes no word. A word that cannot be written ends the block with
MEMORY: the words of the row before it are written, and the later ones are not. -/
def Obligations.ReadbackCopiesOneRowInsideTheFence : Prop :=
  ∀ (n : LaneNo) (s : State),
    (∀ head x y w h low : Word, s.MeetsRecord n [head, x, y, w, h, low] → recordKind head = .readback →
      0 ≤ x.toInt → x.toInt + w.toNat ≤ 512 → 0 ≤ y.toInt → y.toInt + h.toNat ≤ 512 → 1 ≤ w.toNat → 1 ≤ h.toNat →
      low.toNat % 2 = 0 → (w.toNat + 15) / 16 ≤ (head.extractLsb' 4 8).toNat →
      let target : Addr := head.extractLsb' 0 4 ++ low
      let stride := (head.extractLsb' 4 8).toNat
      let last := target.toNat + 2 * stride * (h.toNat - 1) + 2 * ((w.toNat + 15) / 16) - 1
      (∀ f, s.work.port.fence = some f → f.low.toNat ≤ target.toNat → last < f.high.toNat →
        (∃ t, exec .readback s = .next (pointInside n t) ∧
          ReadbackRowTaken n x.toNat y.toNat w.toNat h.toNat target stride 0 6 s t) ∧
        ∀ (j : Nat) (stored : Bool), j < (w.toNat + 15) / 16 →
          ∃ words, s.panel.IsReadbackRow x.toNat y.toNat w.toNat target stride 0 words ∧
            exec .readback (s.onWork (Work.withFailure (6 + j) (.noAnswer stored))) = .next (endBlock n .memory
              ((s.modLane n (Lane.wordsRead 6)).onWork (Work.cutShort j stored 1 (BitVec.ofNat 16 n.val) words)))) ∧
      ((∀ f, s.work.port.fence = some f → ¬(f.low.toNat ≤ target.toNat ∧ last < f.high.toNat)) →
        exec .readback s = .next (endBlock n .fence (s.modLane n (Lane.wordsRead 6))))) ∧
    (∀ (x y w h : Nat) (target : Addr) (stride k : Nat), s.HasInHand n (.readback x y w h target stride k) →
      let last := target.toNat + 2 * stride * (h - 1) + 2 * ((w + 15) / 16) - 1
      (∀ f, s.work.port.fence = some f → f.low.toNat ≤ target.toNat → last < f.high.toNat →
        (∃ t, exec .readback s = .next (pointInside n t) ∧ ReadbackRowTaken n x y w h target stride k 0 s t) ∧
        ∀ (j : Nat) (stored : Bool), j < (w + 15) / 16 →
          ∃ words, s.panel.IsReadbackRow x y w target stride k words ∧
            exec .readback (s.onWork (Work.withFailure j (.noAnswer stored))) = .next (endBlock n .memory
              (s.onWork (Work.cutShort j stored 1 (BitVec.ofNat 16 n.val) words)))) ∧
      ((∀ f, s.work.port.fence = some f → ¬(f.low.toNat ≤ target.toNat ∧ last < f.high.toNat)) →
        exec .readback s = .next (endBlock n .fence s)))

/-- CLEARALL makes every cell of D 0 and counts the lit cells; the CLEAN rows whose target changed join in ascending order;
when the supply is READY the bulk request is set, and an IDLE driver fires BULK. -/
def Obligations.ClearallClearsTheDrawnPlane : Prop :=
  ∀ (n : LaneNo) (s : State) (head : Word), s.panel.Sound → s.MeetsRecord n [head] → recordKind head = .clearall →
    ∃ t, exec .clearall s = .next (pointInside n t) ∧ t.pending = s.pending ∧ t.glyphs = s.glyphs ∧
      t.work = s.work.modLane n (fun l =>
        (l.recordTaken 1).counted (allRows.map fun r => countCols s.panel.drawn[r.val]).sum) ∧
      (∀ x y, t.panel.drawn.cell x y = false) ∧
      t.panel.panel = s.panel.panel ∧ t.panel.doubt = s.panel.doubt ∧ t.panel.markers = s.panel.markers ∧
      t.panel.supply = s.panel.supply ∧
      t.panel.queue = s.panel.queue ++
        allRows.filter (fun r => s.panel.drawn[r.val] != 0 && decide (s.panel.rowState r = .clean)) ∧
      (s.panel.supply.state = .ready → t.panel.bulkRequest = true) ∧
      (s.panel.supply.state ≠ .ready → t.panel.bulkRequest = false) ∧
      (s.panel.supply.state = .ready → s.panel.driver.state = .idle → t.panel.driver = { s.panel.driver with
        state := .bulk
        pulse := some
          { kind := .bulk, row := none, selection := BitVec.allOnes 512, count := 512, deadline := none } }) ∧
      (¬(s.panel.supply.state = .ready ∧ s.panel.driver.state = .idle) → t.panel.driver = s.panel.driver)

/-- A GLYPHLOAD that passes its checks loads its glyphs from their source words, the upper octet of word `j` being row
`2 j`, and changes nothing else before its preemption point. A source word that cannot be read ends the block with MEMORY: the
glyphs before its glyph are loaded, and that glyph and the later ones keep their patterns. -/
def Obligations.GlyphloadReplacesItsGlyphs : Prop :=
  ∀ (n : LaneNo) (s : State) (head first low high : Word), s.MeetsRecord n [head, first, low, high] →
    recordKind head = .glyphload →
    let set := head.extractLsb' 0 2
    let count := (head.extractLsb' 4 7).toNat
    let source := address20 low high
    let loads (glyphs : Nat) (t : State) := t.pending = s.pending ∧ t.panel = s.panel ∧
      ∀ (g : Fin 4) (code row : Nat), 32 ≤ code → code ≤ 127 → row < 16 →
        (g = set.toFin → first.toNat ≤ code → code < first.toNat + glyphs →
          let word := s.work.mem.readWord (source + BitVec.ofNat 20 (16 * (code - first.toNat) + 2 * (row / 2)))
          t.glyphRow g code row = if row % 2 = 0 then word.extractLsb' 8 8 else word.extractLsb' 0 8) ∧
        (¬(g = set.toFin ∧ first.toNat ≤ code ∧ code < first.toNat + glyphs) → t.glyphRow g code row = s.glyphRow g code row)
    1 ≤ set.toNat → 1 ≤ count → 32 ≤ first.toNat → first.toNat + count ≤ 128 → low.toNat % 2 = 0 →
    (∃ t, exec .glyphload s = .next (pointInside n t) ∧ loads count t ∧ t.work = s.work.modLane n (Lane.recordTaken 4)) ∧
    (∀ (i : Nat) (answer : BusAnswer) (kind : Word), answer.FailsRead kind → i < 8 * count →
      ∃ t, exec .glyphload (s.onWork (Work.withFailure (4 + i) answer)) = .next (endBlock n .memory t) ∧ loads (i / 8) t ∧
        t.work = (s.work.modLane n (Lane.wordsRead 4)).failureNoted kind 1 (BitVec.ofNat 16 n.val)
          (source + BitVec.ofNat 20 (2 * i)))

/-- A MARK that passes its checks defines its marker anew with the counter at 0 and on exactly if the on-time is above 0, and
an UNMARK makes its marker inactive. The CLEAN rows of a marker that was on join in ascending order as it is removed, and then
those of a marker that is on as it is defined; once a row has joined, the event ends with the driver's start test, which may
find every row stale, and then SETTLED is set, also where the event began settled (the model's choice, log 40). No DRAIN is
completed: a lane that waits in one waits on. Nothing else changes before the preemption point. -/
def Obligations.MarkerRecordsDefineAndRemove : Prop :=
  ∀ (n : LaneNo) (s : State) (head : Word) (m : Fin 2), s.panel.Sound → s.DrainsWait →
    (s.panel.markers[m.val]).Legal → (recordImmediate head).toNat = m.val →
    let old := s.panel.markers[m.val]
    let rowsOf (k : Marker) := allRows.filter fun r =>
      decide (k.y ≤ r.val) && decide (r.val < k.y + k.h) && decide (s.panel.rowState r = .clean)
    let gone := if (old.active && old.on) = true then rowsOf old else []
    let after (length : Nat) (new : Marker) (joined : List Row) : State :=
      let p := ({ s.panel with markers := s.panel.markers.set m.val new } : Panel).withJoins joined
      { s with
        panel := p
        work := { s.work.modLane n (Lane.recordTaken length) with
          cause := if joined ≠ [] ∧ p.settled = true then s.work.cause ||| Cause.settled.mask else s.work.cause } }
    (∀ x y w h pd : Word, s.MeetsRecord n [head, x, y, w, h, pd] → recordKind head = .mark →
      0 ≤ x.toInt → x.toInt + w.toNat ≤ 512 → 0 ≤ y.toInt → y.toInt + h.toNat ≤ 512 →
      1 ≤ w.toNat → w.toNat ≤ 64 → 1 ≤ h.toNat → h.toNat ≤ 64 →
      2 ≤ (pd.extractLsb' 8 8).toNat → (pd.extractLsb' 0 8).toNat ≤ (pd.extractLsb' 8 8).toNat →
      let new : Marker :=
        { active := true, x := x.toNat, y := y.toNat, w := w.toNat, h := h.toNat, period := (pd.extractLsb' 8 8).toNat
          onTime := (pd.extractLsb' 0 8).toNat, counter := 0, on := decide (0 < (pd.extractLsb' 0 8).toNat) }
      exec .mark s = .next (pointInside n
        (after 6 new (gone ++ if new.on then (rowsOf new).filter (fun r => decide (r ∉ gone)) else [])))) ∧
    (s.MeetsRecord n [head] → recordKind head = .unmark →
      exec .unmark s = .next (pointInside n (after 1 { old with active := false, on := false } gone)))

/-- A WAIT of 0 and a DRAIN that finds the plane store settled complete at once; another makes the lane WAITING with its
count or DRAINING with its limit (none for 0) and gives the engine back, unless cancel-requested is set, when the block
retires CANCELLED at once. -/
def Obligations.WaitAndDrainHoldTheLane : Prop :=
  ∀ (n : LaneNo) (s : State) (head v : Word), s.MeetsRecord n [head, v] →
    let freed := { s.work with lanes := { s.work.lanes with activeValid := false } }
    (recordKind head = .wait → v = 0 → exec .wait s = .next (pointInside n (s.modLane n (Lane.recordTaken 2)))) ∧
    (recordKind head = .wait → v ≠ 0 → (s.work.laneOf n).cancelRequested = true →
      exec .wait s = .next (endBlock n .cancelled (s.modLane n (Lane.wordsRead 2)))) ∧
    (recordKind head = .wait → v ≠ 0 → (s.work.laneOf n).cancelRequested = false →
      exec .wait s = .next (s.onWork fun _ => settleLanes ((freed.modLane n fun l =>
        { l.wordsRead 2 with state := .waiting, progress := { (l.wordsRead 2).progress with
          waitCount := v.toNat } }).recorded n))) ∧
    (recordKind head = .drain → s.panel.settled = true →
      exec .drain s = .next (pointInside n (s.modLane n (Lane.recordTaken 2)))) ∧
    (recordKind head = .drain → s.panel.settled = false → (s.work.laneOf n).cancelRequested = true →
      exec .drain s = .next (endBlock n .cancelled (s.modLane n (Lane.wordsRead 2)))) ∧
    (recordKind head = .drain → s.panel.settled = false → (s.work.laneOf n).cancelRequested = false →
      exec .drain s = .next (s.onWork fun _ => settleLanes ((freed.modLane n fun l =>
        { l.wordsRead 2 with state := .draining, progress := { (l.wordsRead 2).progress with
          limit := if v = 0 then none else some v.toNat } }).recorded n)))

/-! ## The plane store and the pulse driver -/

/-- The join rule: a CLEAN row that a change to T leaves differing goes to the tail of the queue; a row in another state, or
one that does not differ, leaves the queue as it is. The target of a cell is its value in D, inverted where the overlay covers
it, and the overlay covers the cells in the rectangle of exactly one of the two markers, counting those active and on. -/
def Obligations.CleanRowThatDiffersJoinsAtTheTail : Prop :=
  ∀ (p : Panel) (r : Row),
    (p.rowState r = .clean → (∃ x : Fin 512, ((p.drawn.cell x r != (p.overlayRow r).getLsbD x.val) != p.panel.cell x r) = true
      ∨ p.doubt.cell x r = true) → p.join r = { p with queue := p.queue ++ [r] }) ∧
    (p.rowState r ≠ .clean → p.join r = p) ∧
    ((∀ x : Fin 512, (p.drawn.cell x r != (p.overlayRow r).getLsbD x.val) = p.panel.cell x r ∧ p.doubt.cell x r = false) →
      p.join r = p) ∧
    (∀ x : Fin 512, (p.overlayRow r).getLsbD x.val = (p.markers[0].covers x r ^^ p.markers[1].covers x r))

/-- The start test: unless the driver is IDLE and the supply READY nothing starts; a bulk request starts BULK and leaves the
queue; otherwise the stale rows at the head are discarded and the first row that differs becomes FIRING, with an ERASE of
the lowest columns that need extinguishing, or if there is none a WRITE of the lowest that need lighting, at most as many as
the budget. -/
def Obligations.StartTestTakesTheFirstDifferingRow : Prop :=
  ∀ p : Panel,
    (¬(p.driver.state = .idle ∧ p.supply.state = .ready) → p.startTest = p) ∧
    (p.driver.state = .idle → p.supply.state = .ready →
      (p.bulkRequest = true → p.startTest = { p with driver := { p.driver with
        state := .bulk
        pulse := some
          { kind := .bulk, row := none, selection := BitVec.allOnes 512, count := 512, deadline := none } } }) ∧
      (p.bulkRequest = false → (∀ r ∈ p.queue, p.differs r = false) → p.startTest = { p with queue := [] }) ∧
      (∀ (stale rest : List Row) (r : Row), p.bulkRequest = false → p.queue = stale ++ r :: rest →
        (∀ q ∈ stale, p.differs q = false) → p.differs r = true →
        let target (x : Fin 512) : Bool := p.drawn.cell x r != (p.overlayRow r).getLsbD x.val
        let erases (x : Fin 512) : Bool := !target x && (p.panel.cell x r || p.doubt.cell x r)
        let writes (x : Fin 512) : Bool := target x && (!p.panel.cell x r || p.doubt.cell x r)
        ∃ pulse, p.startTest =
            { p with queue := rest, driver := { p.driver with state := .firing, pulse := some pulse } } ∧
          pulse.row = some r ∧ pulse.deadline = none ∧
          ((∃ x, erases x = true) → pulse.kind = .erase ∧
            ∀ x : Fin 512, pulse.selection.getLsbD x.val =
              (erases x && decide (((List.finRange 512).filter fun y => decide (y < x) && erases y).length < p.driver.budget))) ∧
          ((∀ x, erases x = false) → pulse.kind = .write ∧
            ∀ x : Fin 512, pulse.selection.getLsbD x.val =
              (writes x && decide (((List.finRange 512).filter fun y => decide (y < x) && writes y).length < p.driver.budget))) ∧
          pulse.count = ((List.finRange 512).filter fun x : Fin 512 => pulse.selection.getLsbD x.val).length ∧
          pulse.count ≤ p.driver.budget ∧ (0 < p.driver.budget → 0 < pulse.count)))

/-- The settled flag follows the settled condition; its change from not settled to settled sets SETTLED and completes the
DRAIN of every DRAINING lane, in ascending order (the model's choice, log 24), whose lane record is written each time, and
nothing else does either; every other octet of memory is as it was. -/
def Obligations.SettledEntryCompletesDrains : Prop :=
  ∀ s : State, s.work.quiet →
    let t := noteSettled s
    let completed (l : Lane) : Lane := { l with
      state := .ready
      progress := { l.progress with ordinal := l.progress.ordinal + 1, waitCount := 0, limit := none, pointOwed := true } }
    t.panel = { s.panel with
      settled := s.panel.queue.isEmpty && s.panel.driver.pulse.isNone && !s.panel.bulkRequest } ∧
    t.pending = s.pending ∧ t.glyphs = s.glyphs ∧
    (¬(s.panel.isSettled = true ∧ s.panel.settled = false) → t.work = s.work) ∧
    (s.panel.isSettled = true → s.panel.settled = false →
      t.work = ([0, 1, 2, 3, 4, 5, 6, 7] : List LaneNo).foldl
        (fun w n => if (w.laneOf n).state = .draining then (w.modLane n completed).recorded n else w)
        (setCause .settled s.work) ∧
      t.work.cause = s.work.cause ||| Cause.settled.mask ∧
      t.work.port = s.work.port ∧ t.work.time = s.work.time ∧ t.work.line = s.work.line ∧ t.work.bus = s.work.bus ∧
      t.work.activeLane = s.work.activeLane ∧
      (s.work.noneDraining → t.work = setCause .settled s.work) ∧
      (∀ n, t.work.laneOf n =
        if (s.work.laneOf n).state = .draining then completed (s.work.laneOf n) else s.work.laneOf n) ∧
      (s.MemoryCanonical → ∀ n, (s.work.laneOf n).state = .draining →
        ∀ c ∈ t.work.laneRecordWords n, t.work.mem.readWord c.1 = c.2) ∧
      (∀ x : Nat, (∀ (n : LaneNo) (k : Nat), (s.work.laneOf n).state = .draining → 4 ≤ k → k ≤ 13 →
        x ≠ (s.work.laneRecord n k).toNat) → t.work.mem.read x = s.work.mem.read x))

/-- When the column shift of a pulse is complete the lines hold its row (0 for BULK) and its kind, PREQ rises, and its answer
deadline of 3 ticks (20 for BULK) is set; nothing else changes but the lines. CSD's level (log 29), and that a command with no
such pulse to issue changes nothing (log 8), are the model's choice. -/
def Obligations.IssueRaisesPreqAndSetsTheDeadline : Prop :=
  (∀ (s : State) (pulse : Pulse) (r : Row), s.awake → s.panel.driver.state = .firing →
    s.panel.driver.pulse = some pulse → pulse.row = some r → pulse.deadline = none →
    ∃ t, exec .pulseIssue s = .next t ∧ t = { s with panel := { s.panel with driver := { s.panel.driver with
        pulse := some { pulse with deadline := some 3 }
        rowLines := BitVec.ofNat 9 r.val
        shifted := pulse.selection
        csd := pulse.selection.getLsbD 511
        csck := t.panel.driver.csck } } } ∧
      t.panel.preq = true ∧ t.panel.pulseKindLines = pulse.kind.code) ∧
  (∀ (s : State) (pulse : Pulse), s.awake → s.panel.driver.state = .bulk →
    s.panel.driver.pulse = some pulse → pulse.deadline = none →
    ∃ t, exec .bulkIssue s = .next t ∧ t = { s with panel := { s.panel with driver := { s.panel.driver with
        pulse := some { pulse with deadline := some 20 }
        rowLines := 0
        shifted := pulse.selection
        csd := pulse.selection.getLsbD 511
        csck := t.panel.driver.csck } } } ∧
      t.panel.preq = true ∧ t.panel.pulseKindLines = pulse.kind.code) ∧
  (∀ s : State, s.awake → s.panel.driver.state ≠ .firing → exec .pulseIssue s = .next s) ∧
  (∀ s : State, s.awake → s.panel.driver.state ≠ .bulk → exec .bulkIssue s = .next s)

/-- PDONE of a row pulse: the selected cells take the pulse's value in P and lose their doubt, and the row goes to the tail
of the queue if it still differs; PDONE of BULK clears P, U and the bulk request and rebuilds the queue from the rows that
differ in ascending order; DRIVE_RESUME acts on a STALLED driver. In each case the driver becomes IDLE and makes its start
test. A PDONE while PREQ is low is ignored, and DRIVE_RESUME in another driver state has no effect. -/
def Obligations.PdoneAndDriveResumeFreeTheDriver : Prop :=
  ∀ s : State, s.awake →
    (∀ (pulse : Pulse) (r : Row) (k : Nat), s.panel.RowPulseIssued pulse r k →
      ∃ p : Panel,
        (∀ x y, p.panel.cell x y = if y = r ∧ pulse.selection.getLsbD x.val = true then decide (pulse.kind = .write)
          else s.panel.panel.cell x y) ∧
        (∀ x y, p.doubt.cell x y = if y = r ∧ pulse.selection.getLsbD x.val = true then false
          else s.panel.doubt.cell x y) ∧
        p = { s.panel with
          panel := p.panel, doubt := p.doubt
          driver := { s.panel.driver with state := .idle, pulse := none }
          queue := if p.differs r = true then s.panel.queue ++ [r] else s.panel.queue } ∧
        exec .rowPdone s = .next ((startTest (noteSettled { s with panel := p })).onWork settleLanes)) ∧
    (s.panel.NoPulseIssued → exec .rowPdone s = .next s) ∧
    (∀ (pulse : Pulse) (k : Nat), s.panel.BulkPulseIssued pulse k →
      ∃ p : Panel, (∀ x y, p.panel.cell x y = false ∧ p.doubt.cell x y = false) ∧
        p = { s.panel with
          panel := p.panel, doubt := p.doubt, bulkRequest := false, queue := p.differingRows
          driver := { s.panel.driver with state := .idle, pulse := none } } ∧
        exec .bulkPdone s = .next ((startTest (noteSettled { s with panel := p })).onWork settleLanes)) ∧
    (s.panel.NoPulseIssued → exec .bulkPdone s = .next s) ∧
    (s.panel.driver.state = .stalled → exec .driveResume s = .next ((startTest
      { s with panel := { s.panel with driver := { s.panel.driver with state := .idle } } }).onWork settleLanes)) ∧
    (s.panel.driver.state ≠ .stalled → exec .driveResume s = .next (s.onWork settleLanes))


/-- PFAULT and the expiry of the answer deadline doubt the selected cells of a row pulse and put the row at the tail, or doubt
every cell after BULK and rebuild the queue with every row; P is unchanged, the driver becomes STALLED, the drive fault record
is written if its kind word reads 0, and DRIVE_FAULT is set. PULSE_TIMEOUT and BULK_TIMEOUT are the whole tick at which the
deadline expires, which the driver takes before the other blocks (the order is the model's choice, log 12); where the next
tick does not bring it they change nothing (the model's choice, log 8), and such a tick takes one from the deadline. A PFAULT
while PREQ is low is ignored. A failed read of the kind word or write of a word of the record leaves the record as far as it
was written: its words before the kind word are row, kind of pulse, count and stamp, an order that is the model's choice (log
19), and those after a failed one are not written (the model's deduction, log 22). The failure is reported for unit ENGINE,
and DRIVE_FAULT is set all the same. -/
def Obligations.FaultOrTimeoutDoubtsAndStalls : Prop :=
  ∀ s : State, s.awake → s.work.quiet →
    let others := finishTick s [.clock, .lanes, .markers, .supply, .hold]
    let counted (k : Nat) := s.onPanel fun p => { p with driver := { p.driver with
      pulse := p.driver.pulse.map fun pulse => { pulse with deadline := some (k - 1) } } }
    (∀ (pulse : Pulse) (r : Row) (k : Nat), s.panel.RowPulseIssued pulse r k →
      ∃ p : Panel,
        (∀ x y, p.doubt.cell x y = ((decide (y = r) && pulse.selection.getLsbD x.val) || s.panel.doubt.cell x y)) ∧
        p = { s.panel with
          doubt := p.doubt, queue := s.panel.queue ++ [r], settled := false
          driver := { s.panel.driver with state := .stalled, pulse := none } } ∧
        exec .pfault s = .next { s with panel := p, work := settleLanes (s.work.driveFaultNoted 1 r.val pulse) } ∧
        (k ≤ 1 → exec .pulseTimeout s = .next
          (others { s with panel := p, work := s.work.driveFaultNoted 2 r.val pulse })) ∧
        (2 ≤ k → exec .pulseTimeout s = .next s ∧ takeTick .driver s = counted k) ∧
        exec .bulkTimeout s = .next s ∧
        ∀ (i : Nat) (answer : BusAnswer) (v : Work),
          let failing := s.onWork (Work.withFailure i answer)
          (s.work.DriveFaultCut i answer 1 r.val pulse v →
            exec .pfault failing = .next { s with panel := p, work := settleLanes v }) ∧
          (s.work.DriveFaultCut i answer 2 r.val pulse v → k ≤ 1 → exec .pulseTimeout failing = .next
            (finishTick failing [.clock, .lanes, .markers, .supply, .hold] { s with panel := p, work := v }))) ∧
    (∀ (pulse : Pulse) (k : Nat), s.panel.BulkPulseIssued pulse k →
      ∃ p : Panel, (∀ x y, p.doubt.cell x y = true) ∧
        p = { s.panel with
          doubt := p.doubt, bulkRequest := false, queue := List.finRange 512, settled := false
          driver := { s.panel.driver with state := .stalled, pulse := none } } ∧
        exec .pfault s = .next { s with panel := p, work := settleLanes (s.work.driveFaultNoted 3 0 pulse) } ∧
        (k ≤ 1 → exec .bulkTimeout s = .next
          (others { s with panel := p, work := s.work.driveFaultNoted 4 0 pulse })) ∧
        (2 ≤ k → exec .bulkTimeout s = .next s ∧ takeTick .driver s = counted k) ∧
        exec .pulseTimeout s = .next s ∧
        ∀ (i : Nat) (answer : BusAnswer) (v : Work),
          let failing := s.onWork (Work.withFailure i answer)
          (s.work.DriveFaultCut i answer 3 0 pulse v →
            exec .pfault failing = .next { s with panel := p, work := settleLanes v }) ∧
          (s.work.DriveFaultCut i answer 4 0 pulse v → k ≤ 1 → exec .bulkTimeout failing = .next
            (finishTick failing [.clock, .lanes, .markers, .supply, .hold] { s with panel := p, work := v }))) ∧
    (s.panel.NoPulseIssued →
      exec .pfault s = .next s ∧ exec .pulseTimeout s = .next s ∧ exec .bulkTimeout s = .next s ∧ takeTick .driver s = s)


/-! ## The supply and the markers -/

/-- PANEL_ON 1 starts a ramp from OFF, its count at 0 and SUPEN asserted, and has no effect in another state; PANEL_ON 0 takes
the supply from RAMPING, READY or FAILED to OFF, which clears the panel knowledge (the lines of a column shift stopped with an
abandoned pulse are as before it, the model's choice, log 32); it reads back as written, and a DRIVE_RESUME after it takes a
STALLED driver to IDLE and starts no pulse, as it does in one CONTROL write, whose order of commands is the model's choice
(log 14); after a CLEAR the supply is OFF and PANEL_ON is 0. -/
def Obligations.PanelOnStartsARampOrEndsTheSupply : Prop :=
  ∀ s : State, s.awake →
    let s1 := s.onWork fun w => { w with port := { w.port with panelOn := true } }
    let s0 := s.onWork fun w => { w with port := { w.port with panelOn := false } }
    (s.panel.supply.state = .off → exec (.panelOn true) s = .next (s1.onPanel fun p =>
      { p with supply := { p.supply with state := .ramping, ramp := 0 } })) ∧
    (s.panel.supply.state ≠ .off → exec (.panelOn true) s = .next s1) ∧
    (s.panel.supply.state = .off → exec (.panelOn false) s = .next s0) ∧
    (s.panel.supply.state ≠ .off →
      ∃ p : Panel, p.EntersDark s.panel .off ∧
        exec (.panelOn false) s = .next ((noteSettled { s0 with panel := p }).onWork settleLanes)) ∧
    (∀ t, s.panel.supply.state = .off → exec (.panelOn true) s = .next t → t.panel.supen = true) ∧
    (∀ (value : Bool) (t : State), exec (.panelOn value) s = .next t → (t.portRead 1).getLsbD 1 = value) ∧
    (s.panel.Sound → s.panel.driver.state = .stalled → ∀ t u, exec (.panelOn false) s = .next t →
      exec .driveResume t = .next u →
      u.panel.supply.state = .off ∧ u.panel.driver.state = .idle ∧ u.panel.driver.pulse = none) ∧
    (∀ t, exec .clear s = .next t → t.panel.supply.state = .off ∧ t.work.port.panelOn = false)

/-- A ramp ends READY at a tick from the 10th on that finds SUPOK high, or when SUPOK rises from the 10th tick on, and FAILED at
the 50th tick if SUPOK is low; a fall of SUPOK in READY makes the supply FAILED. READY sets SUPPLY, and its event ends with a
start test; FAILED sets SUPPLY and clears the panel knowledge (the lines of a stopped column shift:
the model's choice, log 32). Outside these cases a change of SUPOK only moves its level, and
a tick only counts a ramp. RAMP_READY and RAMP_FAILED are the whole tick that ends the ramp, which the supply monitor takes
before the other blocks (the order is the model's choice, log 12); where the next tick does not end it they change nothing
(the model's choice, log 8). -/
def Obligations.RampAndSupokDecideTheSupply : Prop :=
  ∀ s : State, s.awake →
    let others := finishTick s [.clock, .lanes, .markers, .driver, .hold]
    let ready := ({ s with panel := { s.panel with supply := { state := .ready, ramp := 0, supok := true } } } : State).onWork
      (setCause .supply)
    let comes := s.panel.supply.state = .ramping ∧ 10 ≤ s.panel.supply.ramp + 1 ∧ s.panel.supply.supok = true
    let ends := s.panel.supply.state = .ramping ∧ 50 ≤ s.panel.supply.ramp + 1 ∧ s.panel.supply.supok = false
    let acts := s.panel.supply.state = .ramping ∧ 10 ≤ s.panel.supply.ramp
    let high := s.onPanel fun p => { p with supply := { p.supply with supok := true } }
    let low := s.onPanel fun p => { p with supply := { p.supply with supok := false } }
    (comes → exec .rampReady s = .next (others ready)) ∧
    (¬comes → exec .rampReady s = .next s) ∧
    (ends → ∃ p : Panel, p.EntersDark s.panel .failed ∧ exec .rampFailed s = .next
      (others ((noteSettled { s with panel := p }).onWork (setCause .supply)))) ∧
    (¬ends → exec .rampFailed s = .next s) ∧
    (¬comes → ¬ends → takeTick .supply s = s.onPanel fun p => { p with supply := { p.supply with
      ramp := if p.supply.state = .ramping then p.supply.ramp + 1 else p.supply.ramp } }) ∧
    (acts → exec .supokRise s = .next ((startTest ready).onWork settleLanes)) ∧
    (¬acts → exec .supokRise s = .next high) ∧
    (s.panel.supply.state = .ready → ∃ p : Panel, p.EntersDark low.panel .failed ∧ exec .supokFall s = .next
      (((noteSettled { s with panel := p }).onWork (setCause .supply)).onWork settleLanes)) ∧
    (s.panel.supply.state ≠ .ready → exec .supokFall s = .next low)

/-- At a counted tick the counter of an active marker advances, and where the on-state then follows anew the marker flips: the
CLEAN rows of its rectangle join in ascending order, marker 0's before marker 1's, and the plane store makes no start test
before the event's end. MARKER_FLIP is the whole tick at which its marker flips, which the marker unit takes before the other
blocks (the order is the model's choice, log 12); where the next tick flips it not, it changes nothing (the model's choice,
log 8). Where that tick's start test finds every row that joined stale, settled is entered (the model's choice, log 40). -/
def Obligations.MarkerFlipJoinsItsRows : Prop :=
  (∀ (m : Fin 2) (s : State), s.awake →
    let k := s.panel.markers[m.val]
    (s.work.port.engine = .running → k.active = true → k.on ≠ decide (k.nextCounter < k.onTime) →
      exec (.markerFlip m) s = .next (finishTick s [.clock, .lanes, .driver, .supply, .hold] (takeTick .markers s))) ∧
    (s.work.port.engine ≠ .running ∨ k.active = false ∨ k.on = decide (k.nextCounter < k.onTime) →
      exec (.markerFlip m) s = .next s) ∧
    (s.work.port.engine = .running →
      takeTick .markers s = noteSettled { s with panel := (s.panel.tickMarker 0).tickMarker 1 })) ∧
  (∀ (m : Fin 2) (p : Panel),
    let k := p.markers[m.val]
    (k.active = false → p.tickMarker m = p) ∧
    (k.active = true → k.on = decide (k.nextCounter < k.onTime) →
      p.tickMarker m = { p with markers := p.markers.set m.val { k with counter := k.nextCounter } }) ∧
    (k.active = true → k.on ≠ decide (k.nextCounter < k.onTime) → k.Legal →
      (∀ r, p.rowState r = .clean → p.differs r = false) →
      p.tickMarker m = { p with
        markers := p.markers.set m.val { k with counter := k.nextCounter, on := !k.on }
        queue := p.queue ++ allRows.filter fun r =>
          decide (k.y ≤ r.val) && decide (r.val < k.y + k.h) && decide (p.rowState r = .clean) }))
/-! ## The line receiver -/

/-- LINE_ON 1 takes an OFF line to HUNT while the engine is RUNNING and has no other effect; LINE_ON 0 makes the line OFF,
frees the FILLING slot of an open frame without a loss and clears the break flag, and has no effect on a line that is OFF. -/
def Obligations.LineOnStartsAndStopsTheLine : Prop :=
  ∀ s : State, s.awake → s.work.quiet →
    let w1 : Work := { s.work with port := { s.work.port with lineOn := true } }
    let w0 : Work := { s.work with port := { s.work.port with lineOn := false } }
    let off (w : Work) : Work := { w with line :=
      { w.line with state := .off, frame := none, breakFlag := false, octetBits := [], buffer := [] } }.statusWritten
    (s.work.line.state = .off → s.work.port.engine = .running → exec (.lineOn true) s = .next (s.onWork fun _ =>
      { w1 with line := { w1.line with
        state := .hunt, flagSeen := false, reference := none, window := [], ones := 0, zeros := 0
        octetBits := [] } }.statusWritten)) ∧
    (s.work.line.state ≠ .off ∨ s.work.port.engine ≠ .running →
      exec (.lineOn true) s = .next (s.onWork fun _ => w1)) ∧
    (s.work.line.state = .off → exec (.lineOn false) s = .next (s.onWork fun _ => w0)) ∧
    (∀ f k, s.work.line.state = .frame → s.work.line.frame = some f → f.slot = some k →
      exec (.lineOn false) s = .next (s.onWork fun _ => off (w0.slotChanged k .free))) ∧
    (s.work.line.state ≠ .off → (∀ f k, s.work.line.frame = some f → f.slot ≠ some k) →
      exec (.lineOn false) s = .next (s.onWork fun _ => off w0)) ∧
    (s.work.line.state = .off → lineOff s.work = s.work) ∧
    (∀ f k, s.work.line.state = .frame → s.work.line.frame = some f → f.slot = some k →
      lineOff s.work = off (s.work.slotChanged k .free)) ∧
    (s.work.line.state ≠ .off → (∀ f k, s.work.line.frame = some f → f.slot ≠ some k) → lineOff s.work = off s.work)

/-- An edge of LCLK forms one decoded bit: NRZ takes the level, NRZI compares it with the reference level, which it then
becomes, and its first sample only sets the reference. The bits that waited are passed on first. While the receiver is busy
the bit waits, and is lost when 64 wait. An OFF line ignores the edge. The oldest bit of a full window leaves it: a flag's
final 0 is dropped, and so is every bit while no frame is open and no flag has been seen; a 0 after five 1 bits is removed;
another is data, and the eighth data bit completes an octet with the first bit at its low end, which opens a frame in HUNT
and is an octet of the frame in FRAME. A bit that begins or ends no break and completes no flag or abort is counted in HUNT,
lets the oldest bit leave the window, enters it, and does nothing else. -/
def Obligations.EdgeFormsABitThatPassesTheWindow : Prop :=
  (∀ (s : State) (ldat : Bool), s.awake →
    (s.work.line.state = .off → ∀ busy, exec (.lclkRisingEdge ldat busy) s = .next s) ∧
    (∀ t, s.work.line.state ≠ .off → s.work.line.settings = some t →
      let waiting := s.work.line.buffer
      let add (bits : List Bool) := if waiting.length < 64 then waiting ++ bits else waiting
      (t.nrzi = false →
        exec (.lclkRisingEdge ldat false) s = .next (s.onWork fun w =>
          (takeBits (waiting ++ [ldat]) { w with line := { w.line with buffer := [] } }).1) ∧
        exec (.lclkRisingEdge ldat true) s = .next (s.onWork fun w =>
          { w with line := { w.line with buffer := add [ldat] } })) ∧
      (t.nrzi = true → ∀ r, s.work.line.reference = some r →
        exec (.lclkRisingEdge ldat false) s = .next (s.onWork fun w =>
          (takeBits (waiting ++ [decide (r = ldat)])
            { w with line := { w.line with buffer := [], reference := some ldat } }).1) ∧
        exec (.lclkRisingEdge ldat true) s = .next (s.onWork fun w =>
          { w with line := { w.line with buffer := add [decide (r = ldat)], reference := some ldat } })) ∧
      (t.nrzi = true → s.work.line.reference = none →
        exec (.lclkRisingEdge ldat false) s = .next (s.onWork fun w =>
          (takeBits waiting { w with line := { w.line with buffer := [], reference := some ldat } }).1) ∧
        exec (.lclkRisingEdge ldat true) s = .next (s.onWork fun w =>
          { w with line := { w.line with reference := some ldat } }))) ∧
    (∀ (b : Bool) (rest : List Bool) (w : Work), (takeBits (b :: rest) w).1 = (takeBits rest (takeBit b w).1).1) ∧
    (∀ w : Work, (takeBits [] w).1 = w)) ∧
  (∀ (w : Work) (oldest : WindowBit) (rest : List WindowBit),
    (w.line.window.length < 8 → (leaveWindow w).1 = w) ∧
    (w.line.window = oldest :: rest → rest.length = 7 →
      let w1 : Work := { w with line := { w.line with window := rest } }
      let listens := w.line.state = .frame ∨ (w.line.state = .hunt ∧ w.line.flagSeen = true)
      (oldest.flagEnd = true ∨ ¬listens → (leaveWindow w).1 = w1) ∧
      (oldest.flagEnd = false → listens →
        (oldest.bit = false → w.line.ones = 5 → (leaveWindow w).1 = { w1 with line := { w1.line with ones := 0 } }) ∧
        (¬(oldest.bit = false ∧ w.line.ones = 5) →
          let w2 (octetBits : List Bool) : Work := { w1 with line := { w1.line with
            ones := if oldest.bit then w.line.ones + 1 else 0
            octetBits := octetBits
            frame := w.line.frame.map fun f => { f with bits := f.bits + 1 } } }
          (w.line.octetBits.length < 7 → (leaveWindow w).1 = w2 (w.line.octetBits ++ [oldest.bit])) ∧
          (∀ o : Byte, w.line.octetBits.length = 7 →
            (∀ i : Fin 8, o.getLsbD i.val = (w.line.octetBits ++ [oldest.bit]).getD i.val false) →
            (w.line.state = .frame → (leaveWindow w).1 = takeFrameOctet o (w2 [])) ∧
            (w.line.state = .hunt → (leaveWindow w).1 = openFrame o (w2 [])))))) ∧
  (∀ (b : Bool) (w : Work),
    let w1 := (leaveWindow (if w.line.state = .hunt then { w with line := w.line.countZero b } else w)).1
    let entered := w1.line.withBit b
    (w.line.state = .hunt → b = true ∨ w.line.zeros ≠ 31) → (w.line.state = .inBreak → b = false) →
    entered.windowBits ≠ [false, true, true, true, true, true, true, false] →
    (∀ old : List Bool, entered.windowBits ≠ old ++ [true, true, true, true, true, true, true]) →
    (takeBit b w).1 = settleLanes { w1 with line := entered }))


/-- In HUNT a flag sets flag-seen and an abort with flag-seen set clears it; both drop the data bits taken, and a flag
leaves its final 0 marked in the window. Nothing is reported. -/
def Obligations.FlagAndAbortInHunt : Prop :=
  ∀ (s : State) (ldat b : Bool) (l : LineReceiver) (old : List Bool), s.awake → s.work.EdgeForms ldat b l →
    s.work.line.state = .hunt →
    let w1 := (leaveWindow { s.work with line := l.countZero b }).1
    (b = false → s.work.line.zeros < 31 → w1.line.state = .hunt →
      w1.line.windowBits = [false, true, true, true, true, true, true] →
      exec (.huntFlag ldat) s = .next (s.onWork fun _ => settleLanes { w1 with line := { w1.line with
        flagSeen := true, window := [{ bit := false, flagEnd := true }], ones := 0, octetBits := [] } })) ∧
    (b = true → w1.line.state = .hunt → w1.line.flagSeen = true →
      w1.line.windowBits = old ++ [true, true, true, true, true, true] →
      exec (.huntAbort ldat) s = .next (s.onWork fun _ => settleLanes { w1 with line := { w1.line with
        flagSeen := false, window := [], ones := 0, octetBits := [] } }))

/-- The first octet after a flag opens a frame in the lowest FREE slot, which becomes FILLING, or, with no slot FREE, a frame
that is skipped and counted as a loss for FULL; a further octet goes through the frame, with an event row of its own. An
octet of an open frame enters the delay of 2 or 4 octets; the octet that leaves it is a head octet, the first of a payload
pair, or the second, which writes the payload word; an octet that no longer fits sets the long mark. A skipped frame only
counts its octets. A failed write of the opened slot's state word or of a payload word loses the frame for MEMORY: the slot is
given back, and the rest of the frame is skipped. That the slot's state word is written before the line status record at an open
is the model's choice (log 21), and so is that the engine's choice comes after these writes (log 38). -/
def Obligations.OctetsOpenAndFillAFrame : Prop :=
  (∀ (s : State) (ldat b d : Bool) (o : Byte) (l : LineReceiver) (rest : List WindowBit), s.awake →
    s.work.EdgeForms ldat b l → s.work.line.window = { bit := d, flagEnd := false } :: rest → rest.length = 7 →
    ¬(d = false ∧ s.work.line.ones = 5) → s.work.line.octetBits.length = 7 →
    (∀ i : Fin 8, o.getLsbD i.val = (s.work.line.octetBits ++ [d]).getD i.val false) →
    ((l.withBit b).windowBits.drop 1 ≠ [false, true, true, true, true, true, true, false]) →
    ((l.withBit b).windowBits.drop 2 ≠ [true, true, true, true, true, true, true]) →
    let taken (l : LineReceiver) : LineReceiver := { l with
      window := rest, ones := if d then l.ones + 1 else 0, octetBits := []
      frame := l.frame.map fun f => { f with bits := f.bits + 1 } }
    (s.work.line.state = .hunt → s.work.line.flagSeen = true → (b = true ∨ s.work.line.zeros < 31) →
      exec (.frameOpen ldat) s = .next (s.onWork fun w =>
        let opened := openFrame o { w with line := taken (l.countZero b) }
        settleLanes { opened with line := opened.line.withBit b })) ∧
    (s.work.line.state = .frame →
      exec (.frameOctet ldat) s = .next (s.onWork fun w =>
        let filled := takeFrameOctet o { w with line := taken l }
        settleLanes { filled with line := filled.line.withBit b }))) ∧
  (∀ (w : Work) (o : Byte) (sp : Spool), w.quiet → w.line.spool = some sp → w.line.frame = none →
    let octets := w.crcOctets
    let opened (slot : Option SlotNo) : Frame :=
      { slot := slot, head := [], delay := [], stored := 0, half := none, octets := 0, bits := 8, long := false
        crc := if octets = 4 then 0xFFFFFFFF else 0xFFFF }
    let w1 (slot : Option SlotNo) : Work := { w with line := { w.line with state := .frame, frame := some (opened slot) } }
    (∀ k : SlotNo, k.val < sp.count → w.slotOf k = .free → (∀ j, j < k → w.slotOf j ≠ .free) →
      openFrame o w = takeFrameOctet o ((w1 (some k)).slotChanged k .filling).statusWritten ∧
      ∀ kept : Bool, openFrame o (w.withFailure 0 (.noAnswer kept)) = takeFrameOctet o
        ((((w1 (some k)).setSlot k .filling).cutShort 0 kept 2 8 [(w.slotAddress k, 1)]).frameLost k .memory).statusWritten) ∧
    ((∀ k : SlotNo, k.val < sp.count → w.slotOf k ≠ .free) →
      openFrame o w = takeFrameOctet o ((w1 none).lossReported .full).statusWritten)) ∧
  (∀ (w : Work) (f : Frame) (o : Byte), w.quiet → w.line.frame = some f →
    let n := w.crcOctets
    let counted := { f with octets := min 65535 (f.octets + 1) }
    let framed (g : Frame) : Work := { w with line := { w.line with frame := some g } }
    (f.slot = none → takeFrameOctet o w = framed counted) ∧
    (∀ k : SlotNo, f.slot = some k → 0 < n →
      (f.delay.length < n → takeFrameOctet o w = framed { counted with delay := f.delay ++ [o] }) ∧
      (∀ (first : Byte) (rest : List Byte), f.delay = first :: rest → n ≤ f.delay.length →
        let moved := { counted with delay := rest ++ [o] }
        (f.long = true → takeFrameOctet o w = framed moved) ∧
        (f.long = false → f.head.length < 3 →
          takeFrameOctet o w = framed { moved with head := f.head ++ [first], crc := crcOctet n f.crc first }) ∧
        (f.long = false → 3 ≤ f.head.length → w.payloadRoom ≤ f.stored →
          takeFrameOctet o w = framed { moved with long := true }) ∧
        (f.long = false → 3 ≤ f.head.length → f.stored < w.payloadRoom →
          let stored := { moved with stored := f.stored + 1, crc := crcOctet n f.crc first }
          (f.half = none → takeFrameOctet o w = framed { stored with half := some first }) ∧
          (∀ upper, f.half = some upper →
            let word := (addressPlus (w.slotAddress k) (16 + 2 * (f.stored / 2)), upper ++ first)
            takeFrameOctet o w = storeWord word.1 word.2 (framed { stored with half := none }) ∧
            ∀ kept : Bool, takeFrameOctet o (w.withFailure 0 (.noAnswer kept)) =
              ((framed { stored with half := none }).cutShort 0 kept 2 8 [word]).frameLost k .memory)))) ∧
    (∀ (reg : BitVec 32), crcOctet n reg o = (List.range 8).foldl (fun (r : BitVec 32) i =>
      if (o.getLsbD i != r.getLsbD 0) = true then (r >>> 1) ^^^ (if n = 4 then 0xEDB88320 else 0x8408) else r >>> 1) reg))


/-- An abort in FRAME discards the frame that holds a slot for ABORT, and ends a skipped one without a further loss; the line
is then HUNT with flag-seen clear and its record is written. That the engine's choice comes after these writes is the model's
choice (log 38). -/
def Obligations.AbortInFrameDiscardsIt : Prop :=
  ∀ (s : State) (ldat : Bool) (l : LineReceiver) (f : Frame) (old : List Bool), s.awake → s.work.EdgeForms ldat true l →
    s.work.line.state = .frame →
    let w1 := (leaveWindow { s.work with line := l }).1
    let w2 : Work := { w1 with line := { w1.line with window := [], ones := 0 } }
    w1.line.windowBits = old ++ [true, true, true, true, true, true] → w1.line.frame = some f →
    (∀ k : SlotNo, f.slot = some k →
      exec (.frameAbort ldat) s = .next (s.onWork fun _ =>
        settleLanes (((w2.slotChanged k .free).lossReported .abort).frameEnded false))) ∧
    (f.slot = none → exec (.frameAbort ldat) s = .next (s.onWork fun _ => settleLanes (w2.frameEnded false)))

/-- A closing flag ends the frame: a skipped one without checks, and one that holds a slot after the checks ALIGN, SHORT, LONG
and CRC in this order, the sequence check, FORMAT and the address filter; the line is then HUNT with flag-seen set. A failed
write of a payload or header word at an acceptance loses the frame for MEMORY; a slot's state word and the line status record
are written as far as they go, and not again, so that the words of the record after a failed one are not written (the model's
deduction, log 22); a loss whose first-loss word cannot be read or written is counted and reported all the same. That the
engine's choice comes after every one of these writes is the model's choice (log 38), and so is the place of the line status
records among them (log 21). -/
def Obligations.ClosingFlagMakesTheChecks : Prop :=
  (∀ (s : State) (ldat : Bool) (l : LineReceiver) (f : Frame), s.awake → s.work.EdgeForms ldat false l →
    s.work.line.state = .frame →
    let w1 := (leaveWindow { s.work with line := l }).1
    let w2 : Work := { w1 with line := { w1.line with window := [{ bit := false, flagEnd := true }], ones := 0 } }
    let n := w2.crcOctets
    let delayed := f.delay.foldr (fun o (v : BitVec 32) => (v <<< 8) ||| o.setWidth 32) 0
    let crcOk := (f.crc ^^^ (if n = 4 then 0xFFFFFFFF else 0xFFFF)) = delayed
    let payload := f.octets - 3 - n
    let loses (w : Work) (k : SlotNo) (reason : LossReason) := exec (.frameClose ldat) s = .next (s.onWork fun _ =>
      settleLanes (((w.slotChanged k .free).lossReported reason).frameEnded true))
    let kind := f.head.getD 1 0
    let address := f.head.getD 0 0
    let w3 := w2.sequenced (f.head.getD 2 0)
    let forUs := address = w2.port.station ∨ address = 0xFF ∨
      ∃ t g, w2.line.settings = some t ∧ g ∈ t.groups ∧ g.enabled = true ∧ g.code = address
    w1.line.windowBits = [false, true, true, true, true, true, true] → w1.line.frame = some f →
    (f.slot = none → exec (.frameClose ldat) s = .next (s.onWork fun _ => settleLanes (w2.frameEnded true))) ∧
    (∀ k : SlotNo, f.slot = some k →
      (f.bits.toNat % 8 ≠ 0 → loses w2 k .align) ∧
      (f.bits.toNat % 8 = 0 → f.octets < 3 + n → loses w2 k .short) ∧
      (f.bits.toNat % 8 = 0 → 3 + n ≤ f.octets → f.long = true → loses w2 k .long) ∧
      (f.bits.toNat % 8 = 0 → 3 + n ≤ f.octets → f.long = false → ¬crcOk → loses w2 k .crc) ∧
      (f.bits.toNat % 8 = 0 → 3 + n ≤ f.octets → f.long = false → crcOk →
        ((kind ≠ 1 ∧ kind ≠ 2 ∧ kind ≠ 3) ∨ (kind = 1 ∧ payload % 2 = 1) → loses w3 k .format) ∧
        (kind = 2 ∨ kind = 3 ∨ (kind = 1 ∧ payload % 2 = 0) → ¬forUs → exec (.frameClose ldat) s = .next (s.onWork fun _ =>
          settleLanes ((w3.slotChanged k .free).frameEnded true))) ∧
        (kind = 2 ∨ kind = 3 ∨ (kind = 1 ∧ payload % 2 = 0) → forUs →
          (∀ fk : FrameKind, frameKind kind = some fk → exec (.frameClose ldat) s = .next (s.onWork fun _ =>
            settleLanes ((acceptFrame fk k f w3).frameEnded true))) ∧
          let stored := w3.headerStored k f payload
          let counted : Work := { stored with line := { stored.line with
            accepted := stored.line.accepted + 1, lastArrival := stored.time.clock.extractLsb' 0 16 } }
          let ends (w : Work) := exec (.frameClose ldat) s = .next (s.onWork fun _ =>
            settleLanes (w.statusWritten.frameEnded true))
          let listed : Work := { counted.slotChanged k .queued with line :=
            { (counted.slotChanged k .queued).line with
              pendingSlots := counted.line.pendingSlots ++ [{ slot := k, octets := payload }] } }
          (kind = 2 → ends (setCause .linePass (counted.slotChanged k .passed))) ∧
          (kind = 3 → ends ((purgeLane3 counted).slotChanged k .free)) ∧
          (kind = 1 → (counted.laneOf 3).state ≠ .idle → ends listed) ∧
          (kind = 1 → (counted.laneOf 3).state = .idle → counted.activeLane ≠ some 3 → counted.line.pendingSlots = [] →
            ends ((listed.modLane 3 fun l => { l with
              state := .ready
              current := counted.slotAddress k
              cancelRequested := false
              progress :=
                { bodyLength := payload / 2, signal := false, stop := false, fresh := false, ordinal := 0, nextWord := 0
                  inHand := none, pointOwed := false, cells := 0, waitCount := 0, limit := none } }).recorded 3)))))) ∧
  (∀ (w : Work) (k : SlotNo) (kept : Bool), w.quiet →
    (∀ (f : Frame) (fk : FrameKind) (j : Nat), j < (w.headWords k f (f.octets - 3 - w.crcOctets)).length →
      acceptFrame fk k f (w.withFailure j (.noAnswer kept)) =
        ((w.cutShort j kept 2 8 (w.headWords k f (f.octets - 3 - w.crcOctets))).slotChanged k .free).lossReported .memory) ∧
    (∀ st : SlotState, changeSlot k st w = w.slotChanged k st ∧
      changeSlot k st (w.withFailure 0 (.noAnswer kept)) =
        (w.setSlot k st).cutShort 0 kept 2 8 [(w.slotAddress k, st.code)]) ∧
    (writeLineStatus w = w.statusWritten ∧
      ∀ j, j < 8 → writeLineStatus (w.withFailure j (.noAnswer kept)) = w.cutShort j kept 2 8 w.lineStatusWords) ∧
    (∀ reason : LossReason,
      let counted : Work := { w with line := { w.line with losses := min 65535 (w.line.losses + 1) } }
      reportLoss reason w = w.lossReported reason ∧
      (∀ (answer : BusAnswer) (kind : Word), answer.FailsRead kind → reportLoss reason (w.withFailure 0 answer) =
        setCause .lineLoss (counted.failureNoted kind 2 8 (w.exchange 0x4A)).statusWritten) ∧
      (w.mem.readWord (w.exchange 0x4A) = 0 → reportLoss reason (w.withFailure 1 (.noAnswer kept)) =
        setCause .lineLoss (counted.cutShort 0 kept 2 8 [(w.exchange 0x4A, reason.code)]).statusWritten)))

/-- The 32nd decoded 0 bit in HUNT makes the line BREAK, writes the line status record and sets LINE_BREAK, and with the
action PURGE purges lane 3 and makes the expected sequence NONE; the first 1 bit in BREAK makes the line HUNT with flag-seen
clear and the window emptied, which that bit then enters (log 27), and sets LINE_BREAK again. That the engine's choice comes
after the line status records of a purge is the model's choice (log 38). -/
def Obligations.BreakBeginsAndEnds : Prop :=
  ∀ (s : State) (ldat : Bool) (l : LineReceiver) (t : LineSettings), s.awake → s.work.line.settings = some t →
    (s.work.EdgeForms ldat false l → s.work.line.state = .hunt → s.work.line.zeros = 31 →
      let broken := setCause .lineBreak ({ s.work with line :=
        { l with state := .inBreak, breakFlag := true, zeros := 32 } }).statusWritten
      let purged := ({ purgeLane3 broken with line := { (purgeLane3 broken).line with expected := none } } : Work).statusWritten
      let acted := if t.breakPurge then purged else broken
      let w1 := (leaveWindow acted).1
      (w1.line.withBit false).windowBits ≠ [false, true, true, true, true, true, true, false] →
      exec (.breakEntry ldat) s = .next (s.onWork fun _ => settleLanes { w1 with line := w1.line.withBit false })) ∧
    (s.work.EdgeForms ldat true l → s.work.line.state = .inBreak →
      let ended := setCause .lineBreak ({ s.work with line :=
        { l with state := .hunt, breakFlag := false, flagSeen := false, window := [], zeros := 0 } }).statusWritten
      exec (.breakEnd ldat) s = .next (s.onWork fun _ => settleLanes { ended with line := ended.line.withBit true })) ∧
    (∀ w : Work, w.quiet →
      (w.lane3NotBegun = true → w.activeLane ≠ some 3 →
        purgeLane3 w = (w.queuedFreed.modLane 3 (Lane.without .idle 0)).recorded 3) ∧
      (w.lane3NotBegun = false → (w.laneOf 3).state = .active →
        purgeLane3 w = { w.queuedFreed with line := { w.queuedFreed.line with purgeRequested := true } }) ∧
      (w.lane3NotBegun = false → (w.laneOf 3).state = .ready ∨ (w.laneOf 3).state = .waiting ∨ (w.laneOf 3).state = .draining →
        purgeLane3 w = retire 3 .purged w.queuedFreed) ∧
      (w.lane3NotBegun = false → (w.laneOf 3).state = .idle ∨ (w.laneOf 3).state = .faulted →
        purgeLane3 w = w.queuedFreed))

/-! ## The engine states -/

/-- RUN 1 in HALTED begins STARTING and RUN 0 in RUNNING begins STOPPING, which makes the line OFF; every other write only
keeps the value. -/
def Obligations.RunActsInHaltedAndRunning : Prop :=
  ∀ s : State, s.awake →
    let kept (value : Bool) (e : EngineState) : Work := { s.work with port := { s.work.port with run := value, engine := e } }
    (s.work.port.engine = .halted → exec (.run true) s = .next (s.onWork fun _ => kept true .starting)) ∧
    (s.work.port.engine = .running → exec (.run false) s = .next (s.onWork fun _ =>
      settleLanes (lineOff (kept false .stopping)))) ∧
    (s.work.port.engine ≠ .halted → exec (.run true) s = .next (s.onWork fun _ => kept true s.work.port.engine)) ∧
    (s.work.port.engine ≠ .running → exec (.run false) s = .next (s.onWork fun _ => kept false s.work.port.engine))

/-- The end of the settings read: RUN 0 abandons the start; a record that fails a check writes the header with its reason,
clears RUN, sets SETUP and puts nothing into force; a valid one puts its settings into force, keeps an unchanged spool and
resets one whose geometry is another or the first, writes the header and the line status record, and enters RUNNING, where the
pending postings act in ascending lane order and then the line (log 36), or HALTED if RUN was written 0 late (that write is an
operand: log 15). A spool reset retires lane 3's RUNNING slot CANCELLED, discards the old slots, makes lane 3 IDLE with its
record written unless it is FAULTED (log 28: as the rule has it, also where it was IDLE), writes 0 to every new slot's state
word and makes the expected sequence NONE. Outside STARTING the row changes nothing (the model's choice, log 8). -/
def Obligations.SettingsReadEndCompletesOrFailsTheStart : Prop :=
  ∀ (s : State) (late : Option Bool) (ws : List Word), s.awake → s.work.quiet → ws.length = 16 →
    (∀ i, (h : i < ws.length) → s.work.mem.readWord (s.work.exchange (0x20 + 2 * i)) = ws[i]) →
    let word (i : Nat) : Word := ws.getD i 0
    let low := address20 (word 1) (word 2)
    let high := address20 (word 3) (word 4)
    let sp : Spool := { base := address20 (word 5) (word 6), size := (word 8).toNat, count := (word 7).toNat }
    let header (reason : Word) (w : Work) : Work := storeWords
      [(w.exchange 0x00, 0x5120), (w.exchange 0x02, 1), (w.exchange 0x04, w.port.station.setWidth 16),
        (w.exchange 0x06, w.port.segment.setWidth 16), (w.exchange 0x08, w.port.startCause.code), (w.exchange 0x0A, 8),
        (w.exchange 0x0C, 2), (w.exchange 0x0E, 4), (w.exchange 0x10, 3), (w.exchange 0x12, 96), (w.exchange 0x14, 32),
        (w.exchange 0x16, 1024), (w.exchange 0x1E, reason)] w
    let fails (reason : Word) := exec (.settingsReadEnd late) s = .next (s.onWork fun w =>
      let w1 := setCause .setup (header reason w)
      { w1 with port := { w1.port with run := false, engine := .halted } })
    let budgetOk := (word 0).toNat ≤ 3
    let fenceOk := low.toNat % 2 = 0 ∧ high.toNat % 2 = 0 ∧ low.toNat < high.toNat
    let spoolOk := 2 ≤ sp.count ∧ sp.count ≤ 32 ∧ sp.size % 64 = 0 ∧ 64 ≤ sp.size ∧ sp.size ≤ 1024 ∧ sp.base.toNat % 64 = 0 ∧
      low.toNat ≤ sp.base.toNat ∧ sp.base.toNat + sp.count * sp.size ≤ high.toNat
    (s.work.port.engine ≠ .starting → exec (.settingsReadEnd late) s = .next s) ∧
    (s.work.port.engine = .starting → s.work.port.run = false → exec (.settingsReadEnd late) s = .next (s.onWork fun w =>
      { w with port := { w.port with engine := .halted } })) ∧
    (s.work.port.engine = .starting → s.work.port.run = true →
      (¬budgetOk → fails 1) ∧ (budgetOk → ¬fenceOk → fails 2) ∧ (budgetOk → fenceOk → ¬spoolOk → fails 3) ∧
      (budgetOk → fenceOk → spoolOk →
        let group (i : Nat) : GroupCode := { code := (word i).extractLsb' 0 8, enabled := (word i).getLsbD 15 }
        let inForce : LineSettings :=
          { nrzi := (word 9).getLsbD 0, crc32 := (word 9).getLsbD 1, breakPurge := (word 9).getLsbD 2
            groups := [group 10, group 11, group 12, group 13] }
        let w1 : Work := { s.work with
          port := { s.work.port with fence := some { low := low, high := high } }
          line := { s.work.line with settings := some inForce } }
        let budgeted : Panel := { s.panel with driver := { s.panel.driver with budget := 16 * 2 ^ (word 0).toNat } }
        let written := (header 0 (takeGeometry sp w1)).statusWritten
        let halted : Work := { written with port := { written.port with run := false, engine := .halted } }
        let acted := actOnAllPending { written with port := { written.port with run := true, engine := .running } }
        let running := settleLanes (if acted.port.lineOn then lineHunt acted else acted)
        (late = some false → exec (.settingsReadEnd late) s = .next { s with panel := budgeted, work := halted }) ∧
        (late ≠ some false → exec (.settingsReadEnd late) s = .next { s with panel := budgeted, work := running }))) ∧
    (∀ w : Work, w.line.spool = some sp → takeGeometry sp w = w) ∧
    (∀ w : Work, w.quiet → w.line.spool ≠ some sp → w.activeLane ≠ some 3 → spoolOk →
      takeGeometry sp w =
        let cancelled : Work := match w.line.pendingSlots with
          | p :: _ => if (w.laneOf 3).state.holdsBlock = true ∧ w.slotOf p.slot = SlotState.running then w.slotRetired .cancelled else w
          | [] => w
        let emptied : Work := { cancelled with line := { cancelled.line with
          slots := Vector.replicate 32 .free, pendingSlots := [], purgeRequested := false } }
        let idled := if (w.laneOf 3).state = .faulted then emptied
          else (emptied.modLane 3 (Lane.without .idle 0)).recorded 3
        let reset : Work := { idled with line := { idled.line with spool := some sp } }
        let cleared := storeWords ((List.range sp.count).map fun k => (addressPlus sp.base (k * sp.size), 0)) reset
        { cleared with line := { cleared.line with expected := none } }) ∧
    (∀ w : Work, actOnAllPending w = ([0, 1, 2, 4, 5, 6, 7] : List LaneNo).foldl (fun w n =>
      let w1 := if (w.laneOf n).nudgePending then nudgeLane n w else w
      let w2 := if (w1.laneOf n).resumePending then resumeLane n w1 else w1
      w2.modLane n fun l => { l with nudgePending := false, resumePending := false }) w)

/-- A settings read that ends with a failed word, whichever of the sixteen it is and whether by a parity error or by no answer,
reports the failure of unit ENGINE with no lane; with RUN 1 it fails the start with setup reason MEMORY, and with RUN 0 the
engine is HALTED. -/
def Obligations.FailedSettingsReadFailsTheStart : Prop :=
  ∀ (s : State) (i : Nat) (answer : BusAnswer) (kind : Word) (late : Option Bool), s.awake → s.MemoryCanonical → i < 16 →
    (answer = .parity ∧ kind = 1) ∨ ((∃ stored, answer = .noAnswer stored) ∧ kind = 2) →
    s.work.bus = List.replicate i { stores := [], answer := .completes } ++ [{ stores := [], answer := answer }] →
    s.work.port.engine = .starting →
    let w1 : Work := { s.work with bus := [] }
    let a := w1.exchange (0x20 + 2 * i)
    let noted : Work := if w1.mem.readWord (w1.exchange 0x70) = 0 then
        storeWords [(w1.exchange 0x74, a.extractLsb' 0 16), (w1.exchange 0x76, (a.extractLsb' 16 4).setWidth 16),
          (w1.exchange 0x72, 1), (w1.exchange 0x78, 8), (w1.exchange 0x7A, w1.time.clock.extractLsb' 0 16),
          (w1.exchange 0x70, kind)] w1
      else w1
    (s.work.port.run = true →
      ∃ t, exec (.settingsReadEnd late) s = .next t ∧ t.panel = s.panel ∧ t.work.port.engine = .halted ∧
        t.work.port.run = false ∧ t.work.hasCause .setup = true ∧ t.work.hasCause .memory = true ∧
        t.work.line = s.work.line ∧ t.work.lanes = s.work.lanes ∧ t.work.port.fence = s.work.port.fence ∧
        t.work.mem.readWord (s.work.exchange 0x1E) = 4 ∧
        (∀ x, (∀ k, k < 32 → x ≠ (s.work.exchange k).toNat) → t.work.mem.read x = noted.mem.read x)) ∧
    (s.work.port.run = false → exec (.settingsReadEnd late) s = .next (s.onWork fun _ =>
      { setCause .memory noted with port := { noted.port with engine := .halted } }))

/-! ## Invariants -/

/-- Every step keeps the canonical form of station memory: no entry holds what an octet that nothing has written reads as (00H,
the model's choice, log 3). -/
def Obligations.StepKeepsMemoryCanonical : Prop :=
  ∀ s t : State, s.MemoryCanonical → step s = .next t → t.MemoryCanonical

/-- Every step keeps the agreement of planes, queue, bulk request, settled flag, pulse and supply: among them that a CLEAN
row agrees with its target, that no row waits while the driver is IDLE with the supply READY, and that P and U are clear
unless the supply is READY; and from such a state that no lane waits in a DRAIN while the plane store is settled. -/
def Obligations.StepKeepsThePanelSound : Prop :=
  ∀ s t : State, s.panel.Sound → step s = .next t → t.panel.Sound ∧ (s.DrainsWait → t.DrainsWait)

/-- Every step keeps it that at most one lane is ACTIVE, that STATE names it, and that the engine is then RUNNING or
STOPPING. -/
def Obligations.StepKeepsOneActiveLane : Prop :=
  ∀ s t : State, s.work.OneActive → step s = .next t → t.work.OneActive

/-- Every step keeps it that the line is OFF unless LINE_ON is 1 and the engine is RUNNING, that the receiver's fields agree
with its state, and, while the ACTIVE lane is as STATE names it, that the slot states, the open frame, lane 3's pending list and
lane 3 agree: one FILLING slot at most, that of the open frame, one RUNNING slot at most, the first pending one, and the QUEUED
and RUNNING slots exactly the pending ones, each once. -/
def Obligations.StepKeepsTheLineSound : Prop :=
  ∀ s t : State, s.work.LineSound → step s = .next t →
    t.work.LineSound ∧ (s.work.OneActive → s.work.SpoolSound → t.work.SpoolSound)

/-- Every step keeps the lane contexts, the progress of the lanes, the records in hand of each kind, the wait counts and limits,
the markers, the budget, the answer deadline, the ramp count, the clock hold, the timebase, the spool, the frame in assembly and
the pending slots inside the ranges of their fields, and the on-state of an active marker at what its counter gives; the lanes
and the line must agree, which every step keeps. -/
def Obligations.StepKeepsFieldsInRange : Prop :=
  ∀ s t : State, s.work.OneActive → s.work.LineSound → s.InRange → step s = .next t → t.InRange

/-- The state after reset meets every invariant; the fields that are not in use at reset hold the model's values (log 11). -/
def Obligations.ResetMeetsEveryInvariant : Prop :=
  State.reset.MemoryCanonical ∧ State.reset.panel.Sound ∧ State.reset.DrainsWait ∧ State.reset.work.OneActive ∧ State.reset.work.LineSound ∧
    State.reset.work.SpoolSound ∧ State.reset.InRange

end
end

