-- ==== Sys2Proof/Laws/Memory.lean ====
section
/-! SUPPORT. Station memory: what a read finds after a write, and that every operation keeps the canonical form. -/

namespace Sys2Proof.Machine

/-! ## Octets -/

theorem Memory.read_nil (a : Nat) : Memory.read [] a = Config.unwrittenByte := rfl

theorem Memory.read_write_same (m : Memory) (a : Nat) (v : Byte)
    (rising : m.Pairwise (fun c d => c.1 < d.1)) : (m.write a v).read a = v := by
  induction m with
  | nil => by_cases h : v = Config.unwrittenByte <;> simp [Memory.write, Memory.read, h]
  | cons c rest ih =>
    obtain ⟨k, b⟩ := c
    have unlisted : ∀ l : Memory, (∀ d ∈ l, a < d.1) → Memory.read l a = Config.unwrittenByte := by
      intro l hl
      induction l with
      | nil => rfl
      | cons d l ihl =>
        have hd := hl d (by simp)
        simp only [Memory.read]
        rw [if_neg (by omega)]
        exact ihl fun e he => hl e (by simp [he])
    simp only [List.pairwise_cons] at rising
    simp only [Memory.write]
    split
    · split
      · rename_i hlt hv
        rw [hv, unlisted]
        intro d hd
        rcases List.mem_cons.1 hd with rfl | hd
        · exact hlt
        · exact lt_trans hlt (rising.1 d hd)
      · simp [Memory.read]
    · split
      · rename_i hk
        split
        · rename_i hv
          rw [hv, unlisted]
          intro d hd
          have : k < d.1 := rising.1 d hd
          omega
        · simp [Memory.read]
      · rename_i hlt hk
        simp only [Memory.read, if_neg hk]
        exact ih rising.2

theorem Memory.read_write_other (m : Memory) (a x : Nat) (v : Byte) (hx : x ≠ a) :
    (m.write a v).read x = m.read x := by
  induction m with
  | nil =>
    simp only [Memory.write]
    split
    · rfl
    · simp [Memory.read, Ne.symm hx]
  | cons c rest ih =>
    obtain ⟨k, b⟩ := c
    simp only [Memory.write]
    split
    · split
      · rfl
      · simp [Memory.read, Ne.symm hx]
    · split
      · rename_i hk
        subst hk
        split <;> simp [Memory.read, Ne.symm hx]
      · simp only [Memory.read]
        split
        · rfl
        · exact ih

/-- Every address listed after a write was listed before, or is the one written. -/
theorem Memory.mem_write (m : Memory) (a : Nat) (v : Byte) (d : Host.Cell) (hd : d ∈ m.write a v) :
    d ∈ m ∨ (d = (a, v) ∧ v ≠ Config.unwrittenByte) := by
  induction m with
  | nil =>
    simp only [Memory.write] at hd
    split at hd
    · exact absurd hd (by simp)
    · rename_i hv
      exact Or.inr ⟨by simpa using hd, hv⟩
  | cons c rest ih =>
    obtain ⟨k, b⟩ := c
    simp only [Memory.write] at hd
    split at hd
    · split at hd
      · exact Or.inl hd
      · rename_i hv
        rcases List.mem_cons.1 hd with h | h
        · exact Or.inr ⟨h, hv⟩
        · exact Or.inl h
    · split at hd
      · split at hd
        · exact Or.inl (List.mem_cons_of_mem _ hd)
        · rename_i hv
          rcases List.mem_cons.1 hd with h | h
          · exact Or.inr ⟨h, hv⟩
          · exact Or.inl (List.mem_cons_of_mem _ h)
      · rcases List.mem_cons.1 hd with h | h
        · exact Or.inl (h ▸ by simp)
        · rcases ih h with h' | h'
          · exact Or.inl (List.mem_cons_of_mem _ h')
          · exact Or.inr h'

/-- A write keeps the canonical form. -/
theorem Memory.wf_write (m : Memory) (a : Nat) (v : Byte) (ha : a < 2 ^ 20) (h : m.wf) : (m.write a v).wf := by
  refine ⟨?_, fun c hc => ?_⟩
  · have hp := h.1
    clear h
    induction m with
    | nil =>
      simp only [Memory.write]
      split <;> simp
    | cons c rest ih =>
      obtain ⟨k, b⟩ := c
      simp only [List.pairwise_cons] at hp
      simp only [Memory.write]
      split
      · rename_i hlt
        split
        · exact List.pairwise_cons.2 hp
        · refine List.pairwise_cons.2 ⟨?_, List.pairwise_cons.2 hp⟩
          intro d hd
          rcases List.mem_cons.1 hd with rfl | hd
          · exact hlt
          · exact lt_trans hlt (hp.1 d hd)
      · split
        · rename_i hk
          subst hk
          split
          · exact hp.2
          · exact List.pairwise_cons.2 ⟨hp.1, hp.2⟩
        · refine List.pairwise_cons.2 ⟨?_, ih hp.2⟩
          intro d hd
          rcases Memory.mem_write rest a v d hd with h | h
          · exact hp.1 d h
          · rw [h.1]
            simp only
            omega
  · rcases Memory.mem_write m a v c hc with h' | h'
    · exact h.2 c h'
    · rw [h'.1]
      exact ⟨h'.2, ha⟩

/-- A write keeps the rising order. -/
theorem Memory.rising_write (m : Memory) (a : Nat) (v : Byte) (ha : a < 2 ^ 20) (h : m.wf) :
    (m.write a v).Pairwise (fun c d => c.1 < d.1) := (Memory.wf_write m a v ha h).1

/-! ## Words -/

theorem wordAddress_lt (a : Addr) : wordAddress a + 1 < 2 ^ 20 := by
  have := a.isLt
  unfold wordAddress
  omega

/-- A word is its upper octet followed by its lower octet. -/
theorem upper_append_lower (v : Word) : v.extractLsb' 8 8 ++ v.extractLsb' 0 8 = v := by
  apply BitVec.eq_of_getLsbD_eq
  intro i hi
  rw [BitVec.getLsbD_append]
  split
  · simp [*]
  · simp only [BitVec.getLsbD_extractLsb']
    have e : 8 + (i - 8) = i := by omega
    simp only [e]
    simp only [Bool.and_eq_right_iff_imp, decide_eq_true_eq]
    omega

theorem Memory.wf_writeWord (m : Memory) (a : Addr) (v : Word) (h : m.wf) : (m.writeWord a v).wf := by
  have := wordAddress_lt a
  exact Memory.wf_write _ _ _ this (Memory.wf_write _ _ _ (by omega) h)

theorem Memory.wf_store (m : Memory) (stores : List (Addr × Byte)) (h : m.wf) : (m.store stores).wf := by
  induction stores generalizing m with
  | nil => exact h
  | cons c rest ih => exact ih _ (Memory.wf_write _ _ _ c.1.isLt h)

theorem Memory.readWord_writeWord_same (m : Memory) (a : Addr) (v : Word) (h : m.wf) :
    (m.writeWord a v).readWord a = v := by
  have hlt := wordAddress_lt a
  have h1 := Memory.wf_write m (wordAddress a) (v.extractLsb' 8 8) (by omega) h
  unfold Memory.readWord Memory.writeWord
  rw [Memory.read_write_same _ _ _ h1.1, Memory.read_write_other _ _ _ _ (by omega),
    Memory.read_write_same _ _ _ h.1]
  exact upper_append_lower v

theorem Memory.read_writeWord_other (m : Memory) (a : Addr) (v : Word) (x : Nat) (h0 : x ≠ wordAddress a)
    (h1 : x ≠ wordAddress a + 1) : (m.writeWord a v).read x = m.read x := by
  unfold Memory.writeWord
  rw [Memory.read_write_other _ _ _ _ h1, Memory.read_write_other _ _ _ _ h0]

theorem Memory.readWord_writeWord_other (m : Memory) (a b : Addr) (v : Word) (h : wordAddress b ≠ wordAddress a) :
    (m.writeWord a v).readWord b = m.readWord b := by
  have e1 : wordAddress b + 1 ≠ wordAddress a := by unfold wordAddress at *; omega
  have e2 : wordAddress b ≠ wordAddress a + 1 := by unfold wordAddress at *; omega
  unfold Memory.readWord
  rw [Memory.read_writeWord_other _ _ _ _ h e2, Memory.read_writeWord_other _ _ _ _ e1 (by omega)]

/-- An unwritten word reads as 0000H. -/
theorem Memory.readWord_nil (a : Addr) : Memory.readWord [] a = 0 := by
  simp [Memory.readWord, Memory.read, Config.unwrittenByte]

end Sys2Proof.Machine
end

