-- ==== Sys2Proof/Laws/State.lean ====
section
/-! SUPPORT. One lemma per field per update: what each update of the state leaves in each field. -/

namespace Sys2Proof.Machine

/-! ## Lanes and slots by number -/

/-- A lane that was set. -/
@[simp] theorem Work.laneOf_setLane_same (w : Work) (n : LaneNo) (l : Lane) : (w.setLane n l).laneOf n = l := by
  simp [Work.laneOf, Work.setLane]

/-- Another lane. -/
theorem Work.laneOf_setLane_other (w : Work) (n m : LaneNo) (l : Lane) (h : m ≠ n) :
    (w.setLane n l).laneOf m = w.laneOf m := by
  have h' : n.val ≠ m.val := fun e => h (Fin.ext e.symm)
  simp [Work.laneOf, Work.setLane, Vector.getElem_set_ne, h']

/-- A lane that was changed. -/
@[simp] theorem Work.laneOf_modLane_same (w : Work) (n : LaneNo) (f : Lane → Lane) :
    (w.modLane n f).laneOf n = f (w.laneOf n) := by
  simp [Work.modLane]

/-- Another lane. -/
theorem Work.laneOf_modLane_other (w : Work) (n m : LaneNo) (f : Lane → Lane) (h : m ≠ n) :
    (w.modLane n f).laneOf m = w.laneOf m := by
  simp [Work.modLane, Work.laneOf_setLane_other _ _ _ _ h]

/-- A slot that was set. -/
@[simp] theorem Work.slotOf_setSlot_same (w : Work) (k : SlotNo) (st : SlotState) : (w.setSlot k st).slotOf k = st := by
  simp [Work.slotOf, Work.setSlot]

/-- Another slot. -/
theorem Work.slotOf_setSlot_other (w : Work) (k j : SlotNo) (st : SlotState) (h : j ≠ k) :
    (w.setSlot k st).slotOf j = w.slotOf j := by
  have h' : k.val ≠ j.val := fun e => h (Fin.ext e.symm)
  simp [Work.slotOf, Work.setSlot, Vector.getElem_set_ne, h']

/-- Changing a lane twice. -/
theorem Work.modLane_modLane (w : Work) (n : LaneNo) (f g : Lane → Lane) :
    (w.modLane n f).modLane n g = w.modLane n (fun l => g (f l)) := by
  simp [Work.modLane, Work.setLane, Work.laneOf]

/-! ## The fields -/

/-! ### setCause -/
@[simp] theorem setCause_mem (c : Cause) (w : Work) : (setCause c w).mem = w.mem := rfl
@[simp] theorem setCause_bus (c : Cause) (w : Work) : (setCause c w).bus = w.bus := rfl
@[simp] theorem setCause_cause (c : Cause) (w : Work) : (setCause c w).cause = w.cause ||| c.mask := rfl
@[simp] theorem setCause_port (c : Cause) (w : Work) : (setCause c w).port = w.port := rfl
@[simp] theorem setCause_time (c : Cause) (w : Work) : (setCause c w).time = w.time := rfl
@[simp] theorem setCause_lanes (c : Cause) (w : Work) : (setCause c w).lanes = w.lanes := rfl
@[simp] theorem setCause_line (c : Cause) (w : Work) : (setCause c w).line = w.line := rfl
/-! ### storeWord -/
@[simp] theorem storeWord_mem (a : Addr) (v : Word) (w : Work) : (storeWord a v w).mem = w.mem.writeWord a v := rfl
@[simp] theorem storeWord_bus (a : Addr) (v : Word) (w : Work) : (storeWord a v w).bus = w.bus := rfl
@[simp] theorem storeWord_cause (a : Addr) (v : Word) (w : Work) : (storeWord a v w).cause = w.cause := rfl
@[simp] theorem storeWord_port (a : Addr) (v : Word) (w : Work) : (storeWord a v w).port = w.port := rfl
@[simp] theorem storeWord_time (a : Addr) (v : Word) (w : Work) : (storeWord a v w).time = w.time := rfl
@[simp] theorem storeWord_lanes (a : Addr) (v : Word) (w : Work) : (storeWord a v w).lanes = w.lanes := rfl
@[simp] theorem storeWord_line (a : Addr) (v : Word) (w : Work) : (storeWord a v w).line = w.line := rfl
/-! ### takeTurn -/
@[simp] theorem takeTurn_mem (t : BusTurn) (rest : List BusTurn) (w : Work) : (takeTurn t rest w).mem = w.mem.store t.stores := rfl
@[simp] theorem takeTurn_bus (t : BusTurn) (rest : List BusTurn) (w : Work) : (takeTurn t rest w).bus = rest := rfl
@[simp] theorem takeTurn_cause (t : BusTurn) (rest : List BusTurn) (w : Work) : (takeTurn t rest w).cause = w.cause := rfl
@[simp] theorem takeTurn_port (t : BusTurn) (rest : List BusTurn) (w : Work) : (takeTurn t rest w).port = w.port := rfl
@[simp] theorem takeTurn_time (t : BusTurn) (rest : List BusTurn) (w : Work) : (takeTurn t rest w).time = w.time := rfl
@[simp] theorem takeTurn_lanes (t : BusTurn) (rest : List BusTurn) (w : Work) : (takeTurn t rest w).lanes = w.lanes := rfl
@[simp] theorem takeTurn_line (t : BusTurn) (rest : List BusTurn) (w : Work) : (takeTurn t rest w).line = w.line := rfl
/-! ### Work.setLane -/
@[simp] theorem Work.setLane_mem (w : Work) (n : LaneNo) (l : Lane) : (w.setLane n l).mem = w.mem := rfl
@[simp] theorem Work.setLane_bus (w : Work) (n : LaneNo) (l : Lane) : (w.setLane n l).bus = w.bus := rfl
@[simp] theorem Work.setLane_cause (w : Work) (n : LaneNo) (l : Lane) : (w.setLane n l).cause = w.cause := rfl
@[simp] theorem Work.setLane_port (w : Work) (n : LaneNo) (l : Lane) : (w.setLane n l).port = w.port := rfl
@[simp] theorem Work.setLane_time (w : Work) (n : LaneNo) (l : Lane) : (w.setLane n l).time = w.time := rfl
@[simp] theorem Work.setLane_lanes (w : Work) (n : LaneNo) (l : Lane) : (w.setLane n l).lanes = { w.lanes with lane := w.lanes.lane.set n.val l } := rfl
@[simp] theorem Work.setLane_line (w : Work) (n : LaneNo) (l : Lane) : (w.setLane n l).line = w.line := rfl
/-! ### Work.modLane -/
@[simp] theorem Work.modLane_mem (w : Work) (n : LaneNo) (f : Lane → Lane) : (w.modLane n f).mem = w.mem := rfl
@[simp] theorem Work.modLane_bus (w : Work) (n : LaneNo) (f : Lane → Lane) : (w.modLane n f).bus = w.bus := rfl
@[simp] theorem Work.modLane_cause (w : Work) (n : LaneNo) (f : Lane → Lane) : (w.modLane n f).cause = w.cause := rfl
@[simp] theorem Work.modLane_port (w : Work) (n : LaneNo) (f : Lane → Lane) : (w.modLane n f).port = w.port := rfl
@[simp] theorem Work.modLane_time (w : Work) (n : LaneNo) (f : Lane → Lane) : (w.modLane n f).time = w.time := rfl
@[simp] theorem Work.modLane_lanes (w : Work) (n : LaneNo) (f : Lane → Lane) : (w.modLane n f).lanes = { w.lanes with lane := w.lanes.lane.set n.val (f (w.laneOf n)) } := rfl
@[simp] theorem Work.modLane_line (w : Work) (n : LaneNo) (f : Lane → Lane) : (w.modLane n f).line = w.line := rfl
/-! ### Work.setSlot -/
@[simp] theorem Work.setSlot_mem (k : SlotNo) (st : SlotState) (w : Work) : (w.setSlot k st).mem = w.mem := rfl
@[simp] theorem Work.setSlot_bus (k : SlotNo) (st : SlotState) (w : Work) : (w.setSlot k st).bus = w.bus := rfl
@[simp] theorem Work.setSlot_cause (k : SlotNo) (st : SlotState) (w : Work) : (w.setSlot k st).cause = w.cause := rfl
@[simp] theorem Work.setSlot_port (k : SlotNo) (st : SlotState) (w : Work) : (w.setSlot k st).port = w.port := rfl
@[simp] theorem Work.setSlot_time (k : SlotNo) (st : SlotState) (w : Work) : (w.setSlot k st).time = w.time := rfl
@[simp] theorem Work.setSlot_lanes (k : SlotNo) (st : SlotState) (w : Work) : (w.setSlot k st).lanes = w.lanes := rfl
@[simp] theorem Work.setSlot_line (k : SlotNo) (st : SlotState) (w : Work) : (w.setSlot k st).line = { w.line with slots := w.line.slots.set k.val st } := rfl
/-! ### Work.modLine -/
@[simp] theorem Work.modLine_mem (f : LineReceiver → LineReceiver) (w : Work) : (w.modLine f).mem = w.mem := rfl
@[simp] theorem Work.modLine_bus (f : LineReceiver → LineReceiver) (w : Work) : (w.modLine f).bus = w.bus := rfl
@[simp] theorem Work.modLine_cause (f : LineReceiver → LineReceiver) (w : Work) : (w.modLine f).cause = w.cause := rfl
@[simp] theorem Work.modLine_port (f : LineReceiver → LineReceiver) (w : Work) : (w.modLine f).port = w.port := rfl
@[simp] theorem Work.modLine_time (f : LineReceiver → LineReceiver) (w : Work) : (w.modLine f).time = w.time := rfl
@[simp] theorem Work.modLine_lanes (f : LineReceiver → LineReceiver) (w : Work) : (w.modLine f).lanes = w.lanes := rfl
@[simp] theorem Work.modLine_line (f : LineReceiver → LineReceiver) (w : Work) : (w.modLine f).line = f w.line := rfl
/-! ### Work.withFrame -/
@[simp] theorem Work.withFrame_mem (f : Frame) (w : Work) : (w.withFrame f).mem = w.mem := rfl
@[simp] theorem Work.withFrame_bus (f : Frame) (w : Work) : (w.withFrame f).bus = w.bus := rfl
@[simp] theorem Work.withFrame_cause (f : Frame) (w : Work) : (w.withFrame f).cause = w.cause := rfl
@[simp] theorem Work.withFrame_port (f : Frame) (w : Work) : (w.withFrame f).port = w.port := rfl
@[simp] theorem Work.withFrame_time (f : Frame) (w : Work) : (w.withFrame f).time = w.time := rfl
@[simp] theorem Work.withFrame_lanes (f : Frame) (w : Work) : (w.withFrame f).lanes = w.lanes := rfl
@[simp] theorem Work.withFrame_line (f : Frame) (w : Work) : (w.withFrame f).line = { w.line with frame := some f } := rfl
/-! ### Work.modPort -/
@[simp] theorem Work.modPort_mem (f : Port → Port) (w : Work) : (w.modPort f).mem = w.mem := rfl
@[simp] theorem Work.modPort_bus (f : Port → Port) (w : Work) : (w.modPort f).bus = w.bus := rfl
@[simp] theorem Work.modPort_cause (f : Port → Port) (w : Work) : (w.modPort f).cause = w.cause := rfl
@[simp] theorem Work.modPort_port (f : Port → Port) (w : Work) : (w.modPort f).port = f w.port := rfl
@[simp] theorem Work.modPort_time (f : Port → Port) (w : Work) : (w.modPort f).time = w.time := rfl
@[simp] theorem Work.modPort_lanes (f : Port → Port) (w : Work) : (w.modPort f).lanes = w.lanes := rfl
@[simp] theorem Work.modPort_line (f : Port → Port) (w : Work) : (w.modPort f).line = w.line := rfl
/-! ### Work.activate -/
@[simp] theorem Work.activate_mem (n : LaneNo) (w : Work) : (w.activate n).mem = w.mem := rfl
@[simp] theorem Work.activate_bus (n : LaneNo) (w : Work) : (w.activate n).bus = w.bus := rfl
@[simp] theorem Work.activate_cause (n : LaneNo) (w : Work) : (w.activate n).cause = w.cause := rfl
@[simp] theorem Work.activate_port (n : LaneNo) (w : Work) : (w.activate n).port = w.port := rfl
@[simp] theorem Work.activate_time (n : LaneNo) (w : Work) : (w.activate n).time = w.time := rfl
@[simp] theorem Work.activate_lanes (n : LaneNo) (w : Work) : (w.activate n).lanes = { (w.modLane n fun l => { l with state := .active }).lanes with activeNo := n, activeValid := true } := rfl
@[simp] theorem Work.activate_line (n : LaneNo) (w : Work) : (w.activate n).line = w.line := rfl
/-! ### tickClock -/
@[simp] theorem tickClock_mem (w : Work) : (tickClock w).mem = w.mem := rfl
@[simp] theorem tickClock_bus (w : Work) : (tickClock w).bus = w.bus := rfl
@[simp] theorem tickClock_cause (w : Work) : (tickClock w).cause = w.cause := rfl
@[simp] theorem tickClock_port (w : Work) : (tickClock w).port = w.port := rfl
@[simp] theorem tickClock_time (w : Work) : (tickClock w).time = w.time.tick := rfl
@[simp] theorem tickClock_lanes (w : Work) : (tickClock w).lanes = w.lanes := rfl
@[simp] theorem tickClock_line (w : Work) : (tickClock w).line = w.line := rfl
/-! ### tickHold -/
@[simp] theorem tickHold_mem (w : Work) : (tickHold w).mem = w.mem := rfl
@[simp] theorem tickHold_bus (w : Work) : (tickHold w).bus = w.bus := rfl
@[simp] theorem tickHold_cause (w : Work) : (tickHold w).cause = w.cause := rfl
@[simp] theorem tickHold_port (w : Work) : (tickHold w).port = { w.port with hold := w.port.hold.bind fun h => if h.ticks ≤ 1 then none else some { h with ticks := h.ticks - 1 } } := rfl
@[simp] theorem tickHold_time (w : Work) : (tickHold w).time = w.time := rfl
@[simp] theorem tickHold_lanes (w : Work) : (tickHold w).lanes = w.lanes := rfl
@[simp] theorem tickHold_line (w : Work) : (tickHold w).line = w.line := rfl
/-! ### Panel.append -/
@[simp] theorem Panel.append_drawn (r : Row) (p : Panel) : (p.append r).drawn = p.drawn := rfl
@[simp] theorem Panel.append_panel (r : Row) (p : Panel) : (p.append r).panel = p.panel := rfl
@[simp] theorem Panel.append_doubt (r : Row) (p : Panel) : (p.append r).doubt = p.doubt := rfl
@[simp] theorem Panel.append_queue (r : Row) (p : Panel) : (p.append r).queue = p.queue ++ [r] := rfl
@[simp] theorem Panel.append_bulkRequest (r : Row) (p : Panel) : (p.append r).bulkRequest = p.bulkRequest := rfl
@[simp] theorem Panel.append_settled (r : Row) (p : Panel) : (p.append r).settled = p.settled := rfl
@[simp] theorem Panel.append_markers (r : Row) (p : Panel) : (p.append r).markers = p.markers := rfl
@[simp] theorem Panel.append_driver (r : Row) (p : Panel) : (p.append r).driver = p.driver := rfl
@[simp] theorem Panel.append_supply (r : Row) (p : Panel) : (p.append r).supply = p.supply := rfl
/-! ### Panel.setMarker -/
@[simp] theorem Panel.setMarker_drawn (n : Fin 2) (m : Marker) (p : Panel) : (p.setMarker n m).drawn = p.drawn := rfl
@[simp] theorem Panel.setMarker_panel (n : Fin 2) (m : Marker) (p : Panel) : (p.setMarker n m).panel = p.panel := rfl
@[simp] theorem Panel.setMarker_doubt (n : Fin 2) (m : Marker) (p : Panel) : (p.setMarker n m).doubt = p.doubt := rfl
@[simp] theorem Panel.setMarker_queue (n : Fin 2) (m : Marker) (p : Panel) : (p.setMarker n m).queue = p.queue := rfl
@[simp] theorem Panel.setMarker_bulkRequest (n : Fin 2) (m : Marker) (p : Panel) : (p.setMarker n m).bulkRequest = p.bulkRequest := rfl
@[simp] theorem Panel.setMarker_settled (n : Fin 2) (m : Marker) (p : Panel) : (p.setMarker n m).settled = p.settled := rfl
@[simp] theorem Panel.setMarker_markers (n : Fin 2) (m : Marker) (p : Panel) : (p.setMarker n m).markers = p.markers.set n.val m := rfl
@[simp] theorem Panel.setMarker_driver (n : Fin 2) (m : Marker) (p : Panel) : (p.setMarker n m).driver = p.driver := rfl
@[simp] theorem Panel.setMarker_supply (n : Fin 2) (m : Marker) (p : Panel) : (p.setMarker n m).supply = p.supply := rfl
/-! ### Panel.rebuild -/
@[simp] theorem Panel.rebuild_drawn (p : Panel) : (p.rebuild).drawn = p.drawn := by simp only [Panel.rebuild]
@[simp] theorem Panel.rebuild_panel (p : Panel) : (p.rebuild).panel = p.panel := by simp only [Panel.rebuild]
@[simp] theorem Panel.rebuild_doubt (p : Panel) : (p.rebuild).doubt = p.doubt := by simp only [Panel.rebuild]
@[simp] theorem Panel.rebuild_queue (p : Panel) : (p.rebuild).queue = allRows.filter p.differs := by simp only [Panel.rebuild]
@[simp] theorem Panel.rebuild_bulkRequest (p : Panel) : (p.rebuild).bulkRequest = p.bulkRequest := by simp only [Panel.rebuild]
@[simp] theorem Panel.rebuild_settled (p : Panel) : (p.rebuild).settled = p.settled := by simp only [Panel.rebuild]
@[simp] theorem Panel.rebuild_markers (p : Panel) : (p.rebuild).markers = p.markers := by simp only [Panel.rebuild]
@[simp] theorem Panel.rebuild_driver (p : Panel) : (p.rebuild).driver = p.driver := by simp only [Panel.rebuild]
@[simp] theorem Panel.rebuild_supply (p : Panel) : (p.rebuild).supply = p.supply := by simp only [Panel.rebuild]
/-! ### Panel.doubtRow -/
@[simp] theorem Panel.doubtRow_drawn (r : Row) (c : Cols) (p : Panel) : (p.doubtRow r c).drawn = p.drawn := rfl
@[simp] theorem Panel.doubtRow_panel (r : Row) (c : Cols) (p : Panel) : (p.doubtRow r c).panel = p.panel := rfl
@[simp] theorem Panel.doubtRow_doubt (r : Row) (c : Cols) (p : Panel) : (p.doubtRow r c).doubt = p.doubt.set r.val (p.doubt[r.val] ||| c) := rfl
@[simp] theorem Panel.doubtRow_queue (r : Row) (c : Cols) (p : Panel) : (p.doubtRow r c).queue = p.queue := rfl
@[simp] theorem Panel.doubtRow_bulkRequest (r : Row) (c : Cols) (p : Panel) : (p.doubtRow r c).bulkRequest = p.bulkRequest := rfl
@[simp] theorem Panel.doubtRow_settled (r : Row) (c : Cols) (p : Panel) : (p.doubtRow r c).settled = p.settled := rfl
@[simp] theorem Panel.doubtRow_markers (r : Row) (c : Cols) (p : Panel) : (p.doubtRow r c).markers = p.markers := rfl
@[simp] theorem Panel.doubtRow_driver (r : Row) (c : Cols) (p : Panel) : (p.doubtRow r c).driver = p.driver := rfl
@[simp] theorem Panel.doubtRow_supply (r : Row) (c : Cols) (p : Panel) : (p.doubtRow r c).supply = p.supply := rfl
/-! ### Panel.takeRowAnswer -/
@[simp] theorem Panel.takeRowAnswer_drawn (k : PulseKind) (r : Row) (c : Cols) (p : Panel) : (p.takeRowAnswer k r c).drawn = p.drawn := rfl
@[simp] theorem Panel.takeRowAnswer_panel (k : PulseKind) (r : Row) (c : Cols) (p : Panel) : (p.takeRowAnswer k r c).panel = p.panel.set r.val (if k = .write then p.panel[r.val] ||| c else p.panel[r.val] &&& ~~~c) := rfl
@[simp] theorem Panel.takeRowAnswer_doubt (k : PulseKind) (r : Row) (c : Cols) (p : Panel) : (p.takeRowAnswer k r c).doubt = p.doubt.set r.val (p.doubt[r.val] &&& ~~~c) := rfl
@[simp] theorem Panel.takeRowAnswer_queue (k : PulseKind) (r : Row) (c : Cols) (p : Panel) : (p.takeRowAnswer k r c).queue = p.queue := rfl
@[simp] theorem Panel.takeRowAnswer_bulkRequest (k : PulseKind) (r : Row) (c : Cols) (p : Panel) : (p.takeRowAnswer k r c).bulkRequest = p.bulkRequest := rfl
@[simp] theorem Panel.takeRowAnswer_settled (k : PulseKind) (r : Row) (c : Cols) (p : Panel) : (p.takeRowAnswer k r c).settled = p.settled := rfl
@[simp] theorem Panel.takeRowAnswer_markers (k : PulseKind) (r : Row) (c : Cols) (p : Panel) : (p.takeRowAnswer k r c).markers = p.markers := rfl
@[simp] theorem Panel.takeRowAnswer_driver (k : PulseKind) (r : Row) (c : Cols) (p : Panel) : (p.takeRowAnswer k r c).driver = p.driver := rfl
@[simp] theorem Panel.takeRowAnswer_supply (k : PulseKind) (r : Row) (c : Cols) (p : Panel) : (p.takeRowAnswer k r c).supply = p.supply := rfl
/-! ### Panel.setSupok -/
@[simp] theorem Panel.setSupok_drawn (b : Bool) (p : Panel) : (p.setSupok b).drawn = p.drawn := rfl
@[simp] theorem Panel.setSupok_panel (b : Bool) (p : Panel) : (p.setSupok b).panel = p.panel := rfl
@[simp] theorem Panel.setSupok_doubt (b : Bool) (p : Panel) : (p.setSupok b).doubt = p.doubt := rfl
@[simp] theorem Panel.setSupok_queue (b : Bool) (p : Panel) : (p.setSupok b).queue = p.queue := rfl
@[simp] theorem Panel.setSupok_bulkRequest (b : Bool) (p : Panel) : (p.setSupok b).bulkRequest = p.bulkRequest := rfl
@[simp] theorem Panel.setSupok_settled (b : Bool) (p : Panel) : (p.setSupok b).settled = p.settled := rfl
@[simp] theorem Panel.setSupok_markers (b : Bool) (p : Panel) : (p.setSupok b).markers = p.markers := rfl
@[simp] theorem Panel.setSupok_driver (b : Bool) (p : Panel) : (p.setSupok b).driver = p.driver := rfl
@[simp] theorem Panel.setSupok_supply (b : Bool) (p : Panel) : (p.setSupok b).supply = { p.supply with supok := b } := rfl
/-! ### takeBudget -/
@[simp] theorem takeBudget_drawn (t : Settings) (p : Panel) : (takeBudget t p).drawn = p.drawn := rfl
@[simp] theorem takeBudget_panel (t : Settings) (p : Panel) : (takeBudget t p).panel = p.panel := rfl
@[simp] theorem takeBudget_doubt (t : Settings) (p : Panel) : (takeBudget t p).doubt = p.doubt := rfl
@[simp] theorem takeBudget_queue (t : Settings) (p : Panel) : (takeBudget t p).queue = p.queue := rfl
@[simp] theorem takeBudget_bulkRequest (t : Settings) (p : Panel) : (takeBudget t p).bulkRequest = p.bulkRequest := rfl
@[simp] theorem takeBudget_settled (t : Settings) (p : Panel) : (takeBudget t p).settled = p.settled := rfl
@[simp] theorem takeBudget_markers (t : Settings) (p : Panel) : (takeBudget t p).markers = p.markers := rfl
@[simp] theorem takeBudget_driver (t : Settings) (p : Panel) : (takeBudget t p).driver = { p.driver with budget := budgetOfCode t.budgetCode } := rfl
@[simp] theorem takeBudget_supply (t : Settings) (p : Panel) : (takeBudget t p).supply = p.supply := rfl
/-! ### State.onWork -/
@[simp] theorem State.onWork_pending (f : Work → Work) (s : State) : (s.onWork f).pending = s.pending := rfl
@[simp] theorem State.onWork_work (f : Work → Work) (s : State) : (s.onWork f).work = f s.work := rfl
@[simp] theorem State.onWork_panel (f : Work → Work) (s : State) : (s.onWork f).panel = s.panel := rfl
@[simp] theorem State.onWork_glyphs (f : Work → Work) (s : State) : (s.onWork f).glyphs = s.glyphs := rfl
/-! ### State.onPanel -/
@[simp] theorem State.onPanel_pending (f : Panel → Panel) (s : State) : (s.onPanel f).pending = s.pending := rfl
@[simp] theorem State.onPanel_work (f : Panel → Panel) (s : State) : (s.onPanel f).work = s.work := rfl
@[simp] theorem State.onPanel_panel (f : Panel → Panel) (s : State) : (s.onPanel f).panel = f s.panel := rfl
@[simp] theorem State.onPanel_glyphs (f : Panel → Panel) (s : State) : (s.onPanel f).glyphs = s.glyphs := rfl
/-! ### modContext -/
@[simp] theorem modContext_pending (n : LaneNo) (f : Context → Context) (s : State) : (modContext n f s).pending = s.pending := rfl
@[simp] theorem modContext_work (n : LaneNo) (f : Context → Context) (s : State) : (modContext n f s).work = s.work.modLane n fun l => { l with context := f l.context } := rfl
@[simp] theorem modContext_panel (n : LaneNo) (f : Context → Context) (s : State) : (modContext n f s).panel = s.panel := rfl
@[simp] theorem modContext_glyphs (n : LaneNo) (f : Context → Context) (s : State) : (modContext n f s).glyphs = s.glyphs := rfl
/-! ### modProgress -/
@[simp] theorem modProgress_pending (n : LaneNo) (f : Progress → Progress) (s : State) : (modProgress n f s).pending = s.pending := rfl
@[simp] theorem modProgress_work (n : LaneNo) (f : Progress → Progress) (s : State) : (modProgress n f s).work = s.work.modLane n fun l => { l with progress := f l.progress } := rfl
@[simp] theorem modProgress_panel (n : LaneNo) (f : Progress → Progress) (s : State) : (modProgress n f s).panel = s.panel := rfl
@[simp] theorem modProgress_glyphs (n : LaneNo) (f : Progress → Progress) (s : State) : (modProgress n f s).glyphs = s.glyphs := rfl
/-! ### endPanelEvent -/
@[simp] theorem endPanelEvent_pending (s : State) : (endPanelEvent s).pending = s.pending := rfl
@[simp] theorem endPanelEvent_work (s : State) : (endPanelEvent s).work = settleLanes s.work := rfl
@[simp] theorem endPanelEvent_panel (s : State) : (endPanelEvent s).panel = s.panel := rfl
@[simp] theorem endPanelEvent_glyphs (s : State) : (endPanelEvent s).glyphs = s.glyphs := rfl
/-! ### settledEntry -/
@[simp] theorem settledEntry_pending (s : State) : (settledEntry s).pending = s.pending := by simp only [settledEntry, State.onWork]
@[simp] theorem settledEntry_work (s : State) : (settledEntry s).work = completeDrains (setCause .settled s.work) := by simp only [settledEntry, State.onWork]
@[simp] theorem settledEntry_panel (s : State) : (settledEntry s).panel = s.panel := by simp only [settledEntry, State.onWork]
@[simp] theorem settledEntry_glyphs (s : State) : (settledEntry s).glyphs = s.glyphs := by simp only [settledEntry, State.onWork]
/-! ### resetAll -/
@[simp] theorem resetAll_pending (c : StartCause) (s : State) : (resetAll c s).pending = s.pending := by simp only [resetAll]
@[simp] theorem resetAll_work (c : StartCause) (s : State) : (resetAll c s).work = s.work.afterReset c := by simp only [resetAll]
@[simp] theorem resetAll_panel (c : StartCause) (s : State) : (resetAll c s).panel = Panel.reset s.panel.supply.supok := by simp only [resetAll]
@[simp] theorem resetAll_glyphs (c : StartCause) (s : State) : (resetAll c s).glyphs = GlyphStore.reset := by simp only [resetAll]
/-! ### setResetAsserted -/
@[simp] theorem setResetAsserted_pending (b : Bool) (s : State) : (setResetAsserted b s).pending = s.pending := rfl
@[simp] theorem setResetAsserted_work (b : Bool) (s : State) : (setResetAsserted b s).work = s.work.modPort fun p => { p with resetAsserted := b } := rfl
@[simp] theorem setResetAsserted_panel (b : Bool) (s : State) : (setResetAsserted b s).panel = s.panel := rfl
@[simp] theorem setResetAsserted_glyphs (b : Bool) (s : State) : (setResetAsserted b s).glyphs = s.glyphs := rfl

end Sys2Proof.Machine
end

