-- ==== Sys2Proof/Laws/Bus.lean ====
section
/-! SUPPORT. One access and runs of accesses: what each leaves unchanged whatever the bus does, and what it answers while
every access completes, or when one of them fails. -/

namespace Sys2Proof.Machine

/-- Only station memory, the bus turns and CAUSE may differ, and the canonical form of the memory is kept. -/
structure Work.BusOnly (w w' : Work) : Prop where
  port : w'.port = w.port
  time : w'.time = w.time
  lanes : w'.lanes = w.lanes
  line : w'.line = w.line
  wf : w.mem.wf → w'.mem.wf

theorem Work.BusOnly.refl (w : Work) : Work.BusOnly w w := ⟨rfl, rfl, rfl, rfl, id⟩

theorem Work.BusOnly.trans {a b c : Work} (h : Work.BusOnly a b) (k : Work.BusOnly b c) : Work.BusOnly a c :=
  ⟨k.port.trans h.port, k.time.trans h.time, k.lanes.trans h.lanes, k.line.trans h.line, fun x => k.wf (h.wf x)⟩

/-! ## Whatever the bus does -/

theorem setCause_busOnly (c : Cause) (w : Work) : Work.BusOnly w (setCause c w) := ⟨rfl, rfl, rfl, rfl, id⟩

theorem storeWord_busOnly (a : Addr) (v : Word) (w : Work) : Work.BusOnly w (storeWord a v w) :=
  ⟨rfl, rfl, rfl, rfl, fun h => Memory.wf_writeWord _ _ _ h⟩

theorem takeTurn_busOnly (t : BusTurn) (rest : List BusTurn) (w : Work) : Work.BusOnly w (takeTurn t rest w) :=
  ⟨rfl, rfl, rfl, rfl, fun h => Memory.wf_store _ _ h⟩

theorem busRead_busOnly (a : Addr) (w : Work) : Work.BusOnly w (busRead a w).2 := by
  unfold busRead
  split
  · exact .refl w
  · split <;> first | exact takeTurn_busOnly _ _ _ | exact .refl w

theorem busWrite_busOnly (a : Addr) (v : Word) (w : Work) : Work.BusOnly w (busWrite a v w).2 := by
  unfold busWrite
  split
  · exact storeWord_busOnly _ _ _
  · split
    · exact (takeTurn_busOnly _ _ _).trans (storeWord_busOnly _ _ _)
    · exact (takeTurn_busOnly _ _ _).trans (storeWord_busOnly _ _ _)
    · simp only
      split
      · exact (takeTurn_busOnly _ _ _).trans (storeWord_busOnly _ _ _)
      · exact takeTurn_busOnly _ _ _
    · exact .refl w

theorem busWriteList_busOnly (l : List (Addr × Word)) (w : Work) : Work.BusOnly w (busWriteList l w) := by
  induction l generalizing w with
  | nil => exact .refl w
  | cons c rest ih =>
    obtain ⟨a, v⟩ := c
    have h := busWrite_busOnly a v w
    unfold busWriteList
    split
    · rename_i w1 e
      rw [e] at h
      exact h.trans (ih w1)
    · rename_i w1 _ e
      rw [e] at h
      exact h

theorem reportFailure_busOnly (f : BusFailure) (u : MemUnit) (a : Addr) (n : Option LaneNo) (w : Work) :
    Work.BusOnly w (reportFailure f u a n w) := by
  have h := busRead_busOnly (w.exchange 0x70) w
  unfold reportFailure
  split
  · rename_i v w1 e
    rw [e] at h
    refine h.trans (Work.BusOnly.trans ?_ (setCause_busOnly _ _))
    split
    · exact busWriteList_busOnly _ _
    · exact .refl w1
  · rename_i w1 _ e
    rw [e] at h
    exact h.trans (setCause_busOnly _ _)

theorem readStation_busOnly (u : MemUnit) (n : Option LaneNo) (a : Addr) (w : Work) :
    Work.BusOnly w (readStation u n a w).2 := by
  have h := busRead_busOnly a w
  unfold readStation
  split <;> rename_i e <;> rw [e] at h
  · exact h
  · exact h.trans (reportFailure_busOnly _ _ _ _ _)
  · exact h

theorem writeStation_busOnly (u : MemUnit) (n : Option LaneNo) (a : Addr) (v : Word) (w : Work) :
    Work.BusOnly w (writeStation u n a v w).2 := by
  have h := busWrite_busOnly a v w
  unfold writeStation
  split <;> rename_i e <;> rw [e] at h
  · exact h
  · exact h.trans (reportFailure_busOnly _ _ _ _ _)
  · exact h

theorem readStationList_busOnly (u : MemUnit) (n : Option LaneNo) (l : List Addr) (w : Work) :
    Work.BusOnly w (readStationList u n l w).2 := by
  induction l generalizing w with
  | nil => exact .refl w
  | cons a rest ih =>
    have h := readStation_busOnly u n a w
    unfold readStationList
    split
    · rename_i v w1 e
      rw [e] at h
      have k := ih w1
      split <;> rename_i e2 <;> rw [e2] at k <;> exact h.trans k
    · rename_i w1 e
      rw [e] at h
      exact h

theorem writeStationList_busOnly (u : MemUnit) (n : Option LaneNo) (l : List (Addr × Word)) (w : Work) :
    Work.BusOnly w (writeStationList u n l w).2 := by
  induction l generalizing w with
  | nil => exact .refl w
  | cons c rest ih =>
    obtain ⟨a, v⟩ := c
    have h := writeStation_busOnly u n a v w
    unfold writeStationList
    split
    · rename_i w1 e
      rw [e] at h
      exact h.trans (ih w1)
    · rename_i w1 e
      rw [e] at h
      exact h

/-! ## While every access completes -/

@[simp] theorem storeWords_nil (w : Work) : storeWords [] w = w := rfl

@[simp] theorem storeWords_cons (a : Addr) (v : Word) (l : List (Addr × Word)) (w : Work) :
    storeWords ((a, v) :: l) w = storeWords l (storeWord a v w) := rfl

theorem storeWords_append (l k : List (Addr × Word)) (w : Work) :
    storeWords (l ++ k) w = storeWords k (storeWords l w) := by
  induction l generalizing w with
  | nil => rfl
  | cons c rest ih => exact ih _

theorem storeWords_busOnly (l : List (Addr × Word)) (w : Work) : Work.BusOnly w (storeWords l w) := by
  induction l generalizing w with
  | nil => exact .refl w
  | cons c rest ih => exact (storeWord_busOnly _ _ _).trans (ih _)

@[simp] theorem storeWords_bus (l : List (Addr × Word)) (w : Work) : (storeWords l w).bus = w.bus := by
  induction l generalizing w with
  | nil => rfl
  | cons c rest ih => exact ih _

@[simp] theorem storeWords_cause (l : List (Addr × Word)) (w : Work) : (storeWords l w).cause = w.cause := by
  induction l generalizing w with
  | nil => rfl
  | cons c rest ih => exact ih _

@[simp] theorem storeWords_port (l : List (Addr × Word)) (w : Work) : (storeWords l w).port = w.port :=
  (storeWords_busOnly l w).port

@[simp] theorem storeWords_time (l : List (Addr × Word)) (w : Work) : (storeWords l w).time = w.time :=
  (storeWords_busOnly l w).time

@[simp] theorem storeWords_lanes (l : List (Addr × Word)) (w : Work) : (storeWords l w).lanes = w.lanes :=
  (storeWords_busOnly l w).lanes

@[simp] theorem storeWords_line (l : List (Addr × Word)) (w : Work) : (storeWords l w).line = w.line :=
  (storeWords_busOnly l w).line

theorem storeWords_withLanes (l : List (Addr × Word)) (w : Work) (x : LaneUnit) :
    storeWords l { w with lanes := x } = { storeWords l w with lanes := x } := by
  induction l generalizing w with
  | nil => rfl
  | cons c rest ih => exact ih (storeWord c.1 c.2 w)

/-- A word that none of the stores reaches reads as before. -/
theorem readWord_storeWords_other (l : List (Addr × Word)) (w : Work) (b : Addr)
    (h : ∀ c ∈ l, wordAddress b ≠ wordAddress c.1) : (storeWords l w).mem.readWord b = w.mem.readWord b := by
  induction l generalizing w with
  | nil => rfl
  | cons c rest ih =>
    obtain ⟨a, v⟩ := c
    rw [storeWords_cons, ih _ fun d hd => h d (by simp [hd])]
    exact Memory.readWord_writeWord_other _ _ _ _ (h (a, v) (by simp))

/-- An octet that none of the stores reaches reads as before. -/
theorem read_storeWords_other (l : List (Addr × Word)) (w : Work) (x : Nat)
    (h : ∀ c ∈ l, x ≠ wordAddress c.1 ∧ x ≠ wordAddress c.1 + 1) : (storeWords l w).mem.read x = w.mem.read x := by
  induction l generalizing w with
  | nil => rfl
  | cons c rest ih =>
    obtain ⟨a, v⟩ := c
    rw [storeWords_cons, ih _ fun d hd => h d (by simp [hd])]
    have := h (a, v) (by simp)
    exact Memory.read_writeWord_other _ _ _ _ this.1 this.2

theorem readStation_completes (u : MemUnit) (n : Option LaneNo) (a : Addr) (w : Work) (h : w.bus = []) :
    readStation u n a w = (some (w.mem.readWord a), w) := by
  simp [readStation, busRead, h]

theorem writeStation_completes (u : MemUnit) (n : Option LaneNo) (a : Addr) (v : Word) (w : Work) (h : w.bus = []) :
    writeStation u n a v w = (true, storeWord a v w) := by
  simp [writeStation, busWrite, h]

theorem readStationList_completes (u : MemUnit) (n : Option LaneNo) (l : List Addr) (w : Work) (h : w.bus = []) :
    readStationList u n l w = (some (l.map w.mem.readWord), w) := by
  induction l with
  | nil => rfl
  | cons a rest ih => simp [readStationList, readStation_completes _ _ _ _ h, ih]

theorem writeStationList_completes (u : MemUnit) (n : Option LaneNo) (l : List (Addr × Word)) (w : Work)
    (h : w.bus = []) : writeStationList u n l w = (true, storeWords l w) := by
  induction l generalizing w with
  | nil => rfl
  | cons c rest ih =>
    obtain ⟨a, v⟩ := c
    simp [writeStationList, writeStation_completes _ _ _ _ _ h, ih (storeWord a v w) (by simpa using h)]

/-- The lane record of a lane is written whole while every access completes (R49). -/
theorem writeLaneRecord_completes (n : LaneNo) (a : Addr) (w : Work) (h : w.bus = []) :
    writeLaneRecord n a w = storeWords (w.laneRecordWords n) w := by
  simp [writeLaneRecord, writeStationList_completes _ _ _ _ h]

/-- A slot changes its state and its state word while every access completes (R155). -/
theorem changeSlot_completes (k : SlotNo) (st : SlotState) (w : Work) (h : w.bus = []) :
    changeSlot k st w = storeWord (w.slotAddress k) st.code (w.setSlot k st) := by
  have e : (w.setSlot k st).slotAddress k = w.slotAddress k := rfl
  simp [changeSlot, writeSlotWord, writeStation_completes _ _ _ _ (w.setSlot k st) (by simpa using h), e]

/-- The line status record is written whole while every access completes (R158). -/
theorem writeLineStatus_completes (w : Work) (h : w.bus = []) :
    writeLineStatus w = storeWords w.lineStatusWords w := by
  simp [writeLineStatus, writeStationList_completes _ _ _ _ h]

/-! ## When one access fails -/

theorem withFailure_zero (answer : BusAnswer) (w : Work) :
    w.withFailure 0 answer = { w with bus := [{ stores := [], answer := answer }] } := rfl

theorem withFailure_succ (i : Nat) (answer : BusAnswer) (w : Work) :
    w.withFailure (i + 1) answer =
      { w with bus := { stores := [], answer := .completes } :: (w.withFailure i answer).bus } := rfl

@[simp] theorem withFailure_mem (i : Nat) (answer : BusAnswer) (w : Work) : (w.withFailure i answer).mem = w.mem := rfl
@[simp] theorem withFailure_cause (i : Nat) (answer : BusAnswer) (w : Work) : (w.withFailure i answer).cause = w.cause := rfl
@[simp] theorem withFailure_port (i : Nat) (answer : BusAnswer) (w : Work) : (w.withFailure i answer).port = w.port := rfl
@[simp] theorem withFailure_time (i : Nat) (answer : BusAnswer) (w : Work) : (w.withFailure i answer).time = w.time := rfl
@[simp] theorem withFailure_lanes (i : Nat) (answer : BusAnswer) (w : Work) : (w.withFailure i answer).lanes = w.lanes := rfl
@[simp] theorem withFailure_line (i : Nat) (answer : BusAnswer) (w : Work) : (w.withFailure i answer).line = w.line := rfl

/-- An access before the failing one reads its word. -/
theorem readStation_before (u : MemUnit) (n : Option LaneNo) (a : Addr) (i : Nat) (answer : BusAnswer) (w : Work) :
    readStation u n a (w.withFailure (i + 1) answer) = (some (w.mem.readWord a), w.withFailure i answer) := rfl

/-- An access before the failing one stores its word. -/
theorem writeStation_before (u : MemUnit) (n : Option LaneNo) (a : Addr) (v : Word) (i : Nat) (answer : BusAnswer) (w : Work) :
    writeStation u n a v (w.withFailure (i + 1) answer) = (true, (storeWord a v w).withFailure i answer) := rfl

/-- A failure is reported while every later access completes (R184). -/
theorem reportFailure_completes (f : BusFailure) (u : MemUnit) (a : Addr) (n : Option LaneNo) (w : Work) (h : w.bus = []) :
    reportFailure f u a n w = w.failureNoted f.code u.code (laneCode n) a := by
  have list : ∀ (l : List (Addr × Word)) (v : Work), v.bus = [] → busWriteList l v = storeWords l v := by
    intro l
    induction l with
    | nil => exact fun _ _ => rfl
    | cons c rest ih =>
      intro v hv
      obtain ⟨b, x⟩ := c
      simp only [busWriteList, busWrite, hv, storeWords_cons]
      exact ih _ hv
  unfold reportFailure Work.failureNoted
  simp only [busRead, h, list _ _ h]
  rfl

/-- The failing access of a read (R183). -/
theorem readStation_fails (u : MemUnit) (n : Option LaneNo) (a : Addr) {answer : BusAnswer} {kind : Word} (w : Work)
    (h : w.bus = []) (f : answer.FailsRead kind) :
    readStation u n a (w.withFailure 0 answer) = (none, w.failureNoted kind u.code (laneCode n) a) := by
  have turn : takeTurn { stores := [], answer := answer } [] (w.withFailure 0 answer) = w := by
    cases w; cases h; rfl
  rcases f with ⟨rfl, rfl⟩ | ⟨⟨stored, rfl⟩, rfl⟩ <;>
    simp only [readStation, busRead, withFailure_zero] <;>
    (rw [withFailure_zero] at turn; rw [turn, reportFailure_completes _ _ _ _ _ h]; rfl)

/-- The failing access of a write, which stores its word or not (R183). -/
theorem writeStation_fails (u : MemUnit) (n : Option LaneNo) (a : Addr) (v : Word) (stored : Bool) (w : Work)
    (h : w.bus = []) :
    writeStation u n a v (w.withFailure 0 (.noAnswer stored)) =
      (false, (if stored then storeWord a v w else w).failureNoted 2 u.code (laneCode n) a) := by
  have turn : takeTurn { stores := [], answer := .noAnswer stored } [] (w.withFailure 0 (.noAnswer stored)) = w := by
    cases w; cases h; rfl
  rw [withFailure_zero] at turn ⊢
  simp only [writeStation, busWrite, turn]
  rw [reportFailure_completes _ _ _ _ _ (by split <;> exact h)]
  rfl

/-- A run of reads ends at the word that fails (R183). -/
theorem readStationList_fails (u : MemUnit) (n : Option LaneNo) (l : List Addr) (i : Nat) (hi : i < l.length)
    {answer : BusAnswer} {kind : Word} (w : Work) (h : w.bus = []) (f : answer.FailsRead kind) :
    readStationList u n l (w.withFailure i answer) = (none, w.failureNoted kind u.code (laneCode n) l[i]) := by
  induction l generalizing i with
  | nil => cases hi
  | cons a rest ih =>
    cases i with
    | zero => simp only [readStationList, readStation_fails u n a w h f, List.getElem_cons_zero]
    | succ i =>
      simp only [readStationList, readStation_before, ih i (by simpa using hi), List.getElem_cons_succ]

/-- A run of reads before the failing access. -/
theorem readStationList_before (u : MemUnit) (n : Option LaneNo) (l : List Addr) (i : Nat) (answer : BusAnswer) (w : Work) :
    readStationList u n l (w.withFailure (l.length + i) answer) = (some (l.map w.mem.readWord), w.withFailure i answer) := by
  induction l with
  | nil => simp [readStationList]
  | cons a rest ih =>
    rw [List.length_cons, Nat.add_right_comm]
    simp only [readStationList, readStation_before, ih, List.map_cons]

/-- A run of writes ends at the word that fails (R183). -/
theorem writeStationList_fails (u : MemUnit) (n : Option LaneNo) (l : List (Addr × Word)) (j : Nat) (hj : j < l.length)
    (stored : Bool) (w : Work) (h : w.bus = []) :
    writeStationList u n l (w.withFailure j (.noAnswer stored)) = (false, w.cutShort j stored u.code (laneCode n) l) := by
  induction l generalizing j w with
  | nil => cases hj
  | cons c rest ih =>
    obtain ⟨a, v⟩ := c
    cases j with
    | zero => cases stored <;> simp [writeStationList, writeStation_fails u n a v _ w h, Work.cutShort]
    | succ j =>
      simp only [writeStationList, writeStation_before, ih j (by simpa using hj) (storeWord a v w) h]
      cases stored <;> rfl

/-- A run of writes before the failing access. -/
theorem writeStationList_before (u : MemUnit) (n : Option LaneNo) (l : List (Addr × Word)) (i : Nat) (answer : BusAnswer)
    (w : Work) : writeStationList u n l (w.withFailure (l.length + i) answer) = (true, (storeWords l w).withFailure i answer) := by
  induction l generalizing w with
  | nil => simp [writeStationList]
  | cons c rest ih =>
    obtain ⟨a, v⟩ := c
    rw [List.length_cons, Nat.add_right_comm]
    simp only [writeStationList, writeStation_before, ih, storeWords_cons]

theorem failureNoted_busOnly (kind unit lane : Word) (a : Addr) (w : Work) :
    Work.BusOnly w (w.failureNoted kind unit lane a) := by
  unfold Work.failureNoted
  refine Work.BusOnly.trans ?_ (setCause_busOnly _ _)
  split
  · exact storeWords_busOnly _ _
  · exact .refl w

theorem failureNoted_withLanes (kind unit lane : Word) (a : Addr) (w : Work) (x : LaneUnit) :
    ({ w with lanes := x } : Work).failureNoted kind unit lane a = { w.failureNoted kind unit lane a with lanes := x } := by
  unfold Work.failureNoted
  show setCause .memory (if w.mem.readWord (w.exchange 0x70) = 0 then
    storeWords (w.failureWords kind unit lane a) { w with lanes := x } else { w with lanes := x }) = _
  rw [storeWords_withLanes]
  split <;> rfl

theorem cutShort_busOnly (j : Nat) (stored : Bool) (unit lane : Word) (l : List (Addr × Word)) (w : Work) :
    Work.BusOnly w (w.cutShort j stored unit lane l) :=
  (storeWords_busOnly _ _).trans (failureNoted_busOnly _ _ _ _ _)

@[simp] theorem failureNoted_bus (kind unit lane : Word) (a : Addr) (w : Work) :
    (w.failureNoted kind unit lane a).bus = w.bus := by
  unfold Work.failureNoted
  split
  · exact storeWords_bus _ _
  · rfl

@[simp] theorem cutShort_bus (j : Nat) (stored : Bool) (unit lane : Word) (l : List (Addr × Word)) (w : Work) :
    (w.cutShort j stored unit lane l).bus = w.bus := by simp [Work.cutShort]

/-- A report of a drive fault while every access completes (R44). -/
theorem reportDriveFault_completes (k : DriveFaultKind) (row : Nat) (pulse : Pulse) (w : Work) (h : w.bus = []) :
    reportDriveFault k row pulse w = w.driveFaultNoted k.code row pulse := by
  unfold reportDriveFault Work.driveFaultNoted
  rw [readStation_completes _ _ _ _ h]
  simp only
  split
  · rw [writeStationList_completes _ _ _ _ h]; rfl
  · rfl

/-- A report of a drive fault of which one access fails (R44). -/
theorem reportDriveFault_cut (k : DriveFaultKind) (row : Nat) (pulse : Pulse) (w v : Work) (i : Nat) (answer : BusAnswer)
    (h : w.bus = []) (cut : w.DriveFaultCut i answer k.code row pulse v) :
    reportDriveFault k row pulse (w.withFailure i answer) = v := by
  have place (i : Nat) (answer : BusAnswer) : (w.withFailure i answer).exchange 0x60 = w.exchange 0x60 := rfl
  unfold reportDriveFault
  rw [place]
  rcases cut with ⟨rfl, code, f, rfl⟩ | ⟨j, stored, rfl, hj, rfl, empty, rfl⟩
  · rw [readStation_fails .engine none (w.exchange 0x60) w h f]
    rfl
  · rw [Nat.add_comm 1 j, readStation_before]
    simp only [empty, if_true]
    have words : (w.withFailure j (.noAnswer stored)).driveFaultWords k row pulse = w.driveFaultRecord k.code row pulse := rfl
    rw [words, writeStationList_fails .engine none (w.driveFaultRecord k.code row pulse) j hj stored w h]
    rfl

end Sys2Proof.Machine
end

