-- ==== Sys2Proof/Laws/Kept.lean ====
section
/-! SUPPORT. What no operation of the lane unit and the line receiver touches: the timebase, and every field of the port but
the engine state; and that each keeps the canonical form of station memory. -/

namespace Sys2Proof.Machine

/-- The timebase and the port but for the engine state are as before, and the canonical form is kept. -/
structure Work.Kept (w w' : Work) : Prop where
  time : w'.time = w.time
  port : w'.port = { w.port with engine := w'.port.engine }
  wf : w.mem.wf → w'.mem.wf

theorem Work.Kept.refl (w : Work) : Work.Kept w w := ⟨rfl, rfl, id⟩

theorem Work.Kept.trans {a b c : Work} (h : Work.Kept a b) (k : Work.Kept b c) : Work.Kept a c :=
  ⟨k.time.trans h.time, by rw [k.port, h.port], fun x => k.wf (h.wf x)⟩

theorem Work.BusOnly.kept {a b : Work} (h : Work.BusOnly a b) : Work.Kept a b :=
  ⟨h.time, by rw [h.port], h.wf⟩

/-- Both branches of a choice. -/
theorem Work.Kept.ite {c : Prop} [Decidable c] {w a b : Work} (h : Work.Kept w a) (k : Work.Kept w b) :
    Work.Kept w (if c then a else b) := by
  split
  · exact h
  · exact k

/-- Both branches of a choice of a state with the events completed. -/
theorem Work.Kept.ite_fst {c : Prop} [Decidable c] {w : Work} {a b : Work × β} (h : Work.Kept w a.1)
    (k : Work.Kept w b.1) : Work.Kept w (if c then a else b).1 := by
  split
  · exact h
  · exact k

/-- RESET's level is kept. -/
theorem Work.Kept.resetAsserted {a b : Work} (h : Work.Kept a b) : b.port.resetAsserted = a.port.resetAsserted := by
  rw [h.port]

theorem Work.modLane_kept (n : LaneNo) (f : Lane → Lane) (w : Work) : Work.Kept w (w.modLane n f) := ⟨rfl, rfl, id⟩

theorem Work.modLine_kept (f : LineReceiver → LineReceiver) (w : Work) : Work.Kept w (w.modLine f) := ⟨rfl, rfl, id⟩

theorem Work.setSlot_kept (k : SlotNo) (st : SlotState) (w : Work) : Work.Kept w (w.setSlot k st) := ⟨rfl, rfl, id⟩

theorem Work.withFrame_kept (f : Frame) (w : Work) : Work.Kept w (w.withFrame f) := ⟨rfl, rfl, id⟩

theorem Work.activate_kept (n : LaneNo) (w : Work) : Work.Kept w (w.activate n) := ⟨rfl, rfl, id⟩

theorem Work.withLine_kept (l : LineReceiver) (w : Work) : Work.Kept w { w with line := l } := ⟨rfl, rfl, id⟩

theorem setCause_kept (c : Cause) (w : Work) : Work.Kept w (setCause c w) := (setCause_busOnly c w).kept

theorem Work.release_kept (n : LaneNo) (w : Work) : Work.Kept w (w.release n) := by
  unfold Work.release
  split
  · exact ⟨rfl, rfl, id⟩
  · exact .refl w

theorem Work.leaveBlock_kept (n : LaneNo) (st : LaneState) (a : Addr) (w : Work) : Work.Kept w (w.leaveBlock n st a) :=
  (Work.modLane_kept _ _ _).trans (Work.release_kept _ _)

/-! ## Slots and faults -/

theorem writeSlotWord_kept (k : SlotNo) (st : SlotState) (w : Work) : Work.Kept w (writeSlotWord k st w).2 :=
  (writeStation_busOnly _ _ _ _ _).kept

theorem changeSlot_kept (k : SlotNo) (st : SlotState) (w : Work) : Work.Kept w (changeSlot k st w) :=
  (Work.setSlot_kept k st w).trans (writeSlotWord_kept _ _ _)

theorem freeHeldSlot_kept (w : Work) : Work.Kept w (freeHeldSlot w) := by
  unfold freeHeldSlot
  split
  · exact .refl w
  · exact (Work.withLine_kept _ w).trans (changeSlot_kept _ _ _)

theorem faultAttempt_kept (n : LaneNo) (r : LaneFaultReason) (w : Work) : Work.Kept w (faultAttempt n r w).2 := by
  have h := (readStation_busOnly .lane (some n) (w.laneRecord n 0xE) w).kept
  unfold faultAttempt
  split
  · rename_i e
    rw [e] at h
    split <;> exact h.trans (writeStationList_busOnly _ _ _ _).kept
  · rename_i e
    rw [e] at h
    exact h.trans (writeStationList_busOnly _ _ _ _).kept

theorem enterFaulted_kept (n : LaneNo) (r : LaneFaultReason) (a : Addr) (b : Bool) (w : Work) :
    Work.Kept w (enterFaulted n r a b w) := by
  have hf : Work.Kept w (if n = 3 then freeHeldSlot w else w) := by
    split
    · exact freeHeldSlot_kept w
    · exact .refl w
  have h := (hf.trans (Work.leaveBlock_kept n .faulted a _)).trans (faultAttempt_kept n r _)
  unfold enterFaulted
  refine Work.Kept.trans ?_ (setCause_kept _ _)
  exact .ite h (h.trans (faultAttempt_kept _ _ _))

theorem writeLaneRecord_kept (n : LaneNo) (a : Addr) (w : Work) : Work.Kept w (writeLaneRecord n a w) := by
  have h := (writeStationList_busOnly .lane (some n) (w.laneRecordWords n) w).kept
  unfold writeLaneRecord
  split <;> rename_i e <;> rw [e] at h
  · exact h
  · exact h.trans (enterFaulted_kept _ _ _ _ _)

/-! ## Fetch, link and retire -/

theorem fetchBlock_kept (n : LaneNo) (a : Addr) (w : Work) : Work.Kept w (fetchBlock n a w) := by
  have h := (readStationList_busOnly .lane (some n) [addressPlus a 2, addressPlus a 4] w).kept
  unfold fetchBlock
  split <;> rename_i e <;> rw [e] at h
  · exact h.trans (((Work.modLane_kept _ _ _).trans (Work.release_kept _ _)).trans (writeLaneRecord_kept _ _ _))
  · exact h.trans (enterFaulted_kept _ _ _ _ _)

theorem readLink_kept (n : LaneNo) (a : Addr) (w : Work) : Work.Kept w (readLink n a w).2 := by
  have h := (readStation_busOnly .lane (some n) a w).kept
  unfold readLink
  split
  · rename_i e
    rw [e] at h
    exact h
  · rename_i w1 e
    rw [e] at h
    split
    · exact h
    · have k := (readStation_busOnly .lane (some n) (addressPlus a 2) w1).kept
      split
      · rename_i e2
        rw [e2] at k
        exact h.trans k
      · rename_i e2
        rw [e2] at k
        split <;> exact h.trans k

theorem followLink_kept (n : LaneNo) (a : Addr) (f : Work → Work) (hf : ∀ w, Work.Kept w (f w)) (w : Work) :
    Work.Kept w (followLink n a f w) := by
  have h := readLink_kept n a w
  unfold followLink
  split <;> rename_i e <;> rw [e] at h
  · exact h.trans (hf _)
  · exact h.trans (fetchBlock_kept _ _ _)
  · exact h.trans (enterFaulted_kept _ _ _ _ _)
  · exact h.trans (enterFaulted_kept _ _ _ _ _)

theorem faultCause_kept (o : BlockOutcome) (w : Work) : Work.Kept w (faultCause o w) := by
  unfold faultCause
  split
  · exact setCause_kept _ _
  · exact .refl w

theorem afterHostResult_kept (n : LaneNo) (a : Addr) (o : BlockOutcome) (stop cancel : Bool) (w : Work) :
    Work.Kept w (afterHostResult n a o stop cancel w) := by
  have h (st : LaneState) (b : Addr) : Work.Kept w (writeLaneRecord n a (w.leaveBlock n st b)) :=
    (Work.leaveBlock_kept n st b w).trans (writeLaneRecord_kept _ _ _)
  unfold afterHostResult
  split
  · exact (h _ _).trans (faultCause_kept _ _)
  · split
    · simp only
      refine Work.Kept.trans ?_ (faultCause_kept _ _)
      split
      · exact (h _ _).trans (setCause_kept _ _)
      · exact h _ _
    · exact followLink_kept _ _ _ (fun w => (Work.leaveBlock_kept _ _ _ w).trans (writeLaneRecord_kept _ _ _)) _

theorem retireBlock_kept (n : LaneNo) (o : BlockOutcome) (w : Work) : Work.Kept w (retireBlock n o w) := by
  have h := (writeStationList_busOnly .lane (some n) (w.resultWords n o) w).kept
  have k := h.trans (Work.modLane_kept n (Lane.countRetire o) _)
  unfold retireBlock
  simp only
  split
  · refine Work.Kept.trans ?_ (setCause_kept _ _)
    split
    · exact k.trans (afterHostResult_kept _ _ _ _ _ _)
    · exact k.trans (enterFaulted_kept _ _ _ _ _)
  · split
    · exact k.trans (afterHostResult_kept _ _ _ _ _ _)
    · exact k.trans (enterFaulted_kept _ _ _ _ _)

theorem takeNextSlot_kept (w : Work) : Work.Kept w (takeNextSlot w) := by
  unfold takeNextSlot
  split
  · exact (Work.modLane_kept _ _ _).trans (Work.release_kept _ _)
  · exact Work.leaveBlock_kept _ _ _ _

theorem retireSlot_kept (o : BlockOutcome) (w : Work) : Work.Kept w (retireSlot o w) := by
  have h := (writeStationList_busOnly .lane (some 3) (w.resultWords 3 o) w).kept
  have k := h.trans (Work.modLane_kept 3 (Lane.countRetire o) _)
  unfold retireSlot
  simp only
  split
  · exact ((((k.trans (freeHeldSlot_kept _)).trans (takeNextSlot_kept _)).trans (writeLaneRecord_kept _ _ _))).trans
      (faultCause_kept _ _)
  · exact k.trans (enterFaulted_kept _ _ _ _ _)

theorem retire_kept (n : LaneNo) (o : BlockOutcome) (w : Work) : Work.Kept w (retire n o w) := by
  unfold retire
  split
  · exact retireSlot_kept _ _
  · exact retireBlock_kept _ _ _

/-! ## Points and choices -/

theorem suspend_kept (n : LaneNo) (w : Work) : Work.Kept w (suspend n w) :=
  ((Work.modLane_kept _ _ _).trans (Work.release_kept _ _)).trans (writeLaneRecord_kept _ _ _)

theorem preemptionPoint_kept (n : LaneNo) (w : Work) : Work.Kept w (preemptionPoint n w) := by
  unfold preemptionPoint
  simp only
  split
  · exact retire_kept _ _ _
  · split
    · exact retire_kept _ _ _
    · split
      · exact retire_kept _ _ _
      · split
        · exact suspend_kept _ _
        · split
          · exact suspend_kept _ _
          · exact Work.modLane_kept _ _ _

theorem runHeldSlot_kept (w : Work) : Work.Kept w (runHeldSlot w) := by
  unfold runHeldSlot
  split
  · split
    · exact changeSlot_kept _ _ _
    · exact .refl w
  · exact .refl w

theorem grant_kept (n : LaneNo) (w : Work) : Work.Kept w (grant n w) := by
  have h : Work.Kept w (if n = 3 then runHeldSlot (w.activate n) else w.activate n) := by
    split
    · exact (Work.activate_kept n w).trans (runHeldSlot_kept _)
    · exact Work.activate_kept n w
  have k := h.trans (writeLaneRecord_kept n 0 _)
  exact .ite (k.trans (preemptionPoint_kept _ _)) k

theorem engineChoice_kept (fuel : Nat) (w : Work) : Work.Kept w (engineChoice fuel w) := by
  induction fuel generalizing w with
  | zero => exact .refl w
  | succ fuel ih =>
    unfold engineChoice
    split
    · split
      · exact (grant_kept _ w).trans (ih _)
      · exact .refl w
    · exact .refl w

theorem endStopping_kept (w : Work) : Work.Kept w (endStopping w) := by
  unfold endStopping
  split
  · exact ⟨rfl, rfl, id⟩
  · exact .refl w

theorem settleLanes_kept (w : Work) : Work.Kept w (settleLanes w) :=
  (endStopping_kept w).trans (engineChoice_kept _ _)

/-- While a lane is ACTIVE and the engine is not STOPPING there is nothing to settle. -/
theorem settleLanes_of_active (w : Work) (h : w.lanes.activeValid = true) : settleLanes w = w := by
  have e : endStopping w = w := by simp [endStopping, h]
  unfold settleLanes
  rw [e]
  unfold Config.choicesPerEvent
  simp [engineChoice, h]

/-- While the engine is HALTED or STARTING there is nothing to settle. -/
theorem settleLanes_of_halted (w : Work) (h : w.port.engine ≠ .running) (k : w.port.engine ≠ .stopping) :
    settleLanes w = w := by
  have e : endStopping w = w := by simp [endStopping, k]
  unfold settleLanes
  rw [e]
  unfold Config.choicesPerEvent
  simp [engineChoice, h]

/-! ## Waits, cancel and purge -/

theorem completeWaiting_kept (n : LaneNo) (w : Work) : Work.Kept w (completeWaiting n w) :=
  (Work.modLane_kept _ _ _).trans (writeLaneRecord_kept _ _ _)

theorem completeDrains_kept (w : Work) : Work.Kept w (completeDrains w) := by
  have h : ∀ (l : List LaneNo) (w : Work), Work.Kept w (l.foldl (fun w n => completeDrain n w) w) := by
    intro l
    induction l with
    | nil => exact fun w => .refl w
    | cons n rest ih =>
      intro w
      exact Work.Kept.trans (.ite (completeWaiting_kept _ _) (.refl w)) (ih _)
  exact h _ w

theorem clearHead_kept (n : LaneNo) (w : Work) : Work.Kept w (clearHead n w).2 := (writeStationList_busOnly _ _ _ _).kept

theorem nudgeIdle_kept (n : LaneNo) (w : Work) : Work.Kept w (nudgeIdle n w) := by
  have h := (readStationList_busOnly .lane (some n) [w.laneRecord n 0, w.laneRecord n 2] w).kept
  unfold nudgeIdle
  split <;> rename_i e <;> rw [e] at h
  · split
    · exact h
    · have k := h.trans (clearHead_kept n _)
      split <;> rename_i e2 <;> rw [e2] at k
      · exact .ite (k.trans (fetchBlock_kept _ _ _)) (k.trans (enterFaulted_kept _ _ _ _ _))
      · exact k.trans (enterFaulted_kept _ _ _ _ _)
  · exact h.trans (enterFaulted_kept _ _ _ _ _)

theorem nudgeLane_kept (n : LaneNo) (w : Work) : Work.Kept w (nudgeLane n w) := by
  unfold nudgeLane
  split <;> try exact .refl w
  · exact nudgeIdle_kept n w
  · exact followLink_kept _ _ _ (fun w => .refl w) _

theorem resumeLane_kept (n : LaneNo) (w : Work) : Work.Kept w (resumeLane n w) := by
  unfold resumeLane
  split <;> try exact .refl w
  exact followLink_kept _ _ _ (fun w => (Work.leaveBlock_kept _ _ _ w).trans (writeLaneRecord_kept _ _ _)) _

theorem postToHostLane_kept (n : LaneNo) (act : Work → Work) (mark : Lane → Lane) (h : ∀ w, Work.Kept w (act w))
    (w : Work) : Work.Kept w (postToHostLane n act mark w) := by
  unfold postToHostLane
  split
  · exact (h w).trans (settleLanes_kept _)
  · exact Work.modLane_kept _ _ _

theorem actOnPending_kept (n : LaneNo) (w : Work) : Work.Kept w (actOnPending n w) := by
  have h : Work.Kept w (if (w.laneOf n).nudgePending then nudgeLane n w else w) :=
    .ite (nudgeLane_kept _ _) (.refl w)
  exact Work.Kept.trans (b := if (if (w.laneOf n).nudgePending then nudgeLane n w else w).laneOf n |>.resumePending
    then resumeLane n (if (w.laneOf n).nudgePending then nudgeLane n w else w)
    else if (w.laneOf n).nudgePending then nudgeLane n w else w)
    (.ite (h.trans (resumeLane_kept _ _)) h) ⟨rfl, rfl, id⟩

theorem actOnAllPending_kept (w : Work) : Work.Kept w (actOnAllPending w) := by
  have h : ∀ (l : List LaneNo) (w : Work), Work.Kept w (l.foldl (fun w n => actOnPending n w) w) := by
    intro l
    induction l with
    | nil => exact fun w => .refl w
    | cons n rest ih => exact fun w => (actOnPending_kept n w).trans (ih _)
  exact h _ w

theorem freeQueuedSlots_kept (w : Work) : Work.Kept w (freeQueuedSlots w) := by
  have h : ∀ (l : List PendingSlot) (w : Work), Work.Kept w (l.foldl (fun w p => changeSlot p.slot .free w) w) := by
    intro l
    induction l with
    | nil => exact fun w => .refl w
    | cons p rest ih => exact fun w => (changeSlot_kept _ _ w).trans (ih _)
  exact (Work.withLine_kept _ w).trans (h _ _)

theorem idleLane3_kept (w : Work) : Work.Kept w (idleLane3 w) :=
  (Work.leaveBlock_kept _ _ _ w).trans (writeLaneRecord_kept _ _ _)

theorem cancelLane3_kept (w : Work) : Work.Kept w (cancelLane3 w) := by
  have h := freeQueuedSlots_kept w
  unfold cancelLane3
  simp only
  split
  · exact h.trans (idleLane3_kept _)
  · split
    · exact h.trans (Work.modLane_kept _ _ _)
    · exact h.trans (retireSlot_kept _ _)
    · exact h.trans (retireSlot_kept _ _)
    · exact h.trans (retireSlot_kept _ _)
    · exact h.trans (idleLane3_kept _)
    all_goals exact h

theorem purgeLane3_kept (w : Work) : Work.Kept w (purgeLane3 w) := by
  have h := freeQueuedSlots_kept w
  unfold purgeLane3
  simp only
  split
  · exact h.trans (idleLane3_kept _)
  · split
    · exact h.trans (Work.withLine_kept _ _)
    · exact h.trans (retireSlot_kept _ _)
    · exact h.trans (retireSlot_kept _ _)
    · exact h.trans (retireSlot_kept _ _)
    all_goals exact h

theorem cancelHostLane_kept (n : LaneNo) (w : Work) : Work.Kept w (cancelHostLane n w) := by
  unfold cancelHostLane
  split
  · exact .refl w
  · exact Work.modLane_kept _ _ _
  · exact retireBlock_kept _ _ _
  · exact retireBlock_kept _ _ _
  · exact retireBlock_kept _ _ _
  all_goals exact (Work.leaveBlock_kept _ _ _ w).trans (writeLaneRecord_kept _ _ _)

theorem cancelLane_kept (n : LaneNo) (w : Work) : Work.Kept w (cancelLane n w) := by
  have h := Work.modLane_kept n (fun l => { l with nudgePending := false, resumePending := false }) w
  unfold cancelLane
  refine Work.Kept.trans (h.trans ?_) (settleLanes_kept _)
  split
  · exact cancelLane3_kept _
  · exact cancelHostLane_kept _ _

theorem queueSlot_kept (k : SlotNo) (octets : Nat) (w : Work) : Work.Kept w (queueSlot k octets w) := by
  have h := changeSlot_kept k .queued w
  unfold queueSlot
  simp only
  split
  · exact ((h.trans (Work.withLine_kept _ _)).trans (takeNextSlot_kept _)).trans (writeLaneRecord_kept _ _ _)
  · exact h.trans (Work.withLine_kept _ _)

/-! ## The line receiver -/

theorem writeLineStatus_kept (w : Work) : Work.Kept w (writeLineStatus w) := (writeStationList_busOnly _ _ _ _).kept

theorem noteFirstLoss_kept (r : LossReason) (w : Work) : Work.Kept w (noteFirstLoss r w) := by
  have h := (readStation_busOnly .line none (w.exchange 0x4A) w).kept
  unfold noteFirstLoss
  split <;> rename_i e <;> rw [e] at h
  · split
    · exact h.trans (writeStation_busOnly _ _ _ _ _).kept
    · exact h
  · exact h

theorem reportLoss_kept (r : LossReason) (w : Work) : Work.Kept w (reportLoss r w) :=
  (((Work.modLine_kept _ w).trans (noteFirstLoss_kept _ _)).trans (writeLineStatus_kept _)).trans (setCause_kept _ _)

theorem discardSlot_kept (k : SlotNo) (r : LossReason) (w : Work) : Work.Kept w (discardSlot k r w) :=
  (changeSlot_kept _ _ w).trans (reportLoss_kept _ _)

theorem skipFrame_kept (w : Work) : Work.Kept w (skipFrame w) := Work.modLine_kept _ w

theorem frameOctetInSlot_kept (k : SlotNo) (o : Byte) (f : Frame) (w : Work) :
    Work.Kept w (frameOctetInSlot k o f w) := by
  unfold frameOctetInSlot
  simp only
  split
  · exact Work.withFrame_kept _ _
  · split
    · exact Work.withFrame_kept _ _
    · rename_i j v _
      have h := fun f2 => (Work.withFrame_kept f2 w).trans
        (writeStation_busOnly .line none (w.payloadAddress k j) v (w.withFrame f2)).kept
      generalize hr : writeStation .line none (w.payloadAddress k j) v (w.withFrame _) = r
      have h2 := hr ▸ h _
      rcases r with ⟨b, w1⟩
      cases b
      · exact (h2.trans (skipFrame_kept _)).trans (discardSlot_kept _ _ _)
      · exact h2

theorem takeFrameOctet_kept (o : Byte) (w : Work) : Work.Kept w (takeFrameOctet o w) := by
  unfold takeFrameOctet
  split
  · exact .refl w
  · split
    · exact frameOctetInSlot_kept _ _ _ _
    · exact Work.withFrame_kept _ _

theorem openSlot_kept (k : SlotNo) (w : Work) : Work.Kept w (openSlot k w) := by
  unfold openSlot
  simp only
  have h0 := ((Work.modLine_kept (fun l => { l with state := .frame }) w).trans
    (Work.withFrame_kept (Frame.opened w.crcOctets (some k)) _)).trans (Work.setSlot_kept k .filling _)
  have h := h0.trans (writeSlotWord_kept k .filling _)
  split <;> rename_i e <;> rw [e] at h
  · exact h.trans (writeLineStatus_kept _)
  · exact ((h.trans (skipFrame_kept _)).trans (discardSlot_kept _ _ _)).trans (writeLineStatus_kept _)

theorem openSkipped_kept (w : Work) : Work.Kept w (openSkipped w) :=
  (((Work.modLine_kept _ w).trans (Work.withFrame_kept _ _)).trans (reportLoss_kept _ _)).trans (writeLineStatus_kept _)

theorem openFrame_kept (o : Byte) (w : Work) : Work.Kept w (openFrame o w) := by
  unfold openFrame
  refine Work.Kept.trans ?_ (takeFrameOctet_kept _ _)
  split
  · exact openSlot_kept _ _
  · exact openSkipped_kept _

theorem checkSequence_kept (o : Byte) (w : Work) : Work.Kept w (checkSequence o w) := by
  unfold checkSequence
  split
  · exact (Work.modLine_kept _ w).trans (writeLineStatus_kept _)
  · split
    · exact (Work.modLine_kept _ w).trans (writeLineStatus_kept _)
    · exact ((Work.modLine_kept _ w).trans (writeLineStatus_kept _)).trans (setCause_kept _ _)

theorem frameAction_kept (kind : FrameKind) (k : SlotNo) (octets : Nat) (w : Work) :
    Work.Kept w (frameAction kind k octets w) := by
  unfold frameAction
  split
  · exact queueSlot_kept _ _ _
  · exact (changeSlot_kept _ _ _).trans (setCause_kept _ _)
  · exact (purgeLane3_kept _).trans (changeSlot_kept _ _ _)

theorem acceptFrame_kept (kind : FrameKind) (k : SlotNo) (f : Frame) (w : Work) :
    Work.Kept w (acceptFrame kind k f w) := by
  have h := (writeStationList_busOnly .line none (w.acceptWords k f) w).kept
  unfold acceptFrame
  split <;> rename_i e <;> rw [e] at h
  · exact ((h.trans (Work.modLine_kept _ _)).trans (frameAction_kept _ _ _ _)).trans (writeLineStatus_kept _)
  · exact h.trans (discardSlot_kept _ _ _)

theorem closeChecks_kept (k : SlotNo) (f : Frame) (w : Work) : Work.Kept w (closeChecks k f w) := by
  unfold closeChecks
  split
  · exact discardSlot_kept _ _ _
  · refine (checkSequence_kept (f.headOctet 2) w).trans ?_
    unfold formatAndAddress
    split
    · exact discardSlot_kept _ _ _
    · split
      · exact acceptFrame_kept _ _ _ _
      · exact changeSlot_kept _ _ _

theorem endFrame_kept (b : Bool) (w : Work) : Work.Kept w (endFrame b w) :=
  (Work.modLine_kept _ w).trans (writeLineStatus_kept _)

theorem closeFrame_kept (w : Work) : Work.Kept w (closeFrame w) := by
  unfold closeFrame
  refine Work.Kept.trans ?_ (endFrame_kept _ _)
  split
  · split
    · exact closeChecks_kept _ _ _
    · exact .refl w
  · exact .refl w

theorem abortFrame_kept (w : Work) : Work.Kept w (abortFrame w) := by
  unfold abortFrame
  refine Work.Kept.trans ?_ (endFrame_kept _ _)
  split
  · split
    · exact discardSlot_kept _ _ _
    · exact .refl w
  · exact .refl w

theorem breakPurge_kept (w : Work) : Work.Kept w (breakPurge w) :=
  ((purgeLane3_kept w).trans (Work.modLine_kept _ _)).trans (writeLineStatus_kept _)

theorem enterBreak_kept (w : Work) : Work.Kept w (enterBreak w) := by
  have h := ((Work.modLine_kept (fun l => { l with state := .inBreak, breakFlag := true }) w).trans
    (writeLineStatus_kept _)).trans (setCause_kept .lineBreak _)
  unfold enterBreak
  simp only
  split
  · split
    · exact h.trans (breakPurge_kept _)
    · exact h
  · exact h

theorem endBreak_kept (w : Work) : Work.Kept w (endBreak w) :=
  ((Work.modLine_kept _ w).trans (writeLineStatus_kept _)).trans (setCause_kept _ _)

theorem countBreak_kept (b : Bool) (w : Work) : Work.Kept w (countBreak b w).1 := by
  unfold countBreak
  split
  · have h (z : Nat) := Work.modLine_kept (fun l => { l with zeros := z }) w
    exact .ite_fst ((h _).trans (enterBreak_kept _)) (h _)
  · exact .ite_fst (endBreak_kept w) (.refl w)
  all_goals exact .refl w

theorem takeDataBit_kept (b : Bool) (w : Work) : Work.Kept w (takeDataBit b w).1 := by
  have h := Work.modLine_kept (fun l =>
    { l with
      ones := if b then l.ones + 1 else 0
      octetBits := if (w.line.octetBits ++ [b]).length = 8 then [] else w.line.octetBits ++ [b]
      frame := l.frame.map fun f => { f with bits := f.bits + 1 } }) w
  exact .ite_fst (.ite_fst (h.trans (takeFrameOctet_kept _ _)) (h.trans (openFrame_kept _ _))) h

theorem offerBit_kept (b : Bool) (w : Work) : Work.Kept w (offerBit b w).1 :=
  .ite_fst (.ite_fst ⟨rfl, rfl, id⟩ (takeDataBit_kept _ _)) (.refl w)

theorem leaveWindow_kept (w : Work) : Work.Kept w (leaveWindow w).1 := by
  unfold leaveWindow
  split
  · rename_i rest _
    have h := Work.modLine_kept (fun l => { l with window := rest }) w
    exact .ite_fst (.ite_fst h (h.trans (offerBit_kept _ _))) (.refl w)
  · exact .refl w

theorem takeFlag_kept (w : Work) : Work.Kept w (takeFlag w).1 := by
  have h := Work.modLine_kept (fun l => { l with window := [{ bit := false, flagEnd := true }], ones := 0 }) w
  unfold takeFlag
  simp only
  split
  · exact h.trans ⟨rfl, rfl, id⟩
  · exact h.trans (closeFrame_kept _)
  all_goals exact h

theorem takeAbort_kept (w : Work) : Work.Kept w (takeAbort w).1 := by
  have h := Work.modLine_kept (fun l => { l with window := [], ones := 0 }) w
  unfold takeAbort
  simp only
  split
  · exact h.trans ⟨rfl, rfl, id⟩
  · exact h.trans (abortFrame_kept _)
  all_goals exact h

theorem examineWindow_kept (w : Work) : Work.Kept w (examineWindow w).1 :=
  .ite_fst (takeFlag_kept _) (.ite_fst (takeAbort_kept _) (.refl _))

theorem takeBit_kept (b : Bool) (w : Work) : Work.Kept w (takeBit b w).1 :=
  ((((countBreak_kept b w).trans (leaveWindow_kept _)).trans (Work.modLine_kept _ _)).trans
    (examineWindow_kept _)).trans (settleLanes_kept _)

theorem takeBits_kept (l : List Bool) (w : Work) : Work.Kept w (takeBits l w).1 := by
  induction l generalizing w with
  | nil => exact .refl w
  | cons b rest ih =>
    unfold takeBits
    exact (takeBit_kept b w).trans (ih _)

theorem decodeSample_kept (ldat : Bool) (w : Work) : Work.Kept w (decodeSample ldat w).2 := by
  unfold decodeSample
  split
  · exact ⟨rfl, rfl, id⟩
  · exact .refl w

theorem passBuffered_kept (w : Work) : Work.Kept w (passBuffered w).1 :=
  (Work.modLine_kept _ w).trans (takeBits_kept _ _)

theorem freeEdge_kept (ldat : Bool) (w : Work) : Work.Kept w (freeEdge ldat w).1 := by
  unfold freeEdge
  split
  · exact .refl w
  · exact ((decodeSample_kept ldat w).trans (passBuffered_kept _)).trans (takeBits_kept _ _)

theorem busyEdge_kept (ldat : Bool) (w : Work) : Work.Kept w (busyEdge ldat w) := by
  unfold busyEdge
  split
  · exact .refl w
  · exact (decodeSample_kept ldat w).trans (Work.modLine_kept _ _)

theorem edgeWith_kept (e : LineEvent) (ldat : Bool) (w : Work) : Work.Kept w (edgeWith e ldat w) := by
  have h := freeEdge_kept ldat w
  exact .ite h (.refl w)

theorem lineHunt_kept (w : Work) : Work.Kept w (lineHunt w) := (Work.modLine_kept _ w).trans (writeLineStatus_kept _)

theorem lineOff_kept (w : Work) : Work.Kept w (lineOff w) := by
  unfold lineOff
  split
  · exact .refl w
  · refine Work.Kept.trans ?_ (writeLineStatus_kept _)
    refine Work.Kept.trans ?_ (Work.modLine_kept _ _)
    unfold dropFrame
    split
    · split
      · exact changeSlot_kept _ _ _
      · exact .refl w
    · exact .refl w

end Sys2Proof.Machine
end

