-- ==== Sys2Proof/Laws/Line.lean ====
section
/-! SUPPORT. What the shared operations of the line receiver answer while every access completes, and an edge as one
decoded bit. -/

namespace Sys2Proof.Machine

/-! ## The shared operations while every access completes -/

theorem statusWritten_bus {w : Work} (q : w.bus = []) : w.statusWritten.bus = [] := by
  simpa [Work.statusWritten] using q

theorem writeLineStatus_quiet {w : Work} (q : w.bus = []) : writeLineStatus w = w.statusWritten :=
  writeLineStatus_completes w q

theorem changeSlot_quiet {w : Work} (k : SlotNo) (st : SlotState) (q : w.bus = []) :
    changeSlot k st w = w.slotChanged k st := changeSlot_completes k st w q

theorem slotChanged_bus {w : Work} (k : SlotNo) (st : SlotState) (q : w.bus = []) : (w.slotChanged k st).bus = [] := q

theorem noteFirstLoss_quiet {w : Work} (r : LossReason) (q : w.bus = []) :
    noteFirstLoss r w =
      if w.mem.readWord (w.exchange 0x4A) = 0 then storeWord (w.exchange 0x4A) r.code w else w := by
  simp only [noteFirstLoss, readStation_completes _ _ _ _ q]
  split
  · simp only [writeStation_completes _ _ _ _ _ q]
  · rfl

theorem noteFirstLoss_bus {w : Work} (r : LossReason) (q : w.bus = []) : (noteFirstLoss r w).bus = [] := by
  rw [noteFirstLoss_quiet r q]; split <;> exact q

/-- A loss is counted and reported (R146). -/
theorem reportLoss_quiet {w : Work} (r : LossReason) (q : w.bus = []) : reportLoss r w = w.lossReported r := by
  have q1 : (w.modLine fun l => { l with losses := saturate16 l.losses 1 }).bus = [] := q
  unfold reportLoss
  rw [writeLineStatus_quiet (noteFirstLoss_bus r q1), noteFirstLoss_quiet r q1]
  rfl

theorem lossReported_bus {w : Work} (r : LossReason) (q : w.bus = []) : (w.lossReported r).bus = [] := by
  have q1 : (w.modLine fun l => { l with losses := saturate16 l.losses 1 }).bus = [] := q
  rw [← reportLoss_quiet r q]
  unfold reportLoss
  rw [writeLineStatus_quiet (noteFirstLoss_bus r q1)]
  have h := statusWritten_bus (noteFirstLoss_bus r q1)
  generalize (noteFirstLoss r (w.modLine fun l => { l with losses := saturate16 l.losses 1 })).statusWritten = v at h ⊢
  exact h

theorem discardSlot_quiet {w : Work} (k : SlotNo) (r : LossReason) (q : w.bus = []) :
    discardSlot k r w = (w.slotChanged k .free).lossReported r := by
  unfold discardSlot
  rw [changeSlot_quiet k .free q, reportLoss_quiet r (slotChanged_bus k .free q)]

theorem endFrame_quiet {w : Work} (b : Bool) (q : w.bus = []) : endFrame b w = w.frameEnded b := by
  have q1 : (w.modLine fun l =>
      { l with state := .hunt, flagSeen := b, frame := none, octetBits := [], zeros := 0 }).bus = [] := q
  unfold endFrame
  rw [writeLineStatus_quiet q1]
  rfl

/-- The sequence check (R148). -/
theorem checkSequence_quiet {w : Work} (o : Byte) (q : w.bus = []) : checkSequence o w = w.sequenced o := by
  have q1 : ∀ f : LineReceiver → LineReceiver, (w.modLine f).bus = [] := fun _ => q
  unfold checkSequence Work.sequenced
  cases w.line.expected with
  | none =>
    dsimp only
    rw [writeLineStatus_quiet (q1 _)]
    rfl
  | some e =>
    dsimp only
    by_cases h : e = o
    · rw [if_pos h, if_pos h, writeLineStatus_quiet (q1 _)]; rfl
    · rw [if_neg h, if_neg h, writeLineStatus_quiet (q1 _)]; rfl

theorem sequenced_bus {w : Work} (o : Byte) (q : w.bus = []) : (w.sequenced o).bus = [] := by
  unfold Work.sequenced
  split
  · exact statusWritten_bus q
  · split
    · exact statusWritten_bus q
    · have h : ∀ v : Work, v.bus = [] → (setCause .lineGap v).bus = [] := fun _ h => h
      exact h _ (statusWritten_bus q)

/-- A frame opens in slot `k` (R141). -/
theorem openSlot_quiet {w : Work} (k : SlotNo) (q : w.bus = []) :
    openSlot k w = (((w.modLine fun l => { l with state := .frame }).withFrame
      (Frame.opened w.crcOctets (some k))).slotChanged k .filling).statusWritten := by
  have q1 : ((((w.modLine fun l => { l with state := .frame }).withFrame
      (Frame.opened w.crcOctets (some k))).setSlot k .filling).bus = []) := q
  unfold openSlot writeSlotWord
  simp only [writeStation_completes _ _ _ _ _ q1]
  rw [writeLineStatus_quiet (by exact q)]
  rfl

/-- A frame opens with no slot FREE (R141). -/
theorem openSkipped_quiet {w : Work} (q : w.bus = []) :
    openSkipped w = (((w.modLine fun l => { l with state := .frame }).withFrame
      (Frame.opened w.crcOctets none)).lossReported .full).statusWritten := by
  have q1 : (((w.modLine fun l => { l with state := .frame }).withFrame (Frame.opened w.crcOctets none)).bus = []) := q
  unfold openSkipped
  dsimp only
  rw [reportLoss_quiet _ q1, writeLineStatus_quiet (lossReported_bus _ q1)]

/-- An octet of a frame that holds slot `k`: the word that it completes is stored (R142). -/
theorem frameOctetInSlot_quiet {w : Work} (k : SlotNo) (o : Byte) (f : Frame) (q : w.bus = []) :
    frameOctetInSlot k o f w =
      match f.enterDelay w.crcOctets o with
      | (none, f1) => w.withFrame f1
      | (some first, f1) =>
        match f1.absorb w.crcOctets w.payloadRoom first with
        | (f2, none) => w.withFrame f2
        | (f2, some (j, v)) => storeWord (w.payloadAddress k j) v (w.withFrame f2) := by
  have q1 : ∀ f, (w.withFrame f).bus = [] := fun _ => q
  unfold frameOctetInSlot
  rcases f.enterDelay w.crcOctets o with ⟨_ | first, f1⟩
  · rfl
  · simp only
    rcases f1.absorb w.crcOctets w.payloadRoom first with ⟨f2, _ | ⟨j, v⟩⟩
    · rfl
    · simp only [writeStation_completes _ _ _ _ _ (q1 f2)]

/-- Taking an octet changes the frame and station memory only, and no turn of the bus comes up. -/
theorem takeFrameOctet_quiet {w : Work} (o : Byte) (q : w.bus = []) :
    ∃ f m, takeFrameOctet o w = { w with mem := m, line := { w.line with frame := f } } := by
  unfold takeFrameOctet
  split
  · exact ⟨w.line.frame, w.mem, rfl⟩
  · split
    · rw [frameOctetInSlot_quiet _ _ _ q]
      split
      · exact ⟨_, _, rfl⟩
      · split
        · exact ⟨_, _, rfl⟩
        · exact ⟨_, _, rfl⟩
    · exact ⟨_, _, rfl⟩

theorem takeFrameOctet_bus {w : Work} (o : Byte) (q : w.bus = []) : (takeFrameOctet o w).bus = [] := by
  obtain ⟨f, m, e⟩ := takeFrameOctet_quiet o q
  rw [e]; exact q

theorem openFrame_bus {w : Work} (o : Byte) (q : w.bus = []) : (openFrame o w).bus = [] := by
  unfold openFrame
  apply takeFrameOctet_bus
  split
  · rw [openSlot_quiet _ q]; exact statusWritten_bus (slotChanged_bus _ _ q)
  · rw [openSkipped_quiet q]; exact statusWritten_bus (lossReported_bus _ q)

/-! ## The window -/

theorem leaveWindow_bus {w : Work} (q : w.bus = []) : (leaveWindow w).1.bus = [] := by
  unfold leaveWindow
  split
  · split
    · dsimp only
      split
      · exact q
      · unfold offerBit
        split
        · split
          · exact q
          · unfold takeDataBit
            dsimp only
            split
            · split
              · exact takeFrameOctet_bus _ q
              · exact openFrame_bus _ q
            · exact q
        · exact q
    · exact q
  · exact q

/-- In FRAME a bit that leaves the window leaves the line in FRAME. -/
theorem leaveWindow_frame {w : Work} (q : w.bus = []) (e : w.line.state = .frame) :
    (leaveWindow w).1.line.state = .frame := by
  unfold leaveWindow
  split
  · split
    · dsimp only
      split
      · exact e
      · unfold offerBit
        split
        · split
          · exact e
          · unfold takeDataBit
            dsimp only
            split
            · split
              · obtain ⟨f, m, h⟩ := takeFrameOctet_quiet (octetOf _) (w := Work.modLine _ (w.modLine _)) q
                rw [h]; exact e
              · exact absurd e ‹_›
            · exact e
        · exact e
    · exact e
  · exact e

/-- An edge that forms a bit passes that bit on (R136). -/
theorem freeEdge_of_edgeForms {w : Work} {ldat b : Bool} {l : LineReceiver} (h : w.EdgeForms ldat b l) :
    freeEdge ldat w = takeBit b { w with line := l } := by
  obtain ⟨_, no, hb, t, ht, h⟩ := h
  have c : ∀ r : Bool, (r == ldat) = decide (r = ldat) := fun r => by cases r <;> cases ldat <;> rfl
  cases w with
  | mk mem bus cause port time lanes line =>
    cases line
    dsimp only at hb ht no
    subst hb
    subst ht
    rcases h with ⟨hn, rfl, rfl⟩ | ⟨hn, r, hr, rfl, rfl⟩
    · simp [freeEdge, no, decodeSample, Work.codingIsNrzi, hn, passBuffered, takeBits, Work.modLine]
    · dsimp only at hr
      subst hr
      simp [freeEdge, no, decodeSample, Work.codingIsNrzi, hn, passBuffered, takeBits, Work.modLine, c]

/-- A window of which six bits are followed by one more 1 ends in an abort. -/
theorem windowIsAbort_of_six {window : List WindowBit} {old : List Bool}
    (h : window.map WindowBit.bit = old ++ [true, true, true, true, true, true]) :
    windowIsAbort (window ++ [{ bit := true, flagEnd := false }]) = true := by
  have n : window.length = old.length + 6 := by simpa using congrArg List.length h
  simp only [windowIsAbort, Bool.and_eq_true, decide_eq_true_eq, List.all_eq_true]
  refine ⟨by simp; omega, fun x hx => ?_⟩
  have m : x.bit ∈ ((window ++ [({ bit := true, flagEnd := false } : WindowBit)]).map WindowBit.bit).drop (old.length) := by
    rw [← List.map_drop]
    refine List.mem_map.mpr ⟨x, ?_, rfl⟩
    simpa [n] using hx
  rw [List.map_append, h] at m
  simp at m
  simpa using m

/-- A window that ends in a 1 is no flag. -/
theorem windowIsFlag_one (window : List WindowBit) (e : Bool) :
    windowIsFlag (window ++ [{ bit := true, flagEnd := e }]) = false := by
  unfold windowIsFlag flagBits
  refine decide_eq_false fun h => ?_
  have := congrArg List.getLast? h
  simp at this

end Sys2Proof.Machine
end

