-- ==== Sys2Proof/Laws/Render.lean ====
section
/-! SUPPORT. The way through a record: what a record met at a body's next words runs, and what one in hand runs. -/

namespace Sys2Proof.Machine

/-! ## The lanes as a vector -/

theorem Work.setLane_setLane (w : Work) (n : LaneNo) (l k : Lane) : (w.setLane n l).setLane n k = w.setLane n k := by
  simp [Work.setLane]

theorem Work.modLane_id (w : Work) (n : LaneNo) : (w.modLane n fun l => l) = w := by
  simp [Work.modLane, Work.setLane, Work.laneOf]

theorem State.modLane_modLane (s : State) (n : LaneNo) (f g : Lane → Lane) :
    (s.modLane n f).modLane n g = s.modLane n fun l => g (f l) := by
  simp [State.modLane, State.onWork, Work.modLane_modLane]

/-! ## Records -/

theorem modContext_eq (n : LaneNo) (f : Context → Context) (s : State) :
    modContext n f s = s.modLane n fun l => { l with context := f l.context } := rfl

theorem modProgress_eq (n : LaneNo) (f : Progress → Progress) (s : State) :
    modProgress n f s = s.modLane n fun l => { l with progress := f l.progress } := rfl

/-- The end of a record after its words have been read: the ordinal moves on, and the point is taken (R69, R87). -/
theorem completeRecord_eq (n : LaneNo) (s : State) : completeRecord n s = pointInside n (s.modLane n (Lane.recordTaken 0)) :=
  rfl

theorem suspendable_eq (n : LaneNo) (r : RecordInHand) (s : State) :
    suspendable n r s = pointInside n (s.modLane n (Lane.keepsInHand r)) := rfl

/-- After a row or octet, complete or not. -/
theorem afterRow_eq (n : LaneNo) (h k : Nat) (f : Nat → RecordInHand) (s : State) :
    afterRow n h k f s = pointInside n (s.modLane n (Lane.afterPart h k (f (k + 1)))) := by
  have e : Lane.afterPart h k (f (k + 1)) =
      if k + 1 < h then Lane.keepsInHand (f (k + 1)) else Lane.recordTaken 0 := by
    funext l
    unfold Lane.afterPart
    split <;> rfl
  rw [e]
  unfold afterRow
  by_cases c : k + 1 < h
  · rw [if_neg (by omega), if_pos c]; rfl
  · rw [if_pos (by omega), if_neg c]; rfl

/-- Words read one after another from station memory. -/
theorem map_readWord_wordRun (m : Memory) (a : Addr) (ws : List Word)
    (h : ∀ i, (hi : i < ws.length) → m.readWord (addressPlus a (2 * i)) = ws[i]) :
    (wordRun a ws.length).map m.readWord = ws := by
  refine List.ext_getElem (by simp [wordRun]) fun i h1 h2 => ?_
  simp only [wordRun, List.getElem_map, List.getElem_range]
  exact h i h2

/-- The address of a word of a body, from an earlier one. -/
theorem bodyAddress_add (w : Work) (n : LaneNo) (i j : Nat) :
    w.bodyAddress n (i + j) = addressPlus (w.bodyAddress n i) (2 * j) := by
  unfold Work.bodyAddress addressPlus
  rw [BitVec.add_assoc, ← BitVec.ofNat_add]
  congr 2
  omega

/-- A record that is met at the body's next words is carried out with those words read (R87). -/
theorem runRecord_of_meets {n : LaneNo} {s : State} {head : Word} {ws : List Word} {k : RecordKind}
    (h : s.MeetsRecord n (head :: ws)) (hk : recordKind head = k)
    (hl : recordLength k (recordImmediate head) = ws.length + 1) (resume : LaneNo → RecordInHand → State → State)
    (act : LaneNo → RecordWords → State → State) :
    runRecord k resume act s =
      act n { imm := recordImmediate head, words := ws } (s.modLane n (Lane.wordsRead (ws.length + 1))) := by
  have q : s.work.bus = [] := h.quiet
  have fits := h.fits
  simp only [List.length_cons] at fits
  have atEnd : (s.progressOf n).atEnd = false := by
    simp only [Progress.atEnd, h.notInHand, Option.isNone_none, Bool.true_and, decide_eq_false_iff_not]
    omega
  have h0 : s.work.mem.readWord (s.work.bodyAddress n (s.progressOf n).nextWord) = head := by
    have e := h.words 0 (by simp)
    simp only [Nat.add_zero, List.getElem_cons_zero] at e
    exact e
  have rest : (wordRun (s.work.bodyAddress n ((s.progressOf n).nextWord + 1)) ws.length).map s.work.mem.readWord = ws := by
    refine map_readWord_wordRun _ _ _ fun i hi => ?_
    have e := h.words (i + 1) (by simpa using hi)
    simp only [List.getElem_cons_succ] at e
    rw [← bodyAddress_add, show (s.progressOf n).nextWord + 1 + i = (s.progressOf n).nextWord + (i + 1) by omega]
    exact e
  unfold runRecord
  simp only [h.served, h.notInHand, atEnd]
  unfold takeRecord
  rw [readStation_completes _ _ _ _ q, h0]
  simp only [hk, if_true]
  unfold checkLength
  simp only [hk, hl]
  have long : ¬(s.progressOf n).bodyLength < (s.progressOf n).nextWord + (ws.length + 1) := by omega
  have eta : ({ s with work := s.work } : State) = s := rfl
  rw [eta, if_neg long]
  unfold readRecordBody
  simp only [Nat.add_sub_cancel]
  rw [readStationList_completes _ _ _ _ q, rest]
  rfl

/-- A record in hand goes on (R69). -/
theorem runRecord_of_inHand {n : LaneNo} {s : State} {r : RecordInHand} (h : s.HasInHand n r)
    (resume : LaneNo → RecordInHand → State → State) (act : LaneNo → RecordWords → State → State) :
    runRecord r.kind resume act s = resume n r s := by
  unfold runRecord
  simp only [h.served, h.inHand, if_true]

end Sys2Proof.Machine
end

