-- ==== Sys2Proof/Laws/Lanes.lean ====
section
/-! SUPPORT. The shared operations of the lane unit while every access completes, and what a lane record that is not
written whole, a link or a block header that cannot be read leaves. -/

namespace Sys2Proof.Machine

theorem release_of_other {w : Work} {n : LaneNo} (h : w.activeLane ≠ some n) : w.release n = w := if_neg h

theorem release_of_active {w : Work} {n : LaneNo} (h : w.activeLane = some n) :
    w.release n = { w with lanes := { w.lanes with activeValid := false } } := if_pos h

theorem release_bus {w : Work} (n : LaneNo) : (w.release n).bus = w.bus := by unfold Work.release; split <;> rfl

theorem release_modLane (n : LaneNo) (f : Lane → Lane) (w : Work) :
    (w.release n).modLane n f = (w.modLane n f).release n := by
  unfold Work.release
  by_cases h : w.activeLane = some n
  · rw [if_pos h, if_pos (by exact h)]; rfl
  · rw [if_neg h, if_neg (by exact h)]

theorem release_release (n : LaneNo) (w : Work) : (w.release n).release n = w.release n := by
  by_cases h : w.activeLane = some n
  · rw [release_of_active h, release_of_other]
    simp [Work.activeLane]
  · rw [release_of_other h, release_of_other h]

theorem release_withFailure (n : LaneNo) (i : Nat) (answer : BusAnswer) (w : Work) :
    (w.withFailure i answer).release n = (w.release n).withFailure i answer := by
  unfold Work.release
  by_cases h : w.activeLane = some n
  · rw [if_pos h, if_pos (by exact h)]; rfl
  · rw [if_neg h, if_neg (by exact h)]

theorem release_failureNoted (n : LaneNo) (kind unit lane : Word) (a : Addr) (w : Work) :
    (w.release n).failureNoted kind unit lane a = (w.failureNoted kind unit lane a).release n := by
  have e : (w.failureNoted kind unit lane a).activeLane = w.activeLane := by
    unfold Work.activeLane
    rw [(failureNoted_busOnly _ _ _ _ _).lanes]
  by_cases h : w.activeLane = some n
  · rw [release_of_active h, release_of_active (e.trans h), failureNoted_withLanes, (failureNoted_busOnly _ _ _ _ _).lanes]
  · rw [release_of_other h, release_of_other (by rw [e]; exact h)]

/-- A lane that leaves its block (R63, R74). -/
theorem leaveBlock_eq (n : LaneNo) (st : LaneState) (a : Addr) (w : Work) :
    w.leaveBlock n st a = (w.modLane n (Lane.without st a)).release n := rfl

theorem leaveBlock_bus {w : Work} (n : LaneNo) (st : LaneState) (a : Addr) (q : w.bus = []) :
    (w.leaveBlock n st a).bus = [] := by rw [leaveBlock_eq, release_bus]; exact q

theorem recorded_bus {w : Work} (n : LaneNo) (q : w.bus = []) : (w.recorded n).bus = [] := by
  simpa [Work.recorded] using q

theorem writeLaneRecord_quiet {w : Work} (n : LaneNo) (a : Addr) (q : w.bus = []) :
    writeLaneRecord n a w = w.recorded n := writeLaneRecord_completes n a w q

/-- A fetch (R53). -/
theorem fetchBlock_quiet {w : Work} (n : LaneNo) (a : Addr) (q : w.bus = []) :
    fetchBlock n a w = ((w.modLane n (Lane.fetched a (w.mem.readWord (addressPlus a 2))
      (w.mem.readWord (addressPlus a 4)))).release n).recorded n := by
  unfold fetchBlock
  rw [readStationList_completes _ _ _ _ q]
  dsimp only [List.map]
  rw [writeLaneRecord_quiet n 0 (by rw [release_bus]; exact q)]

/-- A link read (R54). -/
theorem readLink_quiet {w : Work} (n : LaneNo) (a : Addr) (q : w.bus = []) :
    readLink n a w =
      (if w.mem.readWord a = 0 then .none
        else if addressEven (address20 (w.mem.readWord a) (w.mem.readWord (addressPlus a 2))) = true then
          .block (address20 (w.mem.readWord a) (w.mem.readWord (addressPlus a 2)))
        else .notValid, w) := by
  unfold readLink
  simp only [readStation_completes _ _ _ _ q]
  split
  · rfl
  · split <;> rfl

/-- The report of a FAULTED lane (R50). -/
theorem faultAttempt_quiet {w : Work} (n : LaneNo) (r : LaneFaultReason) (q : w.bus = []) :
    faultAttempt n r w = (true, storeWords
      ((if w.mem.readWord (w.laneRecord n 0xE) = 0 then [(w.laneRecord n 0xE, r.code)] else []) ++ w.laneRecordWords n) w) := by
  unfold faultAttempt
  simp only [readStation_completes _ _ _ _ q]
  split
  · rw [writeStationList_completes _ _ _ _ q]; rfl
  · rw [writeStationList_completes _ _ _ _ q]; rfl

/-- A lane that enters FAULTED (R50). -/
theorem leaveBlock_faulted (n : LaneNo) (a : Addr) (w : Work) : w.leaveBlock n .faulted a = w.laneLost n a := rfl

/-- A lane that was given back before it enters FAULTED is given back there otherwise (R50, R56). -/
theorem faulted_release (n : LaneNo) (reason : LaneFaultReason) (a : Addr) (w : Work) :
    (w.release n).faulted n reason a = w.faulted n reason a := by
  unfold Work.faulted
  rw [← leaveBlock_faulted, ← leaveBlock_faulted, leaveBlock_eq, leaveBlock_eq, release_modLane, release_release]

theorem freeHeldSlot_bus {w : Work} (q : w.bus = []) : (freeHeldSlot w).bus = [] := by
  unfold freeHeldSlot
  split
  · exact q
  · rw [changeSlot_quiet _ _ (by exact q)]; exact slotChanged_bus _ _ (by exact q)

/-- The lane unit reports a FAULTED lane (R50); lane 3 has given up the slot it held (R80). -/
theorem enterFaulted_quiet {w : Work} (n : LaneNo) (r : LaneFaultReason) (a : Addr) (b : Bool) (q : w.bus = []) :
    enterFaulted n r a b w = (if n = 3 then freeHeldSlot w else w).faulted n r a := by
  have q1 : (if n = 3 then freeHeldSlot w else w).bus = [] := by
    split
    · exact freeHeldSlot_bus q
    · exact q
  unfold enterFaulted
  simp only
  rw [faultAttempt_quiet n r (leaveBlock_bus n _ a q1), leaveBlock_faulted]
  rfl

/-- A write error on a lane record makes the lane FAULTED (R77). -/
theorem writeLaneRecord_fails {w : Work} (n : LaneNo) (retired : Addr) (j : Nat) (stored : Bool) (hj : j < 5)
    (q : w.bus = []) :
    writeLaneRecord n retired (w.withFailure j (.noAnswer stored)) =
      enterFaulted n .memory (if (w.laneOf n).state.holdsBlock then (w.laneOf n).current else retired) true
        (w.cutShort j stored 3 (BitVec.ofNat 16 n.val) (w.laneRecordWords n)) := by
  have e : (w.withFailure j (.noAnswer stored)).laneRecordWords n = w.laneRecordWords n := rfl
  have l : (w.cutShort j stored 3 (BitVec.ofNat 16 n.val) (w.laneRecordWords n)).laneOf n = w.laneOf n := by
    unfold Work.laneOf
    rw [(cutShort_busOnly _ _ _ _ _ _).lanes]
  unfold writeLaneRecord
  have f : writeStationList .lane (some n) (w.laneRecordWords n) (w.withFailure j (.noAnswer stored)) =
      (false, w.cutShort j stored 3 (BitVec.ofNat 16 n.val) (w.laneRecordWords n)) :=
    writeStationList_fails .lane (some n) (w.laneRecordWords n) j hj stored w q
  rw [e, f]
  simp only [l]

theorem enterFaulted_hostLane {w : Work} (n : LaneNo) (r : LaneFaultReason) (a : Addr) (b : Bool) (h : n ≠ 3)
    (q : w.bus = []) : enterFaulted n r a b w = w.faulted n r a := by rw [enterFaulted_quiet n r a b q, if_neg h]

/-- A read error on a link (R54). -/
theorem readLink_fails {w : Work} (n : LaneNo) (a : Addr) (i : Nat) {answer : BusAnswer} {kind : Word}
    (f : answer.FailsRead kind) (q : w.bus = []) (h : i = 0 ∨ (i = 1 ∧ w.mem.readWord a ≠ 0)) :
    readLink n a (w.withFailure i answer) =
      (.readError, w.failureNoted kind 3 (BitVec.ofNat 16 n.val) (a + BitVec.ofNat 20 (2 * i))) := by
  unfold readLink
  rcases h with rfl | ⟨rfl, h⟩
  · rw [readStation_fails .lane (some n) a w q f]
    simp [MemUnit.code, laneCode]
  · rw [show (1 : Nat) = 0 + 1 from rfl, readStation_before]
    simp only [h, if_false]
    rw [readStation_fails .lane (some n) _ w q f]
    rfl

/-- A link that is none is one read. -/
theorem readLink_none_before {w : Work} (n : LaneNo) (a : Addr) (i : Nat) (answer : BusAnswer) (h : w.mem.readWord a = 0) :
    readLink n a (w.withFailure (1 + i) answer) = (.none, w.withFailure i answer) := by
  unfold readLink
  rw [Nat.add_comm, readStation_before]
  simp [h]

/-- A link that names a block is two reads. -/
theorem readLink_block_before {w : Work} (n : LaneNo) (a : Addr) (i : Nat) (answer : BusAnswer) (h : w.mem.readWord a ≠ 0)
    (b : Addr) (e : b = address20 (w.mem.readWord a) (w.mem.readWord (addressPlus a 2))) (even : addressEven b = true) :
    readLink n a (w.withFailure (2 + i) answer) = (.block b, w.withFailure i answer) := by
  unfold readLink
  rw [show 2 + i = (i + 1) + 1 by omega, readStation_before]
  simp only [h, if_false]
  rw [readStation_before]
  simp only [← e, even, if_true]

/-- A read error on a block header (R75). -/
theorem fetchBlock_header_fails {w : Work} (n : LaneNo) (b : Addr) (i : Nat) {answer : BusAnswer} {kind : Word}
    (f : answer.FailsRead kind) (q : w.bus = []) (hn : n ≠ 3) (h : i < 2) :
    fetchBlock n b (w.withFailure i answer) =
      (w.failureNoted kind 3 (BitVec.ofNat 16 n.val) (b + BitVec.ofNat 20 (2 + 2 * i))).faulted n .memory b := by
  unfold fetchBlock
  rw [readStationList_fails .lane (some n) [addressPlus b 2, addressPlus b 4] i h w q f]
  simp only
  rw [enterFaulted_hostLane _ _ _ _ hn (by simpa using q)]
  obtain rfl | rfl : i = 0 ∨ i = 1 := by omega
  · rfl
  · rfl

/-- A write error on the lane record of a fetch: the fetched block is in hand (R50, R77; log 39). -/
theorem fetchBlock_record_fails {w : Work} (n : LaneNo) (b : Addr) (j : Nat) (stored : Bool) (q : w.bus = []) (hn : n ≠ 3)
    (hj : j < 5) (v : Work)
    (e : v = (w.modLane n (Lane.fetched b (w.mem.readWord (b + 2)) (w.mem.readWord (b + 4)))).release n) :
    fetchBlock n b (w.withFailure (2 + j) (.noAnswer stored)) =
      (v.cutShort j stored 3 (BitVec.ofNat 16 n.val) (v.laneRecordWords n)).faulted n .memory b := by
  have header := readStationList_before .lane (some n) [addressPlus b 2, addressPlus b 4] j (.noAnswer stored) w
  simp only [List.length_cons, List.length_nil, Nat.zero_add, Nat.reduceAdd] at header
  have taken : ((w.withFailure j (.noAnswer stored)).modLane n
      (Lane.fetched b (w.mem.readWord (b + 2)) (w.mem.readWord (b + 4)))).release n = v.withFailure j (.noAnswer stored) := by
    rw [e, ← release_withFailure]
    rfl
  have qv : v.bus = [] := by rw [e, release_bus]; exact q
  have lane : v.laneOf n = Lane.fetched b (w.mem.readWord (b + 2)) (w.mem.readWord (b + 4)) (w.laneOf n) := by
    rw [e]
    unfold Work.release
    split <;> simp [Work.laneOf, Work.modLane, Work.setLane]
  unfold fetchBlock
  rw [header]
  refine Eq.trans (congrArg (writeLaneRecord n 0) taken) ?_
  rw [writeLaneRecord_fails n 0 j stored hj qv, enterFaulted_hostLane _ _ _ _ hn (by simpa using qv), lane]
  rfl

/-- The QUEUED slots are freed (R81, R153). -/
theorem freeQueuedSlots_quiet {w : Work} (q : w.bus = []) : freeQueuedSlots w = w.queuedFreed ∧ w.queuedFreed.bus = [] := by
  have fold : ∀ (l : List PendingSlot) (v : Work), v.bus = [] →
      l.foldl (fun w p => changeSlot p.slot .free w) v = l.foldl (fun w p => w.slotChanged p.slot .free) v ∧
        (l.foldl (fun w p => w.slotChanged p.slot .free) v).bus = [] := by
    intro l
    induction l with
    | nil => exact fun v h => ⟨rfl, h⟩
    | cons p rest ih =>
      intro v h
      simp only [List.foldl_cons, changeSlot_quiet _ _ h]
      exact ih _ (slotChanged_bus _ _ h)
  exact fold _ _ q

end Sys2Proof.Machine
end

