-- ==== Sys2Proof/Laws/Panel.lean ====
section
/-! SUPPORT. The columns of a row bit by bit, and the plane store's operations: what a row's paint, a join, a rebuild and
a marker's definition or removal leave. -/

namespace Sys2Proof.Machine

/-! ## Columns -/

theorem getLsbD_colsWhere (p : Fin 512 → Bool) (x : Fin 512) : (colsWhere p).getLsbD x.val = p x := by
  simp [colsWhere]

theorem getLsbD_colsFrom (n : Nat) (x : Fin 512) : (colsFrom n).getLsbD x.val = decide (n ≤ x.val) := by
  have h := x.isLt
  rw [colsFrom, BitVec.getLsbD_shiftLeft, BitVec.getLsbD_allOnes]
  by_cases c : n ≤ x.val
  · have d : x.val - n < 512 := by omega
    simp [c, d]
  · simp [c]

theorem getLsbD_colsSpan (a : Int) (w : Nat) (x : Fin 512) :
    (colsSpan a w).getLsbD x.val = decide (a ≤ x.val ∧ (x.val : Int) < a + w) := by
  rw [colsSpan, BitVec.getLsbD_and, BitVec.getLsbD_not, getLsbD_colsFrom, getLsbD_colsFrom]
  simp only [x.isLt, decide_true, Bool.true_and]
  by_cases c : a ≤ x.val <;> by_cases d : (x.val : Int) < a + w
  · rw [decide_eq_true (by omega : a.toNat ≤ x.val), decide_eq_false (by omega : ¬(a + w).toNat ≤ x.val)]; simp [c, d]
  · rw [decide_eq_true (by omega : a.toNat ≤ x.val), decide_eq_true (by omega : (a + w).toNat ≤ x.val)]; simp [d]
  · rw [decide_eq_false (by omega : ¬a.toNat ≤ x.val)]; simp [c]
  · rw [decide_eq_false (by omega : ¬a.toNat ≤ x.val)]; simp [c]

/-- A box row placed at column `a`: panel column `x` holds box column `x - a`. -/
theorem getLsbD_placeCols (a : Int) (pattern : Cols) (x : Fin 512) :
    (placeCols a pattern).getLsbD x.val = (decide (a ≤ x.val) && pattern.getLsbD (x.val - a).toNat) := by
  have h := x.isLt
  unfold placeCols
  by_cases c : 0 ≤ a
  · rw [if_pos c, BitVec.getLsbD_shiftLeft]
    by_cases d : a ≤ x.val
    · have e : (x.val - a).toNat = x.val - a.toNat := by omega
      have f : ¬x.val < a.toNat := by omega
      simp [d, e, f]
    · have f : x.val < a.toNat := by omega
      simp [d, f]
  · rw [if_neg c, BitVec.getLsbD_ushiftRight]
    have e : (x.val - a).toNat = (-a).toNat + x.val := by omega
    have f : a ≤ x.val := by omega
    simp [e, f]

theorem getLsbD_columnsInside (c : Context) (x : Fin 512) :
    c.columnsInside.getLsbD x.val = decide (c.clipX0 ≤ x.val ∧ x.val ≤ c.clipX1) := by
  rw [Context.columnsInside, BitVec.getLsbD_and, BitVec.getLsbD_not, getLsbD_colsFrom, getLsbD_colsFrom]
  simp only [x.isLt, decide_true, Bool.true_and]
  by_cases a : c.clipX0 ≤ x.val <;> by_cases b : x.val ≤ c.clipX1
  · rw [decide_eq_false (by omega : ¬c.clipX1 + 1 ≤ x.val)]; simp [a, b]
  · rw [decide_eq_true (by omega : c.clipX1 + 1 ≤ x.val)]; simp [b]
  · simp [a]
  · simp [a]

/-! ## Joining -/

/-- A join appends the row or leaves the panel as it is (R10). -/
theorem Panel.join_eq (r : Row) (p : Panel) :
    p.join r = { p with queue := p.queue ++ if p.rowState r = .clean ∧ p.differs r = true then [r] else [] } := by
  unfold Panel.join Panel.append
  split <;> simp_all

/-- Joins change the queue only. -/
theorem Panel.joinRows_eq (l : List Row) (p : Panel) : ∃ q, Panel.joinRows l p = { p with queue := p.queue ++ q } := by
  induction l generalizing p with
  | nil => exact ⟨[], by simp [Panel.joinRows]⟩
  | cons r rest ih =>
    obtain ⟨q, e⟩ := ih (p.join r)
    refine ⟨(if p.rowState r = .clean ∧ p.differs r = true then [r] else []) ++ q, ?_⟩
    rw [Panel.joinRows, e, Panel.join_eq]
    simp

/-- The CLEAN rows of a list join in the order given where each of them differs. -/
theorem Panel.joinRows_queue (l : List Row) (p : Panel) (h : l.Nodup)
    (d : ∀ r ∈ l, p.rowState r = .clean → p.differs r = true) :
    Panel.joinRows l p = { p with queue := p.queue ++ l.filter fun r => decide (p.rowState r = .clean) } := by
  induction l generalizing p with
  | nil => simp [Panel.joinRows]
  | cons r rest ih =>
    have hr := d r (by simp)
    have nd := List.nodup_cons.mp h
    have step : p.join r = { p with queue := p.queue ++ if p.rowState r = .clean then [r] else [] } := by
      rw [Panel.join_eq]
      by_cases c : p.rowState r = .clean
      · simp [c, hr c]
      · simp [c]
    have same : ∀ q ∈ rest, ((p.join r).rowState q = .clean ↔ p.rowState q = .clean) := by
      intro q hq
      have ne : q ≠ r := fun e => nd.1 (e ▸ hq)
      have fire : (p.join r).firingRow = p.firingRow := by rw [step]; rfl
      have mem : q ∈ (p.join r).queue ↔ q ∈ p.queue := by
        rw [step]
        by_cases c : p.rowState r = .clean <;> simp [c, ne]
      unfold Panel.rowState
      rw [fire]
      simp only [mem]
    rw [Panel.joinRows, ih (p.join r) nd.2 fun q hq c => by
      have := d q (by simp [hq]) ((same q hq).mp c)
      rw [step]
      exact this]
    have filtered : rest.filter (fun q => decide ((p.join r).rowState q = .clean)) =
        rest.filter fun q => decide (p.rowState q = .clean) :=
      List.filter_congr fun q hq => decide_eq_decide.mpr (same q hq)
    rw [filtered, step]
    by_cases c : p.rowState r = .clean <;> simp [c]

/-- The row state reads the pulse and the queue only (R7). -/
theorem Panel.rowState_congr {p q : Panel} (h : p.driver.pulse = q.driver.pulse) (k : p.queue = q.queue) (r : Row) :
    p.rowState r = q.rowState r := by
  unfold Panel.rowState Panel.firingRow
  rw [h, k]

/-- Painting one row changes the drawn plane there and the queue only (R6, R85). -/
theorem Panel.paintRow_eq (c : Context) (y : Int) (ones zeros : Cols) (p : Panel) :
    ∃ d q, (p.paintRow c y ones zeros).1 = { p with drawn := d, queue := p.queue ++ q } := by
  unfold Panel.paintRow
  split
  · exact ⟨p.drawn, [], by simp⟩
  · dsimp only
    split
    · split
      · exact ⟨p.drawn, [], by simp⟩
      · rw [Panel.join_eq]; exact ⟨_, _, rfl⟩
    · exact ⟨p.drawn, [], by simp⟩

/-- Painting rows changes the drawn plane and the queue only. -/
theorem Panel.paintRows_eq (c : Context) (l : List PaintedRow) (p : Panel) :
    ∃ d q, (Panel.paintRows c l p).1 = { p with drawn := d, queue := p.queue ++ q } := by
  induction l generalizing p with
  | nil => exact ⟨p.drawn, [], by simp [Panel.paintRows]⟩
  | cons row rest ih =>
    obtain ⟨d1, q1, e1⟩ := p.paintRow_eq c row.y row.ones row.zeros
    obtain ⟨d2, q2, e2⟩ := ih (p.paintRow c row.y row.ones row.zeros).1
    refine ⟨d2, q1 ++ q2, ?_⟩
    rw [Panel.paintRows]
    dsimp only
    rw [e2, e1]
    simp

/-! ## Markers and the joins they bring -/

/-- A row agrees where its target is P and nothing is doubted (R5). -/
theorem Panel.differs_eq_false (p : Panel) (r : Row) :
    p.differs r = false ↔ p.drawn[r.val] ^^^ p.overlayRow r = p.panel[r.val] ∧ p.doubt[r.val] = 0 := by
  unfold Panel.differs Panel.differingCells Panel.targetRow
  rw [bne_eq_false_iff_eq, show (0 : Cols) = 0#512 from rfl, BitVec.or_eq_zero_iff, BitVec.xor_eq_zero_iff]

/-- The cells of a row that a marker inverts are those it covers (R4). -/
theorem Marker.getLsbD_rowMask (m : Marker) (r : Row) (x : Fin 512) : (m.rowMask r).getLsbD x.val = m.covers x r := by
  unfold Marker.rowMask Marker.covers Marker.inverts Marker.reaches
  by_cases on : (m.active && m.on) = true
  · by_cases y : m.y ≤ r.val ∧ r.val < m.y + m.h
    · simp only [on, y.1, y.2, decide_true, Bool.and_self, if_true, Bool.true_and, Bool.and_true, and_self, getLsbD_colsSpan]
      exact decide_eq_decide.mpr (by omega)
    · rw [if_neg (by simpa [on] using y), decide_eq_false y]
      simp
  · simp [on]

/-- A row that agreed differs once a marker inverts other cells of it (R4, R5). -/
theorem Panel.differs_setMarker (p : Panel) (m : Fin 2) (k : Marker) (r : Row) (a : p.differs r = false)
    (h : k.rowMask r ≠ p.markers[m.val].rowMask r) : (p.setMarker m k).differs r = true := by
  by_contra c
  have c : (p.setMarker m k).differs r = false := by simpa using c
  rw [Panel.differs_eq_false] at a c
  have same : (p.setMarker m k).overlayRow r = p.overlayRow r := by
    have e := congrArg (fun b => p.drawn[r.val] ^^^ b) (c.1.trans a.1.symm)
    simpa [Panel.setMarker, ← BitVec.xor_assoc] using e
  unfold Panel.overlayRow Panel.setMarker at same
  match m with
  | 0 => exact h (by simpa using same)
  | 1 => exact h (by simpa using same)

theorem colsSpan_ne_zero (x w : Nat) (h : x + w ≤ 512) (hw : 1 ≤ w) : colsSpan x w ≠ 0 := by
  intro e
  have g := getLsbD_colsSpan (x : Int) w ⟨x, by omega⟩
  rw [e] at g
  have c : decide ((x : Int) ≤ ((x : Nat) : Int) ∧ ((x : Nat) : Int) < x + w) = true := by simp; omega
  rw [c] at g
  simp at g

theorem Marker.rows_nodup (k : Marker) : k.rows.Nodup := (List.nodup_finRange 512).filter _

theorem Marker.mem_rows (k : Marker) (r : Row) : r ∈ k.rows ↔ k.reaches r = true := by simp [Marker.rows, allRows]

/-- The CLEAN rows of an on-marker that is removed join; another leaves the queue as it is (R127, R128). -/
theorem Panel.removeMarker_eq (m : Fin 2) (p : Panel) (hs : p.Sound) (hl : p.markers[m.val].Legal) :
    p.removeMarker m = { p with
      markers := p.markers.set m.val { p.markers[m.val] with active := false, on := false }
      queue := p.queue ++ if (p.markers[m.val].active && p.markers[m.val].on) = true then
        p.markers[m.val].rows.filter (fun r => decide (p.rowState r = .clean)) else [] } := by
  unfold Panel.removeMarker
  simp only [Marker.inverts]
  by_cases h : (p.markers[m.val].active && p.markers[m.val].on) = true
  · rw [Panel.joinRows_queue _ _ (Marker.rows_nodup _)]
    · simp only [h, if_true]
      rfl
    · intro r hr c
      have c : p.rowState r = .clean := c
      have hr := (Marker.mem_rows _ r).mp hr
      simp only [Bool.and_eq_true] at h
      refine Panel.differs_setMarker p m _ r (hs.cleanAgrees r c) ?_
      have l := hl h.1
      unfold Marker.rowMask Marker.inverts
      simp only [h.1, h.2, hr, Bool.and_self, if_true, Bool.false_and, Bool.false_eq_true, if_false]
      exact (colsSpan_ne_zero _ _ l.1 l.2.2.1).symm
  · simp [Panel.setMarker, h]

/-- No lane waits in a DRAIN: there is nothing to complete (R65). -/
theorem completeDrains_of_none {w : Work} (h : w.noneDraining) : completeDrains w = w := by
  have fold : ∀ l : List LaneNo, l.foldl (fun w n => completeDrain n w) w = w := by
    intro l
    induction l with
    | nil => rfl
    | cons n rest ih =>
      rw [List.foldl_cons, show completeDrain n w = w from if_neg (h n)]
      exact ih
  exact fold _

/-- The settled flag, where no lane waits in a DRAIN at an entry into settled (R18). -/
theorem noteSettled_of_none {s : State} (h : s.panel.isSettled = true → s.panel.settled = false → s.work.noneDraining) :
    noteSettled s = { s with
      panel := { s.panel with settled := s.panel.isSettled }
      work := { s.work with cause :=
        if s.panel.isSettled = true ∧ s.panel.settled = false then s.work.cause ||| Cause.settled.mask else s.work.cause } } := by
  unfold noteSettled
  simp only
  split
  · rename_i c
    unfold settledEntry State.onWork
    simp only
    have none : (setCause .settled s.work).noneDraining := h c.1 c.2
    rw [completeDrains_of_none none]
    rfl
  · rfl

theorem Panel.startTest_settled (p : Panel) : p.startTest.settled = p.settled := by
  unfold Panel.startTest
  split
  · split
    · rfl
    · unfold Panel.take
      split <;> rfl
  · rfl

/-- While the plane store is not settled, nothing starts and nothing is found stale: the driver is not IDLE, or the supply is
not READY (R30, R31). -/
theorem Panel.Sound.waits {p : Panel} (h : p.Sound) (c : p.isSettled = false) :
    ¬(p.driver.state = .idle ∧ p.supply.state = .ready) := by
  intro i
  have n := h.nothingWaits i.1 i.2
  have pulse := h.noPulse.mpr (Or.inl i.1)
  simp [Panel.isSettled, n.1, n.2, pulse] at c

/-- A change of the markers by which these rows have joined: the start test ends it (R10, R18, R31). -/
theorem changeTarget_joins {s : State} (f : Panel → Panel) (markers : Vector Marker 2) (joined : List Row)
    (h : f s.panel = { s.panel with markers := markers, queue := s.panel.queue ++ joined })
    (hs : s.panel.Sound) (d : s.DrainsWait) :
    changeTarget f s =
      let p := ({ s.panel with markers := markers } : Panel).withJoins joined
      { s with
        panel := p
        work := { s.work with cause :=
          if joined ≠ [] ∧ p.settled = true then s.work.cause ||| Cause.settled.mask else s.work.cause } } := by
  have k := hs.settledFlag
  have longer (e : joined ≠ []) : s.panel.queue.length < (s.panel.queue ++ joined).length := by
    have := List.length_pos_iff.mpr e
    simp
    omega
  have unsettled (e : joined ≠ []) :
      Panel.isSettled { s.panel with markers := markers, queue := s.panel.queue ++ joined } = false := by
    simp [Panel.isSettled, e]
  have first : ∀ v : State, v.panel = { s.panel with markers := markers, queue := s.panel.queue ++ joined } →
      v.panel.isSettled = true → v.panel.settled = false → v.work.noneDraining := by
    intro v e i n
    rw [e] at i n
    by_cases none : joined = []
    · subst none
      have same : Panel.isSettled { s.panel with markers := markers, queue := s.panel.queue ++ [] } = s.panel.isSettled := by
        simp [Panel.isSettled]
      rw [same, ← k] at i
      exact absurd (i.symm.trans n) (by simp)
    · rw [unsettled none] at i
      cases i
  unfold changeTarget changePanel
  rw [noteSettled_of_none (first _ (by simp [State.onPanel, h]))]
  simp only [State.onPanel, h]
  by_cases e : joined = []
  · subst e
    simp only [Panel.withJoins, if_true, ne_eq, not_true_eq_false, false_and, if_false, List.append_nil]
    rw [if_neg (by simp)]
    show State.mk _ _ _ _ = State.mk _ _ _ _
    congr 1
    · rw [if_neg]
      show ¬(s.panel.isSettled = true ∧ s.panel.settled = false)
      rw [k]
      simp
    · rw [show (Panel.isSettled { s.panel with markers := markers, queue := s.panel.queue }) = s.panel.settled from k.symm]
  · rw [if_pos (longer e)]
    unfold startTest changePanel
    rw [noteSettled_of_none]
    · simp only [State.onPanel, Panel.startTest_settled, unsettled e]
      simp only [Panel.withJoins, e, if_false, ne_eq, not_false_eq_true, true_and, Bool.false_eq_true, false_and, and_true,
        Panel.isSettled]
    · intro i _
      cases old : s.panel.settled
      · exfalso
        have idle := hs.waits (k.symm.trans old)
        simp only [State.onPanel] at i
        rw [show Panel.startTest _ = _ from if_neg (by exact idle)] at i
        simp [Panel.isSettled, e] at i
      · exact d old

end Sys2Proof.Machine
end

