-- ==== Sys2Proof/Laws/Tick.lean ====
section
/-! SUPPORT. A tick: what no block's part of it touches, when it is counted, and what it leaves of the queue, the glyphs, the
clock and the canonical form. -/

namespace Sys2Proof.Machine

/-! ## The panel's events -/

/-- The two cases of the settled flag. -/
theorem noteSettled_cases (s : State) :
    let noted : State := { s with panel := { s.panel with settled := s.panel.isSettled } }
    noteSettled s = noted ∨ noteSettled s = settledEntry noted := by
  intro noted
  by_cases c : s.panel.isSettled = true ∧ s.panel.settled = false
  · exact Or.inr (if_pos c)
  · exact Or.inl (if_neg c)

theorem noteSettled_kept (s : State) : Work.Kept s.work (noteSettled s).work := by
  rcases noteSettled_cases s with e | e <;> rw [e]
  · exact .refl _
  · rw [settledEntry_work]
    exact (setCause_kept .settled _).trans (completeDrains_kept _)

theorem changePanel_kept (f : Panel → Panel) (s : State) : Work.Kept s.work (changePanel f s).work :=
  noteSettled_kept (s.onPanel f)

theorem startTest_kept (s : State) : Work.Kept s.work (startTest s).work := changePanel_kept _ s

@[simp] theorem noteSettled_pending (s : State) : (noteSettled s).pending = s.pending := by
  rcases noteSettled_cases s with e | e <;> simp [e]

@[simp] theorem noteSettled_glyphs (s : State) : (noteSettled s).glyphs = s.glyphs := by
  rcases noteSettled_cases s with e | e <;> simp [e]

@[simp] theorem noteSettled_panel (s : State) : (noteSettled s).panel = { s.panel with settled := s.panel.isSettled } := by
  rcases noteSettled_cases s with e | e <;> simp [e]

@[simp] theorem changePanel_pending (f : Panel → Panel) (s : State) : (changePanel f s).pending = s.pending := by
  simp [changePanel]

@[simp] theorem changePanel_glyphs (f : Panel → Panel) (s : State) : (changePanel f s).glyphs = s.glyphs := by
  simp [changePanel]

@[simp] theorem changePanel_panel (f : Panel → Panel) (s : State) :
    (changePanel f s).panel = { f s.panel with settled := (f s.panel).isSettled } := by simp [changePanel]

@[simp] theorem startTest_pending (s : State) : (startTest s).pending = s.pending := by simp [startTest]

@[simp] theorem startTest_glyphs (s : State) : (startTest s).glyphs = s.glyphs := by simp [startTest]

/-! ## The parts of a tick -/

theorem tickLane_kept (n : LaneNo) (w : Work) : Work.Kept w (tickLane n w) :=
  .ite (completeWaiting_kept n w) (.ite (retire_kept n .timeout w) (Work.modLane_kept _ _ _))

theorem tickLanes_kept (w : Work) : Work.Kept w (tickLanes w) := by
  have h : ∀ (l : List LaneNo) (w : Work), Work.Kept w (l.foldl (fun w n => tickLane n w) w) := by
    intro l
    induction l with
    | nil => exact fun w => .refl w
    | cons n rest ih => exact fun w => (tickLane_kept n w).trans (ih _)
  exact .ite (h _ w) (.refl w)

theorem reportDriveFault_kept (k : DriveFaultKind) (row : Nat) (pulse : Pulse) (w : Work) :
    Work.Kept w (reportDriveFault k row pulse w) := by
  have h := (readStation_busOnly .engine none (w.exchange 0x60) w).kept
  unfold reportDriveFault
  split <;> rename_i e <;> rw [e] at h
  · exact (Work.Kept.ite (h.trans (writeStationList_busOnly _ _ _ _).kept) h).trans (setCause_kept _ _)
  · exact h.trans (setCause_kept _ _)

theorem faultRowPulse_kept (k : DriveFaultKind) (pulse : Pulse) (r : Row) (s : State) :
    Work.Kept s.work (faultRowPulse k pulse r s).work := by
  rw [faultRowPulse, State.onWork_work]
  exact (changePanel_kept _ s).trans (reportDriveFault_kept _ _ _ _)

theorem faultBulkPulse_kept (k : DriveFaultKind) (pulse : Pulse) (s : State) :
    Work.Kept s.work (faultBulkPulse k pulse s).work := by
  rw [faultBulkPulse, State.onWork_work]
  exact (changePanel_kept _ s).trans (reportDriveFault_kept _ _ _ _)

theorem supplyFailed_kept (s : State) : Work.Kept s.work (supplyFailed s).work := by
  rw [supplyFailed, State.onWork_work]
  exact (changePanel_kept _ s).trans (setCause_kept _ _)

theorem supplyReady_kept (s : State) : Work.Kept s.work (supplyReady s).work := setCause_kept _ _

theorem tickMarkers_kept (s : State) : Work.Kept s.work (tickMarkers s).work := by
  unfold tickMarkers
  split
  · exact changePanel_kept _ s
  · exact .refl _

theorem tickDriver_kept (s : State) : Work.Kept s.work (tickDriver s).work := by
  unfold tickDriver
  split
  · split
    · exact faultRowPulse_kept _ _ _ _
    · exact .refl _
  · split
    · exact faultBulkPulse_kept _ _ _
    · exact .refl _
  · exact .refl _

theorem tickSupply_kept (s : State) : Work.Kept s.work (tickSupply s).work := by
  unfold tickSupply
  split
  · exact supplyReady_kept s
  · split
    · exact supplyFailed_kept s
    · exact .refl _

theorem tickMarkers_frame (s : State) :
    (tickMarkers s).pending = s.pending ∧ (tickMarkers s).glyphs = s.glyphs := by
  unfold tickMarkers
  split
  · simp
  · exact ⟨rfl, rfl⟩

theorem tickDriver_frame (s : State) : (tickDriver s).pending = s.pending ∧ (tickDriver s).glyphs = s.glyphs := by
  unfold tickDriver
  split
  · split
    · simp [faultRowPulse]
    · exact ⟨rfl, rfl⟩
  · split
    · simp [faultBulkPulse]
    · exact ⟨rfl, rfl⟩
  · exact ⟨rfl, rfl⟩

theorem tickSupply_frame (s : State) : (tickSupply s).pending = s.pending ∧ (tickSupply s).glyphs = s.glyphs := by
  unfold tickSupply
  split
  · exact ⟨rfl, rfl⟩
  · split
    · simp [supplyFailed]
    · exact ⟨rfl, rfl⟩

/-- The queue and the glyphs are no block's part. -/
theorem takeTick_frame (b : TickBlock) (s : State) :
    (takeTick b s).pending = s.pending ∧ (takeTick b s).glyphs = s.glyphs := by
  cases b
  case markers => exact tickMarkers_frame s
  case driver => exact tickDriver_frame s
  case supply => exact tickSupply_frame s
  all_goals exact ⟨rfl, rfl⟩

/-- Only the timebase moves the clock. -/
theorem takeTick_time (b : TickBlock) (s : State) :
    (takeTick b s).work.time = if b = .clock then s.work.time.tick else s.work.time := by
  cases b
  case clock => rfl
  case lanes => exact (tickLanes_kept s.work).time
  case markers => exact (tickMarkers_kept s).time
  case driver => exact (tickDriver_kept s).time
  case supply => exact (tickSupply_kept s).time
  case hold => rfl

/-- Only the port moves the clock hold. -/
theorem takeTick_hold (b : TickBlock) (s : State) :
    (takeTick b s).work.port.hold = if b = .hold then (tickHold s.work).port.hold else s.work.port.hold := by
  cases b
  case clock => rfl
  case lanes => rw [show takeTick .lanes s = s.onWork tickLanes from rfl, State.onWork_work, (tickLanes_kept s.work).port]; rfl
  case markers => rw [show takeTick .markers s = tickMarkers s from rfl, (tickMarkers_kept s).port]; rfl
  case driver => rw [show takeTick .driver s = tickDriver s from rfl, (tickDriver_kept s).port]; rfl
  case supply => rw [show takeTick .supply s = tickSupply s from rfl, (tickSupply_kept s).port]; rfl
  case hold => rfl

/-- Each part keeps the canonical form of station memory. -/
theorem takeTick_wf (b : TickBlock) (s : State) (h : s.work.mem.wf) : (takeTick b s).work.mem.wf := by
  cases b
  case clock => exact h
  case lanes => exact (tickLanes_kept s.work).wf h
  case markers => exact (tickMarkers_kept s).wf h
  case driver => exact (tickDriver_kept s).wf h
  case supply => exact (tickSupply_kept s).wf h
  case hold => exact h

/-- A tick that is not counted leaves the lanes and the markers as they are (R131, R167). -/
theorem tick_not_counted (s : State) (h : s.work.port.engine ≠ .running) :
    takeTick .lanes s = s ∧ takeTick .markers s = s := by
  refine ⟨?_, ?_⟩
  · show s.onWork tickLanes = s
    unfold State.onWork tickLanes
    rw [if_neg h]
  · show tickMarkers s = s
    unfold tickMarkers
    rw [if_neg h]

/-! ## A whole tick -/

/-- What ends a tick keeps what the parts have left. -/
theorem finishTick_end (s0 s : State) :
    (finishTick s0 [] s).pending = s.pending ∧ (finishTick s0 [] s).glyphs = s.glyphs ∧
      Work.Kept s.work (finishTick s0 [] s).work := by
  unfold finishTick
  dsimp only [List.foldl_nil]
  split
  · exact ⟨by simp, by simp, (startTest_kept s).trans (settleLanes_kept _)⟩
  · exact ⟨rfl, rfl, settleLanes_kept _⟩

/-- The parts come one after another. -/
theorem finishTick_cons (s0 s : State) (b : TickBlock) (rest : List TickBlock) :
    finishTick s0 (b :: rest) s = finishTick s0 rest (takeTick b s) := rfl

theorem finishTick_pending (s0 : State) (l : List TickBlock) (s : State) : (finishTick s0 l s).pending = s.pending := by
  induction l generalizing s with
  | nil => exact (finishTick_end s0 s).1
  | cons b rest ih => rw [finishTick_cons, ih, (takeTick_frame b s).1]

theorem finishTick_glyphs (s0 : State) (l : List TickBlock) (s : State) : (finishTick s0 l s).glyphs = s.glyphs := by
  induction l generalizing s with
  | nil => exact (finishTick_end s0 s).2.1
  | cons b rest ih => rw [finishTick_cons, ih, (takeTick_frame b s).2]

/-- A tick moves the clock as often as the timebase stands in its order. -/
theorem finishTick_time (s0 : State) (l : List TickBlock) (s : State) :
    (finishTick s0 l s).work.time = (Timebase.tick)^[l.count .clock] s.work.time := by
  induction l generalizing s with
  | nil => exact (finishTick_end s0 s).2.2.time
  | cons b rest ih =>
    rw [finishTick_cons, ih, takeTick_time, List.count_cons]
    by_cases c : b = .clock
    · subst c; simp [Function.iterate_succ_apply]
    · simp [c]

theorem finishTick_wf (s0 : State) (l : List TickBlock) (s : State) (h : s.work.mem.wf) : (finishTick s0 l s).work.mem.wf := by
  induction l generalizing s with
  | nil => exact (finishTick_end s0 s).2.2.wf h
  | cons b rest ih => exact ih _ (takeTick_wf b s h)

/-- A tick moves the clock once. -/
theorem tickAll_time (s : State) : (tickAll s).work.time = s.work.time.tick := finishTick_time s tickBlocks s

/-- So does the tick of an expiry, whichever block takes it first. -/
theorem tickFrom_time (b : TickBlock) (s : State) : (tickFrom b s).work.time = s.work.time.tick := by
  unfold tickFrom tickInOrder
  rw [finishTick_time]
  cases b <;> rfl

end Sys2Proof.Machine
end

