-- ==== Sys2Proof/Tests/Slice0.lean ====
section
/-! SUPPORT. Tests on small states: well-formedness, the codes of the record heads, single commands, and for each statement
with hypotheses a state that meets them (`test_witness_…`). -/

namespace Sys2Proof.Machine

set_option Elab.async false

/-! ## Well-formedness -/

theorem test_wellFormed_postings :
    (Instr.nudge 7).wellFormed = true ∧ (Instr.resume 0).wellFormed = true ∧ (Instr.cancel 3).wellFormed = true := by decide

theorem test_illFormed_nudge : (Instr.nudge 8).wellFormed = false := by decide

theorem test_illFormed_resume : (Instr.resume 31).wellFormed = false := by decide

theorem test_illFormed_cancel : (Instr.cancel 8).wellFormed = false := by decide

theorem test_illFormed_portWrite :
    (Instr.portWriteIgnored 1 0).wellFormed = false ∧ (Instr.portWriteIgnored 0 0x21).wellFormed = false ∧
      (Instr.portWriteIgnored 0 0x9F).wellFormed = false := by decide

theorem test_wellFormed_portWrite :
    (Instr.portWriteIgnored 2 0xFFFF).wellFormed = true ∧ (Instr.portWriteIgnored 0 0x28).wellFormed = true ∧
      (Instr.portWriteIgnored 0 0xA0).wellFormed = true := by decide

/-- The postings and the CONTROL writes of spec/11, 11.1, and the words that form none. -/
theorem test_post_words :
    portWriteCommands 0 0x0025 = [.nudge 5] ∧ portWriteCommands 0 0x0041 = [.resume 1] ∧
      portWriteCommands 0 0x0061 = [.cancel 1] ∧ portWriteCommands 0 0xFF9F = [.returnSlot 31] ∧
      portWriteCommands 0 0x0028 = [.portWriteIgnored 0 0x0028] ∧ portWriteCommands 0 0x00A0 = [.portWriteIgnored 0 0x00A0] ∧
      portWriteCommands 0 0x0000 = [.portWriteIgnored 0 0] := by decide

theorem test_control_words :
    portWriteCommands 1 0x8001 = [.clear] ∧ portWriteCommands 1 0x4000 = [.run false, .panelOn false, .lineOn false, .driveResume] ∧
      portWriteCommands 1 0x3FFD = [.run true, .panelOn false, .lineOn true] ∧
      portWriteCommands 1 0x0002 = [.run false, .panelOn true, .lineOn false] := by decide

theorem test_other_port_words :
    portWriteCommands 3 0xFFFF = [.causeWrite 0xFFFF] ∧ portWriteCommands 4 1 = [.enableWrite 1] ∧
      portWriteCommands 5 0 = [.portWriteIgnored 5 0] ∧ portReadCommands 5 = [.clocklRead] ∧ portReadCommands 2 = [] := by decide

/-- The bounds at which the clauses of the postings meet. -/
theorem test_witness_portWords :
    (0x0027 : Word).extractLsb' 5 3 = 1 ∧ ((0x0027 : Word).extractLsb' 0 5).toNat < 8 ∧ (0x0047 : Word).extractLsb' 5 3 = 2 ∧
      (0x0067 : Word).extractLsb' 5 3 = 3 ∧ (0x0080 : Word).extractLsb' 5 3 = 4 ∧ 5 ≤ ((0x00A0 : Word).extractLsb' 5 3).toNat ∧
      (0x0068 : Word).extractLsb' 5 3 ≠ 4 ∧ 8 ≤ ((0x0068 : Word).extractLsb' 0 5).toNat ∧ (0x8000 : Word).getLsbD 15 = true ∧
      (0x7FFF : Word).getLsbD 15 = false := by decide

/-! ## Codes -/

/-- The kinds of the head words (spec/11, 11.4). -/
theorem test_record_heads :
    ([0x0000, 0x1000, 0x2000, 0x3000, 0x4FFF, 0x5000, 0x6010, 0x7000, 0x8003, 0x9000, 0xA005, 0xB011, 0xC001, 0xD001,
        0xE000, 0xF000] : List Word).map recordKind =
      [.move, .point, .vector, .area, .text, .image, .readback, .clearall, .setmode, .setclip, .settext, .glyphload, .mark,
        .unmark, .wait, .drain] := by decide

theorem test_result_word : resultWord .done 5 = 0x1005 ∧ resultWord .badRecord 1023 = 0x23FF := by decide

theorem test_address20 : address20 0x1000 0xFFF3 = 0x31000 ∧ addressHigh 0x31000 = 3 ∧ addressLow 0x31000 = 0x1000 := by
  decide

/-- The CRC-16 of the octets of the digits 1 to 9 is the check value of its polynomial (R144). -/
theorem test_crc16 :
    (([0x31, 0x32, 0x33, 0x34, 0x35, 0x36, 0x37, 0x38, 0x39] : List Byte).foldl (crcOctet 2) (crcStart 2)) ^^^ 0xFFFF =
      0x906E := by decide +kernel

theorem test_crc32 :
    (([0x31, 0x32, 0x33, 0x34, 0x35, 0x36, 0x37, 0x38, 0x39] : List Byte).foldl (crcOctet 4) (crcStart 4)) ^^^ 0xFFFFFFFF =
      0xCBF43926 := by decide +kernel

/-! ## Small states -/

/-- The reset state with an engine state, a fence, and a spool of 4 slots of 64 octets at 50000H. -/
def testState (e : EngineState) : State := State.reset.onWork fun w =>
  { w with
    port := { w.port with engine := e, fence := some { low := 0x40000, high := 0x60000 } }
    line := { w.line with
      spool := some { base := 0x50000, size := 64, count := 4 }
      settings := some { nrzi := false, crc32 := false, breakPurge := true, groups := [] } } }

/-- Store words in station memory. -/
def withWords (l : List (Addr × Word)) (s : State) : State := s.onWork (storeWords l)

/-- Put lane `n` into a state, with a block at 31000H. -/
def withLane (n : LaneNo) (st : LaneState) (f : Lane → Lane) (s : State) : State :=
  s.modLane n fun l => f { l with state := st, current := 0x31000 }

/-- Lane `n` ACTIVE, with a body of `length` words. -/
def serving (n : LaneNo) (length : Nat) (s : State) : State :=
  (withLane n .active (fun l => { l with progress := { l.progress with bodyLength := length } }) s).onWork fun w =>
    { w with lanes := { w.lanes with activeNo := n, activeValid := true } }

/-- Lane 1 ACTIVE with these words as its body. -/
def meeting (ws : List Word) : State := withWords ((wordRun 0x3100C ws.length).zip ws) (serving 1 ws.length (testState .running))

/-- Lane 1 ACTIVE with a record in hand. -/
def holding (r : RecordInHand) : State :=
  (serving 1 0 (testState .running)).modLane 1 fun l => { l with progress := { l.progress with inHand := some r } }

theorem meets_of_words {s : State} {n : LaneNo} {ws : List Word} (a : s.awake) (q : s.work.quiet)
    (h : (decide (s.work.servedLane = some n) && (s.progressOf n).inHand.isNone
      && ((List.range ws.length).all fun i =>
        s.work.mem.readWord (s.work.bodyAddress n ((s.progressOf n).nextWord + i)) == ws.getD i 0)
      && decide ((s.progressOf n).nextWord + ws.length ≤ (s.progressOf n).bodyLength)) = true) : s.MeetsRecord n ws := by
  simp only [Bool.and_eq_true, decide_eq_true_eq, List.all_eq_true, List.mem_range, beq_iff_eq,
    Option.isNone_iff_eq_none] at h
  obtain ⟨⟨⟨served, hand⟩, words⟩, fits⟩ := h
  refine ⟨a, q, served, hand, fun i hi => ?_, fits⟩
  rw [words i hi]
  simp [List.getD, hi]

theorem holding_inHand (r : RecordInHand) : (holding r).HasInHand 1 r := ⟨rfl, rfl, rfl, rfl⟩

theorem reset_differs (p : Panel) (hd : p.drawn = Plane.dark) (hp : p.panel = Plane.dark) (hu : p.doubt = Plane.dark)
    (h0 : p.markers[0].inverts = false) (h1 : p.markers[1].inverts = false) (r : Row) : p.differs r = false := by
  simp [Panel.differs, Panel.differingCells, Panel.targetRow, Panel.overlayRow, Marker.rowMask, hd, hp, hu, h0, h1,
    Plane.dark]

/-- A dark panel with nothing waiting and nothing outstanding is sound. -/
theorem sound_of_dark (p : Panel) (hd : p.drawn = Plane.dark) (hp : p.panel = Plane.dark) (hu : p.doubt = Plane.dark)
    (h0 : p.markers[0].inverts = false) (h1 : p.markers[1].inverts = false) (hq : p.queue = [])
    (hs : p.driver.state = .idle) (hf : p.driver.pulse = none) (hb : p.bulkRequest = false) (ht : p.settled = true) :
    p.Sound where
  queueNodup := by rw [hq]; exact List.nodup_nil
  firingNotQueued := fun r _ => by rw [hq]; exact List.not_mem_nil
  noPulse := by simp [hf, hs]
  rowPulse := fun pulse h => by rw [hf] at h; cases h
  bulkAsked := fun h => by rw [hs] at h; cases h
  cleanAgrees := fun r _ => reset_differs p hd hp hu h0 h1 r
  darkUnlessReady := fun _ => ⟨hp, hu, hf, hb⟩
  nothingWaits := fun _ _ => ⟨hq, hb⟩
  settledFlag := by simp [ht, Panel.isSettled, hq, hf, hb]

theorem test_reset_sound : State.reset.panel.Sound :=
  sound_of_dark _ rfl rfl rfl rfl rfl rfl rfl rfl rfl rfl

theorem meeting_sound (ws : List Word) : (meeting ws).panel.Sound := test_reset_sound

/-! ## Witnesses: time, resets and the port -/

theorem test_witness_intervals :
    State.reset.work.time = Timebase.reset ∧ Timebase.reset.accumulator < 100 ∧ State.reset.work.time.interval = none ∧
      State.reset.pending = [] ∧ State.reset.awake ∧ State.reset.work.line.buffer = [] ∧ State.reset.work.noChoiceDue :=
  ⟨rfl, by decide, rfl, rfl, rfl, rfl, Or.inr (Or.inl rfl)⟩

/-- The last edge of an interval of each length, and the edge before it. -/
theorem test_witness_interval_ends :
    (325 + 1 < intervalLength 68 ∧ 326 + 1 = intervalLength 68) ∧ (326 + 1 < intervalLength 67 ∧ 327 + 1 = intervalLength 67) ∧
      (99 + 68) % 100 = nextAccumulator 99 := by decide

theorem test_witness_resets : State.reset.awake ∧ State.reset.work.quiet := ⟨rfl, rfl⟩

/-- RESET asserted by the pin. -/
def heldInReset : State := State.reset.onWork fun w =>
  { w with port := { w.port with resetAsserted := true, startCause := .pin } }

theorem test_witness_resetAsserted :
    heldInReset.work.port.resetAsserted = true ∧ heldInReset.work.port.startCause ≠ .power ∧ heldInReset.pending = [] :=
  ⟨rfl, by decide, rfl⟩

theorem test_state_after_clear : ∃ t, exec .clear State.reset = .next t ∧ t.portRead 2 = 0x1000 :=
  ⟨_, rfl, by decide +kernel⟩

/-- The reset state with a clock hold. -/
def withHold (h : ClockHold) : State := State.reset.onWork fun w => { w with port := { w.port with hold := some h } }

theorem test_witness_clockHold :
    (withHold { value := 5, ticks := 1 }).awake ∧
      (withHold { value := 5, ticks := 1 }).work.port.hold = some { value := 5, ticks := 1 } ∧
      (withHold { value := 5, ticks := 2 }).work.port.hold = some { value := 5, ticks := 2 } ∧
      State.reset.work.port.hold = none := ⟨rfl, rfl, rfl, rfl⟩

/-- The hold is released at the second tick and not at the first. -/
theorem test_hold_ticks :
    (tickAll (withHold { value := 5, ticks := 2 })).work.port.hold = some { value := 5, ticks := 1 } ∧
      (tickAll (withHold { value := 5, ticks := 1 })).work.port.hold = none := by decide +kernel

theorem test_irq :
    (State.reset.work.irq = false) ∧
      ({ State.reset.work with cause := 1, port := { State.reset.work.port with enable := 1 } } : Work).irq = true := by
  decide +kernel

theorem test_witness_pendingPostings :
    (0 : LaneNo) ≠ 3 ∧ (testState .stopping).awake ∧ (testState .stopping).work.port.engine ≠ .running ∧
      (testState .halted).work.port.engine ≠ .running ∧ ((3 : BitVec 5) = 3 ∧ 8 ≤ (8 : BitVec 5).toNat) := by
  refine ⟨by decide, rfl, by decide, by decide, by decide⟩

/-- Every count that a tick moves, in one state. -/
def ticking (e : EngineState) : State :=
  let s := withLane 1 .draining (fun l => { l with progress := { l.progress with limit := some 3 } })
    (withLane 0 .waiting (fun l => { l with progress := { l.progress with waitCount := 2 } }) (testState e))
  let m : Marker := { Marker.reset with active := true, w := 1, h := 1, period := 3, onTime := 1, counter := 1 }
  { s with
    work := { s.work with
      time := { s.work.time with accumulator := 99, interval := some 0 }
      port := { s.work.port with hold := some { value := 0, ticks := 2 } } }
    panel := { s.panel with markers := s.panel.markers.set 0 m, supply := { s.panel.supply with state := .ramping, ramp := 48 } } }

theorem nothingDue_of {s : State} (h : (s.work.port.hold.all fun h => decide (2 ≤ h.ticks)) = true)
    (w : ∀ n, (s.work.laneOf n).state = .waiting → 2 ≤ (s.work.laneOf n).progress.waitCount)
    (l : ∀ n, ((s.work.laneOf n).progress.limit.all fun k => decide (2 ≤ k)) = true)
    (m : ∀ k : Fin 2, (s.panel.markers[k.val]).active = true →
      (s.panel.markers[k.val]).on = decide ((s.panel.markers[k.val]).nextCounter < (s.panel.markers[k.val]).onTime))
    (p : s.panel.driver.pulse = none)
    (r : s.panel.supply.ramp + 1 < 50 ∧ s.panel.supply.supok = false) : s.NothingDue where
  hold := fun k e => by simpa [e] using h
  waits := fun _ => w
  limits := fun _ n k _ e => by simpa [e] using l n
  markers := fun _ => m
  pulse := fun _ _ e => by rw [p] at e; cases e
  ramp := fun _ => ⟨r.1, fun _ => r.2⟩

theorem test_witness_tick (e : EngineState) :
    (ticking e).awake ∧ (ticking e).work.time.interval.isSome ∧ (ticking e).work.time.accumulator < 100 ∧
      (ticking e).panel.Sound ∧ (ticking e).NothingDue ∧ (testState .halted).work.port.engine ≠ .running :=
  ⟨rfl, rfl, by show 99 < 100; decide, sound_of_dark _ rfl rfl rfl rfl rfl rfl rfl rfl rfl rfl,
    nothingDue_of rfl (show ∀ n, ((ticking .running).work.laneOf n).state = .waiting →
      2 ≤ ((ticking .running).work.laneOf n).progress.waitCount by decide +kernel)
      (show ∀ n, (((ticking .running).work.laneOf n).progress.limit.all fun k => decide (2 ≤ k)) = true by decide +kernel)
      (show ∀ k : Fin 2, ((ticking .running).panel.markers[k.val]).active = true → ((ticking .running).panel.markers[k.val]).on =
        decide (((ticking .running).panel.markers[k.val]).nextCounter < ((ticking .running).panel.markers[k.val]).onTime)
        by decide +kernel) rfl ⟨by show 48 + 1 < 50; decide, rfl⟩, by decide⟩

theorem test_tick_counts : ∃ t, exec .tick (ticking .running) = .next t ∧ (t.progressOf 0).waitCount = 1 ∧
    (t.progressOf 1).limit = some 2 ∧ t.panel.markers[0].counter = 2 ∧ t.work.time.clock = 1 ∧ t.panel.supply.ramp = 49 :=
  ⟨_, rfl, by decide +kernel, by decide +kernel, by decide +kernel, by decide +kernel, by decide +kernel⟩

/-! ## Witnesses: the lane unit -/

/-- The engine RUNNING, and these words at the head address of lane 0. -/
def withHead (low high : Word) : State := withWords [(0x80, low), (0x82, high)] (testState .running)

theorem withHead_meets (low high : Word) :
    (withHead low high).awake ∧ (withHead low high).work.quiet ∧ (withHead low high).work.port.engine = .running ∧
      ((withHead low high).work.laneOf 0).state = .idle ∧ (withHead low high).work.activeLane ≠ some 0 :=
  ⟨rfl, rfl, rfl, rfl, by intro h; cases h⟩

/-- A station bus on which access `i` fails. -/
def failing (i : Nat) (answer : BusAnswer) (s : State) : State := s.onWork (Work.withFailure i answer)

theorem test_witness_failsRead :
    BusAnswer.parity.FailsRead 1 ∧ (BusAnswer.noAnswer true).FailsRead 2 ∧ (BusAnswer.noAnswer false).FailsRead 2 :=
  ⟨Or.inl ⟨rfl, rfl⟩, Or.inr ⟨⟨true, rfl⟩, rfl⟩, Or.inr ⟨⟨false, rfl⟩, rfl⟩⟩

/-- The words a FAULTED lane writes: with the reason, or with an earlier reason left. -/
theorem test_witness_faultWords :
    (((withHead 0 0).work.laneLost 0 5).faultWords 0 .memory).length = 6 ∧
      (((withWords [(0x8E, 1)] (withHead 0 0)).work.laneLost 0 5).faultWords 0 .memory).length = 5 ∧
      (withHead 0 0).work.quiet ∧ (0 : LaneNo) ≠ 3 := by
  refine ⟨by decide +kernel, by decide +kernel, rfl, by decide⟩

/-- The second word of the head cannot be read. -/
theorem test_head_read_fails : ∃ t, exec (.nudge 0) (failing 1 .parity (withHead 0x1000 3)) = .next t ∧
    (t.work.laneOf 0).state = .faulted ∧ (t.work.laneOf 0).current = 0 ∧ t.work.mem.readWord 0x8E = 2 ∧
    t.work.mem.readWord 0x72 = 3 ∧ t.work.mem.readWord 0x74 = 0x82 ∧ t.work.hasCause .laneFault = true :=
  ⟨_, rfl, by decide +kernel, by decide +kernel, by decide +kernel, by decide +kernel, by decide +kernel, by decide +kernel⟩

/-- The block's W2 cannot be read: the head words are cleared already. -/
theorem test_fetch_read_fails : ∃ t, exec (.nudge 0) (failing 5 (.noAnswer false) (withHead 0x1000 3)) = .next t ∧
    (t.work.laneOf 0).state = .faulted ∧ (t.work.laneOf 0).current = 0x31000 ∧ t.work.mem.readWord 0x80 = 0 ∧
    t.work.mem.readWord 0x70 = 2 ∧ t.work.mem.readWord 0x74 = 0x1004 :=
  ⟨_, rfl, by decide +kernel, by decide +kernel, by decide +kernel, by decide +kernel, by decide +kernel⟩

theorem test_witness_nudge :
    ((withHead 0 3).work.mem.readWord ((withHead 0 3).work.laneRecord 0 0) = 0) ∧
      (withHead 0x1000 3).work.mem.readWord ((withHead 0x1000 3).work.laneRecord 0 0) = 0x1000 ∧
      (withHead 0x1001 3).work.mem.readWord ((withHead 0x1001 3).work.laneRecord 0 2) = 3 ∧
      (address20 0x1000 3).toNat % 2 = 0 ∧ (address20 0x1001 3).toNat % 2 = 1 := by decide +kernel

/-- Lane 0 in a state, with a link in its block. -/
def withLink (st : LaneState) (low high : Word) : State :=
  withWords [(0x31000, low), (0x31002, high)] (withLane 0 st id (testState .running))

theorem withLink_meets (st : LaneState) (low high : Word) :
    (withLink st low high).awake ∧ (withLink st low high).work.quiet ∧ (withLink st low high).work.port.engine = .running ∧
      ((withLink st low high).work.laneOf 0).state = st ∧ (withLink st low high).work.activeLane ≠ some 0 :=
  ⟨rfl, rfl, rfl, rfl, by intro h; cases h⟩

theorem test_witness_link :
    ∀ st ∈ [LaneState.held, LaneState.parked],
      (withLink st 0 3).work.mem.readWord ((withLink st 0 3).work.laneOf 0).current = 0 ∧
      (withLink st 0x1000 3).work.mem.readWord ((withLink st 0x1000 3).work.laneOf 0).current = 0x1000 ∧
      (withLink st 0x1001 3).work.mem.readWord ((withLink st 0x1001 3).work.laneOf 0).current = 0x1001 := by
  decide +kernel

theorem test_link_read_fails : ∃ t, exec (.resume 0) (failing 1 .parity (withLink .held 0x1000 3)) = .next t ∧
    (t.work.laneOf 0).state = .faulted ∧ (t.work.laneOf 0).current = 0x31000 ∧ t.work.mem.readWord 0x74 = 0x1002 :=
  ⟨_, rfl, by decide +kernel, by decide +kernel, by decide +kernel⟩

/-- The header of the block that the link names cannot be read. -/
theorem test_link_header_fails : ∃ t, exec (.nudge 0) (failing 3 .parity (withLink .parked 0x1400 3)) = .next t ∧
    (t.work.laneOf 0).state = .faulted ∧ (t.work.laneOf 0).current = 0x31400 ∧ t.work.mem.readWord 0x74 = 0x1404 :=
  ⟨_, rfl, by decide +kernel, by decide +kernel, by decide +kernel⟩

theorem test_witness_cancel (st : LaneState) :
    (0 : LaneNo) ≠ 3 ∧ (withLink st 0 0).awake ∧ (withLink st 0 0).work.quiet ∧
      ((withLink st 0 0).work.laneOf 0).state = st ∧ (withLink st 0 0).work.activeLane ≠ some 0 :=
  ⟨by decide, rfl, rfl, rfl, by intro h; cases h⟩

/-- Lane 3 in a state, with these pending slots, of which slot `k` has this state. -/
def withSlots (e : EngineState) (st : LaneState) (l : List PendingSlot) (k : SlotNo) (ks : SlotState) : State :=
  (withLane 3 st (fun l => { l with
    current := 0x50000, progress := { l.progress with bodyLength := 3, limit := some 1 } }) (testState e)).onWork fun w =>
    ({ w with line := { w.line with pendingSlots := l } } : Work).setSlot k ks

theorem withSlots_meets (e : EngineState) (st : LaneState) (l : List PendingSlot) (k : SlotNo) (ks : SlotState) :
    (withSlots e st l k ks).awake ∧ (withSlots e st l k ks).work.quiet ∧ ((withSlots e st l k ks).work.laneOf 3).state = st ∧
      (withSlots e st l k ks).work.activeLane ≠ some 3 := ⟨rfl, rfl, rfl, by intro h; cases h⟩

theorem test_witness_cancelLaneThree :
    (withSlots .running .ready [{ slot := 0, octets := 6 }] 0 .queued).work.lane3NotBegun = true ∧
      (∀ st ∈ [LaneState.idle, LaneState.active, LaneState.faulted],
        (withSlots .running st [] 0 .free).work.lane3NotBegun = false) ∧
      (∀ st ∈ [LaneState.ready, LaneState.waiting, LaneState.draining],
        (withSlots .running st [{ slot := 0, octets := 6 }] 0 .running).work.lane3NotBegun = false ∧
        ((withSlots .running st [{ slot := 0, octets := 6 }] 0 .running).work.line.pendingSlots.filter fun q =>
          (withSlots .running st [{ slot := 0, octets := 6 }] 0 .running).work.slotOf q.slot ≠ .queued) =
            [{ slot := 0, octets := 6 }]) := by decide +kernel

theorem test_witness_return :
    (testState .running).awake ∧ (testState .running).work.quiet ∧
      (withSlots .running .idle [] 3 .passed).work.line.spool = some { base := 0x50000, size := 64, count := 4 } ∧
      (withSlots .running .idle [] 3 .passed).work.slotOf (3 : BitVec 5).toFin = .passed ∧ (3 : BitVec 5).toNat < 4 ∧
      ¬(4 : BitVec 5).toNat < 4 ∧ (testState .running).work.slotOf (3 : BitVec 5).toFin ≠ .passed :=
  ⟨rfl, rfl, rfl, by decide +kernel, by decide, by decide, by decide +kernel⟩

/-- Lane 0 WAITING or DRAINING with this count left. -/
def withCount (st : LaneState) (k : Nat) : State :=
  withLane 0 st (fun l => { l with progress := { l.progress with waitCount := k, limit := some k } }) (testState .running)

theorem test_witness_expiries :
    (withCount .waiting 1).awake ∧ (withCount .waiting 1).work.quiet ∧ (withCount .waiting 1).work.port.engine = .running ∧
      ((withCount .waiting 1).work.laneOf 0).state = .waiting ∧ ((withCount .waiting 1).progressOf 0).waitCount = 1 ∧
      ((withCount .waiting 2).progressOf 0).waitCount = 2 ∧
      ((withCount .draining 1).work.laneOf 0).state = .draining ∧ ((withCount .draining 1).progressOf 0).limit = some 1 ∧
      ((withCount .draining 1).work.laneOf 0).cancelRequested = false ∧ (withCount .draining 1).work.activeLane ≠ some 0 ∧
      ((withCount .draining 2).progressOf 0).limit = some 2 ∧
      ((withLane 0 .draining id (testState .running)).progressOf 0).limit = none ∧
      ((withSlots .running .draining [{ slot := 0, octets := 6 }] 0 .running).progressOf 3).limit = some 1 ∧
      (withSlots .running .draining [{ slot := 0, octets := 6 }] 0 .running).work.line.pendingSlots ≠ [] :=
  ⟨rfl, rfl, rfl, rfl, rfl, rfl, rfl, rfl, rfl, by decide, rfl, rfl, rfl, by decide⟩

/-- One tick ends a WAIT, without a row of its own. -/
theorem test_tick_ends_wait : ∃ t, exec .tick (withCount .waiting 1) = .next t ∧ ((t.work.laneOf 0).state ≠ .waiting) ∧
    exec (.waitExpiry 0) (withCount .waiting 2) = .next (withCount .waiting 2) :=
  ⟨_, rfl, by decide +kernel, rfl⟩

/-- Lane 3's slot runs into its limit with another slot behind it, which the lane takes. -/
theorem test_drainTimeout_takes_next :
    ∃ t, exec (.drainTimeout 3) (withSlots .running .draining [{ slot := 0, octets := 6 }, { slot := 1, octets := 4 }] 0 .running)
        = .next t ∧ t.work.slotOf 0 = .free ∧ t.work.line.pendingSlots = [{ slot := 1, octets := 4 }] ∧
      (t.work.laneOf 3).current = 0x50040 ∧ (t.work.laneOf 3).lastOutcome = .timeout ∧ t.work.time.clock = 1 :=
  ⟨_, rfl, by decide +kernel, by decide +kernel, by decide +kernel, by decide +kernel, by decide +kernel⟩

/-- Lane `n` READY with a body of `length` words, and a point owed or not. -/
def readyLane (n : LaneNo) (length : Nat) (owed : Bool) : State :=
  withLane n .ready (fun l => { l with progress := { l.progress with bodyLength := length, pointOwed := owed } })
    (testState .running)

theorem test_witness_grant :
    (withCount .waiting 1).work.noChoiceDue ∧ (testState .stopping).work.lanes.activeValid = false ∧
      (withSlots .running .ready [{ slot := 0, octets := 6 }] 0 .queued).work.lowestReady = some 3 ∧
      (withSlots .running .ready [{ slot := 0, octets := 6 }] 0 .running).work.lowestReady = some 3 ∧
      ((withSlots .running .ready [] 0 .queued).work.laneOf 3).progress.atEnd = false ∧
      (readyLane 7 1 false).work.lowestReady = some 7 ∧ ((readyLane 7 1 false).work.laneOf 7).progress.atEnd = false ∧
      (readyLane 0 1 true).work.lowestReady = some 0 ∧ ((readyLane 0 1 true).work.laneOf 0).progress.atEnd = false ∧
      ((readyLane 0 1 true).work.laneOf 0).progress.pointOwed = true ∧
      ((readyLane 0 1 true).work.laneOf 0).cancelRequested = false ∧
      (readyLane 0 0 false).work.lowestReady = some 0 ∧ ((readyLane 0 0 false).work.laneOf 0).progress.atEnd = true :=
  ⟨Or.inr (Or.inr (Or.inr ⟨rfl, by decide +kernel⟩)), rfl, by decide +kernel, by decide +kernel, by decide +kernel,
    by decide +kernel, by decide +kernel, by decide +kernel, by decide +kernel, rfl, rfl, by decide +kernel, by decide +kernel⟩

/-- A grant takes an owed point, and one of an empty body retires it. -/
theorem test_grant_takes_point :
    ((settleLanes (readyLane 0 1 true).work).laneOf 0).state = .active ∧
      ((settleLanes (readyLane 0 1 true).work).laneOf 0).progress.pointOwed = false ∧
      ((settleLanes (readyLane 0 0 false).work).laneOf 0).state = .parked ∧
      ((settleLanes (readyLane 0 0 false).work).laneOf 0).lastOutcome = .done := by decide +kernel

/-- A tick's end: a row has joined, the supply has become READY, or neither. -/
theorem test_witness_finishTick :
    State.reset.panel.queue.length < (State.reset.onPanel fun p => { p with queue := [3] }).panel.queue.length ∧
      State.reset.panel.supply.state ≠ .ready ∧
      (State.reset.onPanel fun p => { p with supply := { p.supply with state := .ready } }).panel.supply.state = .ready ∧
      State.reset.panel.queue.length ≤ State.reset.panel.queue.length := ⟨by decide, by decide, rfl, Nat.le_refl _⟩

theorem test_witness_preemption :
    (((serving 1 3 (testState .running)).modLane 1 fun l => { l with cancelRequested := true }).work.laneOf 1).cancelRequested =
        true ∧
      ((serving 3 3 (testState .running)).work.laneOf 3).cancelRequested = false ∧
      (((serving 1 0 (testState .running)).work.laneOf 1).progress.inHand = none ∧
        ((serving 1 0 (testState .running)).work.laneOf 1).progress.bodyLength ≤
          ((serving 1 0 (testState .running)).work.laneOf 1).progress.nextWord) ∧
      (serving 1 3 (testState .stopping)).work.quiet ∧ (serving 1 3 (testState .stopping)).work.activeLane = some 1 ∧
      ((withLane 0 .ready id (serving 1 3 (testState .running))).work.laneOf 0).state = .ready ∧
      (∀ m, m < (1 : LaneNo) → ((serving 1 3 (testState .running)).work.laneOf m).state ≠ .ready) :=
  ⟨by decide +kernel, by decide +kernel, ⟨rfl, by decide⟩, rfl, rfl, rfl, by decide +kernel⟩

/-- A body that has ended, with the flags and the link given. -/
def ending (stop cancel : Bool) (low : Word) : State :=
  (withWords [(0x31000, low), (0x31002, 3)] (serving 1 0 (testState .running))).modLane 1 fun l =>
    { l with cancelRequested := cancel, progress := { l.progress with stop := stop, signal := true } }

theorem test_witness_retire :
    (1 : LaneNo) ≠ 3 ∧ (ending false false 0).work.quiet ∧ (ending false false 0).work.activeLane = some 1 ∧
      ((ending true false 0).work.laneOf 1).progress.stop = true ∧ ((ending false true 0).work.laneOf 1).cancelRequested = true ∧
      BlockOutcome.fence.isError = true ∧
      ((ending false false 0).work.blockResult 1 .done).mem.readWord 0x31000 = 0 ∧
      ((ending false false 0x1000).work.blockResult 1 .done).mem.readWord 0x31000 = 0x1000 ∧
      ((ending false false 0x1001).work.blockResult 1 .done).mem.readWord 0x31000 = 0x1001 :=
  ⟨by decide, rfl, rfl, rfl, rfl, rfl, by decide +kernel, by decide +kernel, by decide +kernel⟩

theorem test_retire_writes_result :
    ∃ w : Work, w = retire 1 .done (ending true false 0).work ∧ w.mem.readWord 0x31006 = 0x1000 ∧
      (w.laneOf 1).state = .held ∧ w.hasCause .blockDone = true ∧ w.hasCause .laneHeld = true :=
  ⟨_, rfl, by decide +kernel, by decide +kernel, by decide +kernel, by decide +kernel⟩

/-- The last result word is not stored: the retire counts, and the block is the current block of the FAULTED lane. -/
theorem test_result_write_fails :
    ∃ w : Work, w = retire 1 .done ((ending false false 0x1000).work.withFailure 2 (.noAnswer false)) ∧
      (w.laneOf 1).state = .faulted ∧ (w.laneOf 1).current = 0x31000 ∧ (w.laneOf 1).retireCount = 1 ∧
      w.mem.readWord 0x31006 = 0 ∧ w.hasCause .blockDone = true :=
  ⟨_, rfl, by decide +kernel, by decide +kernel, by decide +kernel, by decide +kernel, by decide +kernel⟩

/-- The link cannot be read, after the result was written; and the record of a HELD lane is not written whole. -/
theorem test_retire_goes_no_further :
    ∃ w v : Work, w = retire 1 .done ((ending false false 0x1000).work.withFailure 4 .parity) ∧
      v = retire 1 .fence ((ending false false 0x1000).work.withFailure 7 (.noAnswer true)) ∧
      (w.laneOf 1).state = .faulted ∧ w.mem.readWord 0x31006 = 0x1000 ∧ (v.laneOf 1).state = .faulted ∧
      (v.laneOf 1).current = 0x31000 ∧ v.hasCause .laneHeld = false :=
  ⟨_, _, rfl, rfl, by decide +kernel, by decide +kernel, by decide +kernel, by decide +kernel, by decide +kernel⟩

/-- The record of the lane that goes on by the link names the next block, and that of a PARKED one the retired block. -/
theorem test_retire_record_fails :
    ∃ w v : Work, w = retire 1 .done ((ending false false 0x1400).work.withFailure 11 (.noAnswer false)) ∧
      v = retire 1 .done ((ending false false 0).work.withFailure 4 (.noAnswer false)) ∧
      (w.laneOf 1).state = .faulted ∧ (w.laneOf 1).current = 0x31400 ∧ (v.laneOf 1).state = .faulted ∧
      (v.laneOf 1).current = 0x31000 :=
  ⟨_, _, rfl, rfl, by decide +kernel, by decide +kernel, by decide +kernel, by decide +kernel⟩

theorem test_witness_retireSlot :
    ∃ w : Work, w = ((serving 3 3 (testState .running)).onWork fun w =>
        { w with line := { w.line with pendingSlots := [{ slot := 0, octets := 6 }, { slot := 1, octets := 4 }] } }).work ∧
      w.quiet ∧ w.activeLane = some 3 ∧ (w.laneOf 3).state = .active ∧
      w.line.pendingSlots = { slot := 0, octets := 6 } :: [{ slot := 1, octets := 4 }] ∧
      (withSlots .running .waiting [{ slot := 0, octets := 6 }, { slot := 1, octets := 4 }] 0 .running).work.line.pendingSlots
        = { slot := 0, octets := 6 } :: [{ slot := 1, octets := 4 }] ∧
      (withSlots .running .waiting [{ slot := 0, octets := 6 }, { slot := 1, octets := 4 }] 0 .running).work.activeLane ≠ some 3 :=
  ⟨_, rfl, rfl, rfl, rfl, rfl, rfl, by intro h; cases h⟩

/-- A slot's result is not written: the slot is given up, and the next one waits behind the FAULTED lane. -/
theorem test_slotResult_write_fails :
    ∃ w : Work, w = retire 3 .done ((withSlots .running .waiting [{ slot := 0, octets := 6 }, { slot := 1, octets := 4 }] 0
        .running).work.withFailure 0 (.noAnswer true)) ∧
      (w.laneOf 3).state = .faulted ∧ w.slotOf 0 = .free ∧ w.line.pendingSlots = [{ slot := 1, octets := 4 }] ∧
      (w.laneOf 3).retireCount = 1 ∧ (withSlots .running .idle [] 0 .free).work.quiet :=
  ⟨_, rfl, by decide +kernel, by decide +kernel, by decide +kernel, by decide +kernel, rfl⟩

/-- A CANCEL of a READY lane 3 with a RUNNING slot and a QUEUED one behind it leaves none. -/
theorem test_witness_cancelWithAnother :
    ∃ s : State, s = withSlots .running .ready [{ slot := 1, octets := 6 }, { slot := 0, octets := 4 }] 1 .running ∧
      s.work.lane3NotBegun = false ∧ (s.work.line.pendingSlots.filter fun q => s.work.slotOf q.slot ≠ .queued) ≠ [] :=
  ⟨_, rfl, by decide +kernel, by decide +kernel⟩

/-! ## Witnesses: records -/

theorem meets_meeting {ws : List Word} (a : (meeting ws).awake) (q : (meeting ws).work.quiet)
    (h : (decide ((meeting ws).work.servedLane = some 1) && ((meeting ws).progressOf 1).inHand.isNone
      && ((List.range ws.length).all fun i =>
        (meeting ws).work.mem.readWord ((meeting ws).work.bodyAddress 1 (((meeting ws).progressOf 1).nextWord + i))
          == ws.getD i 0)
      && decide (((meeting ws).progressOf 1).nextWord + ws.length ≤ ((meeting ws).progressOf 1).bodyLength)) = true) :
    (meeting ws).MeetsRecord 1 ws := meets_of_words a q h

theorem test_witness_move : (meeting [0x0FFF, 0x8000, 0x7FFF]).MeetsRecord 1 [0x0FFF, 0x8000, 0x7FFF] ∧
    recordKind 0x0FFF = .move := ⟨meets_meeting rfl rfl (by decide +kernel), by decide⟩

theorem test_move_sets_pen : ∃ t, exec .move (meeting [0x0000, 0x8000, 0x7FFF]) = .next t ∧
    (t.contextOf 1).penX = 0x8000 ∧ (t.contextOf 1).penY = 0x7FFF ∧ (t.work.laneOf 1).state = .parked :=
  ⟨_, rfl, by decide +kernel, by decide +kernel, by decide +kernel⟩

theorem test_witness_settings :
    (meeting [0x8000]).MeetsRecord 1 [0x8000] ∧ (meeting [0x8003]).MeetsRecord 1 [0x8003] ∧
      (meeting [0x9000, 0, 511, 511, 511]).MeetsRecord 1 [0x9000, 0, 511, 511, 511] ∧
      (meeting [0xA004]).MeetsRecord 1 [0xA004] ∧ (meeting [0xA018]).MeetsRecord 1 [0xA018] ∧
      (0xA004 : Word).extractLsb' 2 2 = 1 ∧ (0xA018 : Word).extractLsb' 2 2 = 2 ∧ (511 : Word).toInt ≤ 511 :=
  ⟨meets_meeting rfl rfl (by decide +kernel), meets_meeting rfl rfl (by decide +kernel),
    meets_meeting rfl rfl (by decide +kernel), meets_meeting rfl rfl (by decide +kernel),
    meets_meeting rfl rfl (by decide +kernel), by decide, by decide, by decide⟩

/-- A body of one word that is the head of a MOVE, so that the record runs past it; and a body of three, whose last word can
fail. -/
theorem test_witness_unreadable :
    (.move, .move) ∈ recordCommands ∧ (meeting [0x0000]).awake ∧ (meeting [0x0000]).work.servedLane = some 1 ∧
      ((meeting [0x0000]).progressOf 1).inHand = none ∧ (meeting [0x0000]).work.quiet ∧
      ((meeting [0x0000]).progressOf 1).nextWord < ((meeting [0x0000]).progressOf 1).bodyLength ∧
      recordKind ((meeting [0x0000]).work.mem.readWord ((meeting [0x0000]).work.bodyAddress 1 0)) = .move ∧
      ((meeting [0x0000]).progressOf 1).bodyLength < 0 + recordLength .move 0 ∧
      0 + recordLength .move 0 ≤ ((meeting [0, 0, 0]).progressOf 1).bodyLength ∧ 2 < recordLength .move 0 :=
  ⟨by decide, rfl, rfl, rfl, rfl, by decide, by decide +kernel, by decide, by decide, by decide⟩

theorem test_parity_ends_block :
    ∃ t, exec .move (failing 0 .parity (meeting [0, 0, 0])) = .next t ∧
      (t.work.laneOf 1).state = .held ∧ (t.work.laneOf 1).lastOutcome = .memory ∧ t.work.mem.readWord 0x70 = 1 ∧
      t.work.mem.readWord 0x74 = 0x100C ∧ t.work.mem.readWord 0x76 = 3 ∧ t.work.mem.readWord 0x78 = 1 ∧
      t.work.hasCause .memory = true :=
  ⟨_, rfl, by decide +kernel, by decide +kernel, by decide +kernel, by decide +kernel, by decide +kernel,
    by decide +kernel, by decide +kernel⟩

/-- The last word of a MOVE cannot be read: the pen stays where it was. -/
theorem test_later_word_fails :
    ∃ t, exec .move (failing 2 (.noAnswer false) (meeting [0, 7, 7])) = .next t ∧
      (t.work.laneOf 1).lastOutcome = .memory ∧ (t.contextOf 1).penX = 0 ∧ t.work.mem.readWord 0x74 = 0x1010 :=
  ⟨_, rfl, by decide +kernel, by decide +kernel, by decide +kernel⟩

theorem test_witness_outOfRange :
    (meeting [0x3000, 0, 513]).MeetsRecord 1 [0x3000, 0, 513] ∧
      (meeting [0x5000, 17, 1, 0, 4, 1]).MeetsRecord 1 [0x5000, 17, 1, 0, 4, 1] ∧
      (meeting [0x6014, 511, 0, 2, 1, 0]).MeetsRecord 1 [0x6014, 511, 0, 2, 1, 0] ∧
      (meeting [0x8004]).MeetsRecord 1 [0x8004] ∧
      (meeting [0x9000, 1, 0, 0, 511]).MeetsRecord 1 [0x9000, 1, 0, 0, 511] ∧
      (meeting [0xA000]).MeetsRecord 1 [0xA000] ∧ (meeting [0xB010, 32, 0, 0]).MeetsRecord 1 [0xB010, 32, 0, 0] ∧
      (meeting [0xC000, 0, 0, 1, 65, 0x0200]).MeetsRecord 1 [0xC000, 0, 0, 1, 65, 0x0200] ∧
      (meeting [0xD002]).MeetsRecord 1 [0xD002] ∧ (meeting [0x4000]).MeetsRecord 1 [0x4000] :=
  ⟨meets_meeting rfl rfl (by decide +kernel), meets_meeting rfl rfl (by decide +kernel),
    meets_meeting rfl rfl (by decide +kernel), meets_meeting rfl rfl (by decide +kernel),
    meets_meeting rfl rfl (by decide +kernel), meets_meeting rfl rfl (by decide +kernel),
    meets_meeting rfl rfl (by decide +kernel), meets_meeting rfl rfl (by decide +kernel),
    meets_meeting rfl rfl (by decide +kernel), meets_meeting rfl rfl (by decide +kernel)⟩

theorem test_outOfRange_ends_block : ∃ t, exec .setmode (meeting [0x8004]) = .next t ∧
    (t.work.laneOf 1).lastOutcome = .badRecord ∧ (t.work.laneOf 1).state = .held ∧ (t.contextOf 1).mode = .set :=
  ⟨_, rfl, by decide +kernel, by decide +kernel, by decide +kernel⟩

theorem test_witness_point : (meeting [0x1000, 511, 0]).panel.Sound ∧
    (meeting [0x1000, 511, 0]).MeetsRecord 1 [0x1000, 511, 0] ∧ recordKind 0x1000 = .point :=
  ⟨meeting_sound _, meets_meeting rfl rfl (by decide +kernel), by decide⟩

theorem test_point_draws : ∃ t, exec .point (meeting [0x1000, 511, 7]) = .next t ∧ t.panel.drawn[7] = 1 <<< 511 ∧
    t.panel.queue = [7] ∧ t.panel.drawn[6] = 0 ∧ t.work.mem.readWord 0x31008 = 1 :=
  ⟨_, rfl, by decide +kernel, by decide +kernel, by decide +kernel, by decide +kernel⟩

theorem test_witness_vector : (meeting [0x2000, 0xFFFF, 511]).panel.Sound ∧
    (meeting [0x2000, 0xFFFF, 511]).MeetsRecord 1 [0x2000, 0xFFFF, 511] ∧ recordKind 0x2000 = .vector :=
  ⟨meeting_sound _, meets_meeting rfl rfl (by decide +kernel), by decide⟩

/-- A line from (0, 0) to (4, 2): a half is rounded away from the start. -/
theorem test_vector_cells : (List.range 5).map (lineCell 0 0 4 2) = [(0, 0), (1, 1), (2, 1), (3, 2), (4, 2)] ∧
    (List.range 5).map (lineCell 4 2 (-4) (-2)) = [(4, 2), (3, 1), (2, 1), (1, 0), (0, 0)] := by decide +kernel

/-- A line drawn upward joins its rows in descending order. -/
theorem test_vector_joins : ∃ t, exec .vector ((meeting [0x2000, 0, 0]).modLane 1 (Lane.withPen 0 2)) = .next t ∧
    t.panel.queue = [2, 1, 0] := ⟨_, rfl, by decide +kernel⟩

theorem test_witness_area : (meeting [0x3000, 512, 1]).panel.Sound ∧
    (meeting [0x3000, 512, 1]).MeetsRecord 1 [0x3000, 512, 1] ∧ recordKind 0x3000 = .area ∧
    (holding (.area 0 0 512 512 511)).panel.Sound ∧
    (holding (.area 0 0 512 512 511)).HasInHand 1 (.area 0 0 512 512 511) :=
  ⟨meeting_sound _, meets_meeting rfl rfl (by decide +kernel), by decide, test_reset_sound, holding_inHand _⟩

theorem test_witness_image : (meeting [0x5000, 512, 1, 0, 4, 32]).panel.Sound ∧
    (meeting [0x5000, 512, 1, 0, 4, 32]).MeetsRecord 1 [0x5000, 512, 1, 0, 4, 32] ∧ recordKind 0x5000 = .image ∧
    (holding (.image 0 0 512 2 0x40000 32 1)).HasInHand 1 (.image 0 0 512 2 0x40000 32 1) ∧
    (512 : Nat) ≤ 512 :=
  ⟨meeting_sound _, meets_meeting rfl rfl (by decide +kernel), by decide, holding_inHand _, Nat.le_refl 512⟩

/-- The last of the 32 words of an IMAGE's row cannot be read. -/
theorem test_image_read_fails :
    ∃ t, exec .image (failing 37 .parity (meeting [0x5000, 512, 1, 0, 4, 32])) = .next t ∧
      (t.work.laneOf 1).lastOutcome = .memory ∧ t.work.mem.readWord 0x74 = 62 ∧ t.work.mem.readWord 0x76 = 4 ∧
      t.panel.queue = [] := ⟨_, rfl, by decide +kernel, by decide +kernel, by decide +kernel, by decide +kernel⟩

theorem test_witness_text : (meeting [0x4001, 0x7F00]).panel.Sound ∧
    (meeting [0x4001, 0x7F00]).MeetsRecord 1 [0x4001, 0x7F00] ∧ recordKind 0x4001 = .text ∧
    ((meeting [0x4001, 0x7F00]).contextOf 1).Legal ∧ (recordImmediate 0x4001).toNat = [(0x7F : Byte)].length ∧
    (0x7F00 : Word).extractLsb' 8 8 = (0x7F : Byte) ∧
    (holding (.text [0x41, 0x0D] 1)).HasInHand 1 (.text [0x41, 0x0D] 1) ∧ ((holding (.text [0x41, 0x0D] 1)).contextOf 1).Legal :=
  ⟨meeting_sound _, meets_meeting rfl rfl (by decide +kernel), by decide,
    ⟨by decide, by decide, by decide, by decide, Or.inl rfl⟩, by decide, by decide, holding_inHand _,
    ⟨by decide, by decide, by decide, by decide, Or.inl rfl⟩⟩

/-- A row of the solid glyph 7FH at the pen (0, 0), and at scale 2 at column 500; and a line feed. -/
theorem test_text_row :
    fixedGlyphRow 127 0 = 0xFF ∧ (patternRow 0 8 0 (glyphColumns 1 0xFF)).ones = 0xFF ∧
      (patternRow 500 16 0 (glyphColumns 2 0x80)).ones = 3 <<< 500 := by decide +kernel

theorem test_text_feeds : ∃ t, exec .text (meeting [0x4001, 0x0A00]) = .next t ∧ (t.contextOf 1).penY = 16 ∧
    (t.contextOf 1).penX = 0 := ⟨_, rfl, by decide +kernel, by decide +kernel⟩

theorem test_witness_readback :
    (meeting [0x6204, 0, 511, 512, 1, 0]).MeetsRecord 1 [0x6204, 0, 511, 512, 1, 0] ∧
      (0x6204 : Word).extractLsb' 4 8 = 32 ∧
      (meeting [0x6016, 0, 0, 16, 1, 0]).MeetsRecord 1 [0x6016, 0, 0, 16, 1, 0] ∧
      (meeting [0x6016, 0, 0, 16, 1, 0]).work.port.fence = some { low := 0x40000, high := 0x60000 } ∧
      (holding (.readback 0 0 16 2 0x5FFFE 1 1)).HasInHand 1 (.readback 0 0 16 2 0x5FFFE 1 1) ∧
      (holding (.readback 0 0 16 2 0x40000 1 1)).HasInHand 1 (.readback 0 0 16 2 0x40000 1 1) :=
  ⟨meets_meeting rfl rfl (by decide +kernel), by decide, meets_meeting rfl rfl (by decide +kernel), rfl,
    holding_inHand _, holding_inHand _⟩

theorem test_readback_write_fails :
    ∃ t, exec .readback (failing 6 (.noAnswer true) (meeting [0x6014, 0, 0, 16, 1, 0])) = .next t ∧
      (t.work.laneOf 1).lastOutcome = .memory ∧ t.work.mem.readWord 0x70 = 2 ∧ t.work.mem.readWord 0x76 = 4 :=
  ⟨_, rfl, by decide +kernel, by decide +kernel, by decide +kernel⟩

/-- The supply READY. -/
def supplied (s : State) : State := s.onPanel fun p => { p with supply := { p.supply with state := .ready, supok := true } }

theorem supplied_sound (ws : List Word) : (supplied (meeting ws)).panel.Sound :=
  sound_of_dark _ rfl rfl rfl rfl rfl rfl rfl rfl rfl rfl

theorem test_witness_clearall : (supplied (meeting [0x7000])).panel.Sound ∧
    (supplied (meeting [0x7000])).MeetsRecord 1 [0x7000] ∧ recordKind 0x7000 = .clearall ∧
    (supplied (meeting [0x7000])).panel.supply.state = .ready ∧ (supplied (meeting [0x7000])).panel.driver.state = .idle ∧
    (meeting [0x7000]).panel.Sound ∧ (meeting [0x7000]).MeetsRecord 1 [0x7000] :=
  ⟨supplied_sound _, meets_of_words rfl rfl (by decide +kernel), by decide, rfl, rfl, meeting_sound _,
    meets_meeting rfl rfl (by decide +kernel)⟩

theorem test_witness_glyphload : (meeting [0xB011, 127, 0, 4]).MeetsRecord 1 [0xB011, 127, 0, 4] ∧
    recordKind 0xB011 = .glyphload ∧ 1 ≤ ((0xB011 : Word).extractLsb' 0 2).toNat ∧
    (127 : Word).toNat + ((0xB011 : Word).extractLsb' 4 7).toNat ≤ 128 :=
  ⟨meets_meeting rfl rfl (by decide +kernel), by decide, by decide, by decide⟩

theorem test_glyphload_read_fails :
    ∃ t, exec .glyphload (failing 11 .parity (meeting [0xB011, 127, 0, 4])) = .next t ∧
      (t.work.laneOf 1).lastOutcome = .memory ∧ t.work.mem.readWord 0x74 = 14 ∧ t.work.mem.readWord 0x72 = 1 :=
  ⟨_, rfl, by decide +kernel, by decide +kernel, by decide +kernel⟩

theorem meeting_noneDraining (ws : List Word) : (meeting ws).work.noneDraining := by
  have h : ∀ n : LaneNo, (serving 1 ws.length (testState .running)).work.laneOf n =
      if n = 1 then (serving 1 ws.length (testState .running)).work.laneOf 1 else Lane.reset := by
    intro n; fin_cases n <;> rfl
  intro n
  have e : (meeting ws).work.laneOf n = (serving 1 ws.length (testState .running)).work.laneOf n := by
    simp [Work.laneOf, meeting, withWords, State.onWork]
  rw [e, h n]
  split <;> exact fun k => nomatch k

theorem test_witness_marker :
    (meeting [0xC001, 511, 448, 1, 64, 0x0202]).panel.Sound ∧ (meeting [0xC001, 511, 448, 1, 64, 0x0202]).DrainsWait ∧
      (meeting [0xC001, 511, 448, 1, 64, 0x0202]).MeetsRecord 1 [0xC001, 511, 448, 1, 64, 0x0202] ∧
      (meeting [0xC001, 511, 448, 1, 64, 0x0202]).panel.markers[1].Legal ∧
      (recordImmediate 0xC001).toNat = (1 : Fin 2).val ∧
      (meeting [0xD000]).panel.Sound ∧ (meeting [0xD000]).DrainsWait ∧ (meeting [0xD000]).MeetsRecord 1 [0xD000] ∧
      (meeting [0xD000]).panel.markers[0].Legal :=
  ⟨meeting_sound _, fun _ => meeting_noneDraining _, meets_meeting rfl rfl (by decide +kernel),
    fun h => absurd h (by decide +kernel), by decide, meeting_sound _, fun _ => meeting_noneDraining _,
    meets_meeting rfl rfl (by decide +kernel), fun h => absurd h (by decide +kernel)⟩

/-- Lane 2 in a DRAIN, a stale row in the queue of a glass that is OFF, and these words to be met. -/
def meetingBeside (ws : List Word) : State :=
  (withLane 2 .draining id (meeting ws)).onPanel fun p => { p with queue := [5], settled := false }

theorem test_witness_markerBesideDrain :
    (meetingBeside [0xC001, 511, 448, 1, 64, 0x0202]).panel.Sound ∧
      (meetingBeside [0xC001, 511, 448, 1, 64, 0x0202]).DrainsWait ∧
      ((meetingBeside [0xC001, 511, 448, 1, 64, 0x0202]).work.laneOf 2).state = .draining ∧
      (meetingBeside [0xC001, 511, 448, 1, 64, 0x0202]).MeetsRecord 1 [0xC001, 511, 448, 1, 64, 0x0202] :=
  ⟨{  queueNodup := by decide +kernel
      firingNotQueued := fun _ h => nomatch h
      noPulse := ⟨fun _ => Or.inl rfl, fun _ => rfl⟩
      rowPulse := fun _ h => nomatch h
      bulkAsked := fun h => nomatch h
      cleanAgrees := fun r _ => reset_differs _ rfl rfl rfl rfl rfl r
      darkUnlessReady := fun _ => ⟨rfl, rfl, rfl, rfl⟩
      nothingWaits := fun _ h => nomatch h
      settledFlag := by decide +kernel }, (nomatch ·), by decide +kernel, meets_of_words rfl rfl (by decide +kernel)⟩

/-- A MARK completes no DRAIN. -/
theorem test_mark_beside_drain : ∃ t, exec .mark (meetingBeside [0xC001, 511, 448, 1, 64, 0x0202]) = .next t ∧
    (t.work.laneOf 2).state = .draining ∧ t.panel.queue.length = 65 ∧ t.work.hasCause .settled = false :=
  ⟨_, rfl, by decide +kernel, by decide +kernel, by decide +kernel⟩

/-- A marker of one cell at (0, 5), on. -/
def oneCell (y : Nat) : Marker :=
  { active := true, x := 0, y := y, w := 1, h := 1, period := 2, onTime := 2, counter := 0, on := true }

/-- A READY glass that shows marker 0, which is such a marker, with these words to be met. -/
def marked (ws : List Word) : State := (supplied (meeting ws)).onPanel fun p =>
  { p with markers := p.markers.set 0 (oneCell 5), panel := Plane.dark.set 5 1 }

theorem marked_agrees (ws : List Word) (r : Row) : (marked ws).panel.differs r = false := by
  have overlay : (marked ws).panel.overlayRow r = (oneCell 5).rowMask r ^^^ Marker.reset.rowMask r := rfl
  have panel : (marked ws).panel.panel = Plane.dark.set 5 1 := rfl
  have drawn : (marked ws).panel.drawn[r.val] = 0 := by
    show Plane.dark[r.val] = 0
    simp [Plane.dark]
  have off : Marker.reset.rowMask r = 0 := rfl
  refine (Panel.differs_eq_false _ r).mpr ⟨?_, ?_⟩
  · rw [overlay, drawn, off, panel]
    by_cases e : r = 5
    · subst e
      decide +kernel
    · have ne : ¬5 = r.val := fun h => e (Fin.ext h.symm)
      have mask : (oneCell 5).rowMask r = 0 := by
        unfold Marker.rowMask Marker.reaches
        refine if_neg fun h => ne ?_
        simp only [Bool.and_eq_true, decide_eq_true_eq] at h
        have reach : 5 ≤ r.val ∧ r.val < 5 + 1 := h.2
        omega
      rw [mask, Vector.getElem_set_ne _ _ ne]
      simp [Plane.dark]
  · show Plane.dark[r.val] = 0
    simp [Plane.dark]

theorem test_witness_markerOn (ws : List Word) :
    (marked ws).panel.Sound ∧ (marked ws).DrainsWait ∧ (marked ws).panel.markers[0].Legal ∧
      (marked ws).panel.markers[0].on = true ∧ (marked ws).panel.rowState 5 = .clean :=
  ⟨{  queueNodup := List.nodup_nil
      firingNotQueued := fun _ _ => List.not_mem_nil
      noPulse := ⟨fun _ => Or.inl rfl, fun _ => rfl⟩
      rowPulse := fun _ h => nomatch h
      bulkAsked := fun h => nomatch h
      cleanAgrees := fun r _ => marked_agrees ws r
      darkUnlessReady := fun h => absurd rfl h
      nothingWaits := fun _ _ => ⟨rfl, rfl⟩
      settledFlag := rfl }, fun _ => meeting_noneDraining ws,
    show (oneCell 5).Legal from fun _ => by decide, rfl, rfl⟩

theorem test_marked_meets : (marked [0xC000, 0, 6, 1, 1, 0x0202]).MeetsRecord 1 [0xC000, 0, 6, 1, 1, 0x0202] ∧
    (marked [0xC000, 0, 5, 1, 1, 0x0202]).MeetsRecord 1 [0xC000, 0, 5, 1, 1, 0x0202] ∧
    (marked [0xD000]).MeetsRecord 1 [0xD000] :=
  ⟨meets_of_words rfl rfl (by decide +kernel), meets_of_words rfl rfl (by decide +kernel),
    meets_of_words rfl rfl (by decide +kernel)⟩

/-- A MARK over a marker that is on: the old row joins and then the new one, and the driver takes the first. -/
theorem test_mark_moves : ∃ t, exec .mark (marked [0xC000, 0, 6, 1, 1, 0x0202]) = .next t ∧ t.panel.queue = [6] ∧
    t.panel.driver.state = .firing ∧ t.panel.settled = false :=
  ⟨_, rfl, by decide +kernel, by decide +kernel, by decide +kernel⟩

/-- A MARK that defines the marker anew where it was: its row joins and is found stale. -/
theorem test_mark_stays : ∃ t, exec .mark (marked [0xC000, 0, 5, 1, 1, 0x0202]) = .next t ∧ t.panel.queue = [] ∧
    t.panel.driver.state = .idle ∧ t.panel.settled = true ∧ t.work.hasCause .settled = true :=
  ⟨_, rfl, by decide +kernel, by decide +kernel, by decide +kernel, by decide +kernel⟩

theorem test_witness_waitDrain :
    (meeting [0xE000, 0]).MeetsRecord 1 [0xE000, 0] ∧ (meeting [0xE000, 0xFFFF]).MeetsRecord 1 [0xE000, 0xFFFF] ∧
      (meeting [0xF000, 0]).MeetsRecord 1 [0xF000, 0] ∧ (meeting [0xF000, 0]).panel.settled = true ∧
      ((meeting [0xE000, 1]).modLane 1 fun l => { l with cancelRequested := true }).MeetsRecord 1 [0xE000, 1] ∧
      ((meeting [0xF000, 1]).onPanel fun p => { p with settled := false }).MeetsRecord 1 [0xF000, 1] :=
  ⟨meets_meeting rfl rfl (by decide +kernel), meets_meeting rfl rfl (by decide +kernel),
    meets_meeting rfl rfl (by decide +kernel), rfl, meets_of_words rfl rfl (by decide +kernel),
    meets_of_words rfl rfl (by decide +kernel)⟩

/-! ## Witnesses: the glass -/

/-- The reset panel with the supply READY, row 3 lit in D, and these rows in the queue. -/
def litPanel (queue : List Row) : Panel :=
  { State.reset.panel with
    drawn := Plane.dark.set 3 1, queue := queue, supply := { state := .ready, ramp := 0, supok := true } }

theorem test_witness_join :
    (litPanel []).rowState 3 = .clean ∧ ((litPanel []).drawn.cell 0 3 != ((litPanel []).overlayRow 3).getLsbD 0) !=
        (litPanel []).panel.cell 0 3 ∧ (litPanel [3]).rowState 3 ≠ .clean ∧
      (∀ x : Fin 512, (State.reset.panel.drawn.cell x 0 != (State.reset.panel.overlayRow 0).getLsbD x.val) =
        State.reset.panel.panel.cell x 0 ∧ State.reset.panel.doubt.cell x 0 = false) := by
  refine ⟨by decide +kernel, by decide +kernel, by decide +kernel, fun x => ?_⟩
  have e : State.reset.panel.overlayRow 0 = 0 := by decide +kernel
  rw [e]
  simp [Plane.cell, State.reset, Panel.reset, Plane.dark]

theorem test_witness_startTest :
    State.reset.panel.supply.state ≠ .ready ∧ (litPanel []).driver.state = .idle ∧ (litPanel []).supply.state = .ready ∧
      (litPanel []).bulkRequest = false ∧ (litPanel [5, 3]).queue = [5] ++ 3 :: [] ∧ (litPanel [5, 3]).differs 5 = false ∧
      (litPanel [5, 3]).differs 3 = true :=
  ⟨by decide, rfl, rfl, rfl, rfl, by decide +kernel, by decide +kernel⟩

/-- Two markers that are on cancel over the cell they share; a corner of each is covered, and the cells beyond are not. -/
theorem test_overlay :
    let m0 : Marker := { active := true, x := 448, y := 448, w := 64, h := 64, period := 2, onTime := 2, counter := 0, on := true }
    let m1 : Marker := { m0 with x := 511, y := 511, w := 1, h := 1 }
    let p : Panel := { State.reset.panel with markers := #v[m0, m1] }
    (p.overlayRow 511).getLsbD 511 = false ∧ (p.overlayRow 511).getLsbD 510 = true ∧ (p.overlayRow 448).getLsbD 448 = true ∧
      (p.overlayRow 448).getLsbD 447 = false ∧ (p.overlayRow 447).getLsbD 448 = false ∧
      m0.covers 511 511 = true ∧ m1.covers 511 511 = true ∧ m1.covers 510 511 = false ∧
      ({ m0 with on := false } : Marker).covers 448 448 = false := by decide +kernel

theorem test_startTest_fires : (litPanel [5, 3]).startTest.driver.state = .firing ∧ (litPanel [5, 3]).startTest.queue = [] ∧
    (litPanel [5, 3]).startTest.driver.pulse.map (fun q => (q.row, q.kind, q.count)) = some (some 3, .write, 1) := by
  decide +kernel

theorem test_witness_settled :
    State.reset.work.quiet ∧ State.reset.panel.isSettled = true ∧ State.reset.work.noneDraining ∧
      (State.reset.onPanel fun p => { p with settled := false }).panel.settled = false := by
  refine ⟨rfl, rfl, fun n => ?_, rfl⟩
  have h : ∀ n : LaneNo, (State.reset.work.laneOf n).state = .idle := by decide +kernel
  rw [h n]; decide

/-- Lane 2 in a DRAIN, and the flag of a plane store that has just become settled. -/
def drained : State := (withLane 2 .draining id (testState .running)).onPanel fun p => { p with settled := false }

theorem test_witness_drains :
    drained.work.quiet ∧ drained.panel.isSettled = true ∧ drained.panel.settled = false ∧ drained.MemoryCanonical ∧
      (drained.work.laneOf 2).state = .draining :=
  ⟨rfl, rfl, rfl, show Memory.wf [] by decide, rfl⟩

theorem test_drain_writes_record :
    ((noteSettled drained).work.laneOf 2).state = .ready ∧ (noteSettled drained).work.mem.readWord 0xA4 = 1 ∧
      (noteSettled drained).work.mem.readWord 0xA6 = 0x1000 ∧ (noteSettled drained).work.mem.readWord 0xA8 = 3 ∧
      (noteSettled drained).work.mem.readWord 0xAE = 0 := by decide +kernel

/-- A row pulse of one column for row 3. -/
def testRowPulse (deadline : Option Nat) : Pulse :=
  { kind := .write, row := some 3, selection := 1, count := 1, deadline := deadline }

/-- A BULK pulse. -/
def testBulkPulse (deadline : Option Nat) : Pulse :=
  { kind := .bulk, row := none, selection := BitVec.allOnes 512, count := 512, deadline := deadline }

/-- The driver in a state with this pulse. -/
def driving (st : DriverState) (pulse : Option Pulse) : State := State.reset.onPanel fun _ =>
  { litPanel [] with driver := { Driver.reset with state := st, pulse := pulse } }

theorem test_witness_issue :
    (driving .firing (some (testRowPulse none))).awake ∧
      (driving .firing (some (testRowPulse none))).panel.driver.state = .firing ∧
      (driving .firing (some (testRowPulse none))).panel.driver.pulse = some (testRowPulse none) ∧
      (testRowPulse none).row = some 3 ∧ (testRowPulse none).deadline = none ∧
      (driving .bulk (some (testBulkPulse none))).panel.driver.state = .bulk ∧ (testBulkPulse none).deadline = none ∧
      State.reset.panel.driver.state ≠ .firing ∧ State.reset.panel.driver.state ≠ .bulk :=
  ⟨rfl, rfl, rfl, rfl, rfl, rfl, rfl, by decide, by decide⟩

theorem reset_noPulse : State.reset.panel.NoPulseIssued :=
  ⟨fun _ _ _ h => absurd h.1 (by decide), fun _ _ h => absurd h.1 (by decide)⟩

theorem test_witness_answers :
    (driving .firing (some (testRowPulse (some 1)))).awake ∧ (driving .firing (some (testRowPulse (some 1)))).work.quiet ∧
      (driving .firing (some (testRowPulse (some 1)))).panel.RowPulseIssued (testRowPulse (some 1)) 3 1 ∧
      (driving .firing (some (testRowPulse (some 2)))).panel.RowPulseIssued (testRowPulse (some 2)) 3 2 ∧
      (driving .bulk (some (testBulkPulse (some 1)))).panel.BulkPulseIssued (testBulkPulse (some 1)) 1 ∧
      (driving .bulk (some (testBulkPulse (some 20)))).panel.BulkPulseIssued (testBulkPulse (some 20)) 20 ∧
      State.reset.panel.NoPulseIssued ∧ (driving .stalled none).panel.driver.state = .stalled ∧
      State.reset.panel.driver.state ≠ .stalled :=
  ⟨rfl, rfl, ⟨rfl, rfl, rfl, rfl⟩, ⟨rfl, rfl, rfl, rfl⟩, ⟨rfl, rfl, rfl⟩, ⟨rfl, rfl, rfl⟩,
    reset_noPulse, rfl, by decide⟩

theorem test_pdone_lights : ∃ t, exec .rowPdone (driving .firing (some (testRowPulse (some 3)))) = .next t ∧
    t.panel.panel[3] = 1 ∧ t.panel.driver.state = .idle ∧ t.panel.settled = true :=
  ⟨_, rfl, by decide +kernel, by decide +kernel, by decide +kernel⟩

theorem test_timeout_doubts : ∃ t, exec .pulseTimeout (driving .firing (some (testRowPulse (some 1)))) = .next t ∧
    t.panel.doubt[3] = 1 ∧ t.panel.driver.state = .stalled ∧ t.panel.queue = [3] ∧ t.work.mem.readWord 0x60 = 2 ∧
    t.work.time.clock = 1 :=
  ⟨_, rfl, by decide +kernel, by decide +kernel, by decide +kernel, by decide +kernel, by decide +kernel⟩

/-- Access 0 is the read of the kind word, and accesses 1 to 5 are the words of the record. -/
theorem test_witness_driveFaultCut (pulse : Pulse) :
    State.reset.work.mem.readWord (State.reset.work.exchange 0x60) = 0 ∧
      (∃ v, State.reset.work.DriveFaultCut 0 .parity 1 3 pulse v) ∧
      (∃ v, State.reset.work.DriveFaultCut 1 (.noAnswer false) 2 3 pulse v) ∧
      (∃ v, State.reset.work.DriveFaultCut 5 (.noAnswer true) 3 0 pulse v) :=
  have empty : State.reset.work.mem.readWord (State.reset.work.exchange 0x60) = 0 := by decide +kernel
  ⟨empty, ⟨_, Or.inl ⟨rfl, 1, Or.inl ⟨rfl, rfl⟩, rfl⟩⟩,
    ⟨_, Or.inr ⟨0, false, rfl, by decide, rfl, empty, rfl⟩⟩, ⟨_, Or.inr ⟨4, true, rfl, by decide, rfl, empty, rfl⟩⟩⟩

/-- The kind word of the drive fault record is not stored: the driver is STALLED and DRIVE_FAULT set all the same. -/
theorem test_drive_fault_write_fails :
    ∃ t, exec .pfault (failing 5 (.noAnswer false) (driving .firing (some (testRowPulse (some 1))))) = .next t ∧
      t.panel.driver.state = .stalled ∧ t.work.mem.readWord 0x60 = 0 ∧ t.work.mem.readWord 0x62 = 3 ∧
      t.work.mem.readWord 0x72 = 1 ∧ t.work.mem.readWord 0x78 = 8 ∧ t.work.hasCause .driveFault = true ∧
      t.work.hasCause .memory = true :=
  ⟨_, rfl, by decide +kernel, by decide +kernel, by decide +kernel, by decide +kernel, by decide +kernel, by decide +kernel,
    by decide +kernel⟩

/-- A tick alone brings the expiry, in HALTED too, and one before it only counts. -/
theorem test_tick_times_out :
    (tickAll (driving .firing (some (testRowPulse (some 1))))).panel.driver.state = .stalled ∧
      (tickAll (driving .firing (some (testRowPulse (some 2))))).panel.driver.pulse = some (testRowPulse (some 1)) := by
  decide +kernel

/-- A STALLED driver over a dark glass with the supply READY. -/
def stalledDark : State := State.reset.onPanel fun p =>
  { p with driver := { p.driver with state := .stalled }, supply := { p.supply with state := .ready, supok := true } }

theorem test_witness_resumeWithPanelOff : stalledDark.awake ∧ stalledDark.panel.driver.state = .stalled ∧ stalledDark.panel.Sound :=
  ⟨rfl, rfl,
    { queueNodup := List.nodup_nil
      firingNotQueued := fun _ _ => List.not_mem_nil
      noPulse := by decide +kernel
      rowPulse := fun _ h => nomatch h
      bulkAsked := fun h => nomatch h
      cleanAgrees := fun r _ => reset_differs _ rfl rfl rfl rfl rfl r
      darkUnlessReady := fun _ => ⟨rfl, rfl, rfl, rfl⟩
      nothingWaits := fun h => nomatch h
      settledFlag := rfl }⟩

/-- A CONTROL write with PANEL_ON 0 and DRIVE_RESUME 1 starts no pulse, though a row waits (R45). -/
theorem test_resume_starts_nothing :
    ∃ t u, exec (.panelOn false) ((driving .stalled none).onPanel fun p => { p with queue := [3], settled := false }) = .next t ∧
      exec .driveResume t = .next u ∧ u.panel.driver.state = .idle ∧ u.panel.driver.pulse = none :=
  ⟨_, _, rfl, rfl, by decide +kernel, by decide +kernel⟩

/-- The supply in a state, with its ramp count and SUPOK. -/
def supplying (st : SupplyState) (ramp : Nat) (supok : Bool) : State :=
  State.reset.onPanel fun p => { p with supply := { state := st, ramp := ramp, supok := supok } }

theorem test_witness_supply :
    State.reset.awake ∧ State.reset.panel.supply.state = .off ∧
      (∀ st : SupplyState, (supplying st 0 true).panel.supply.state = st) ∧
      ((supplying .ramping 9 true).panel.supply.state = .ramping ∧ 10 ≤ (supplying .ramping 9 true).panel.supply.ramp + 1 ∧
        (supplying .ramping 9 true).panel.supply.supok = true) ∧
      ¬10 ≤ (supplying .ramping 8 true).panel.supply.ramp + 1 ∧ 10 ≤ (supplying .ramping 10 false).panel.supply.ramp ∧
      ¬10 ≤ (supplying .ramping 9 false).panel.supply.ramp ∧
      (50 ≤ (supplying .ramping 49 false).panel.supply.ramp + 1 ∧ (supplying .ramping 49 false).panel.supply.supok = false) ∧
      ¬50 ≤ (supplying .ramping 48 false).panel.supply.ramp + 1 :=
  ⟨rfl, rfl, fun _ => rfl, ⟨rfl, by decide, rfl⟩, by decide, by decide, by decide, ⟨by decide, rfl⟩, by decide⟩

theorem test_ramp_ready : ∃ t, exec .rampReady (supplying .ramping 9 true) = .next t ∧ t.panel.supply.state = .ready ∧
    t.work.hasCause .supply = true ∧ t.work.time.clock = 1 := ⟨_, rfl, by decide +kernel, by decide +kernel, by decide +kernel⟩

theorem test_tick_ends_ramp :
    (supplying .ramping 49 false).panel.supply.failsNext = true ∧
      (tickAll (supplying .ramping 9 true)).panel.supply.state = .ready ∧
      (tickAll (supplying .ramping 8 true)).panel.supply.ramp = 9 := by decide +kernel

/-- An active marker over the row 511, off, whose next counted tick takes its counter to 0. -/
def lastTick (onTime : Nat) : Marker :=
  { active := true, x := 448, y := 511, w := 64, h := 1, period := 2, onTime := onTime, counter := 1, on := false }

/-- Marker 0 is such a marker, in this engine state. -/
def blinking (e : EngineState) (onTime : Nat) : State :=
  (testState e).onPanel fun p => { p with markers := p.markers.set 0 (lastTick onTime) }

theorem test_witness_markerFlip :
    (blinking .running 1).awake ∧ (blinking .running 1).panel.Sound ∧ (blinking .running 1).panel.markers[0].Legal ∧
      (blinking .running 1).work.port.engine = .running ∧ (blinking .running 1).panel.markers[0].active = true ∧
      (lastTick 1).on ≠ decide ((lastTick 1).nextCounter < (lastTick 1).onTime) ∧
      (lastTick 0).on = decide ((lastTick 0).nextCounter < (lastTick 0).onTime) ∧
      (blinking .halted 1).work.port.engine ≠ .running ∧ State.reset.panel.markers[1].active = false :=
  ⟨rfl, sound_of_dark _ rfl rfl rfl rfl rfl rfl rfl rfl rfl rfl, fun _ => by decide, rfl, rfl, by decide, by decide, by decide,
    rfl⟩

theorem test_flip_joins : ∃ t, exec (.markerFlip 0) (blinking .running 1) = .next t ∧ t.panel.queue = [511] ∧
    t.panel.markers[0].on = true ∧ t.panel.markers[0].counter = 0 ∧ t.panel.settled = false :=
  ⟨_, rfl, by decide +kernel, by decide +kernel, by decide +kernel, by decide +kernel⟩

/-- No marker flips while the engine is HALTED (R131). -/
theorem test_no_flip_halted : (tickAll (blinking .halted 1)).panel.markers[0] = lastTick 1 ∧
    (tickAll (blinking .running 1)).panel.queue = [511] := by decide +kernel

/-- Two equal markers that flip in one tick cancel: no pulse starts toward one flip alone (R31, R130). -/
theorem test_equal_flips_cancel :
    ∃ s : State, s = (supplied (blinking .running 1)).onPanel (fun p => { p with markers := p.markers.set 1 (lastTick 1) }) ∧
      (tickAll s).panel.markers[1].on = true ∧ (tickAll s).panel.driver.state = .idle ∧ (tickAll s).panel.queue = [] ∧
      (tickAll (supplied (blinking .running 1))).panel.driver.state = .firing :=
  ⟨_, rfl, by decide +kernel, by decide +kernel, by decide +kernel, by decide +kernel⟩

/-! ## Witnesses: the line -/

/-- The line receiver in a state, changed further by `f`; the engine is RUNNING. -/
def receiving (st : LineState) (f : LineReceiver → LineReceiver) : State := (testState .running).onWork fun w =>
  { w with port := { w.port with lineOn := true }, line := f { w.line with state := st } }

/-- A frame that holds slot `k`, or is skipped. -/
def testFrame (slot : Option SlotNo) : Frame :=
  { slot := slot, head := [], delay := [], stored := 0, half := none, octets := 1, bits := 8, long := false, crc := 0xFFFF }

theorem test_witness_lineOn :
    (receiving .off id).awake ∧ (receiving .off id).work.quiet ∧ (receiving .off id).work.line.state = .off ∧
      (receiving .off id).work.port.engine = .running ∧ (testState .halted).work.port.engine ≠ .running ∧
      (receiving .frame fun l => { l with frame := some (testFrame (some 3)) }).work.line.frame = some (testFrame (some 3)) ∧
      (receiving .hunt id).work.line.state ≠ .off ∧ (receiving .hunt id).work.line.frame = none :=
  ⟨rfl, rfl, rfl, rfl, by decide, rfl, by decide, rfl⟩

/-- The window bits of a list. -/
def bits (l : List Bool) : List WindowBit := l.map fun b => { bit := b, flagEnd := false }

/-- A line with NRZI in force. -/
def nrziLine (reference : Option Bool) : State := receiving .hunt fun l =>
  { l with reference := reference, settings := some { nrzi := true, crc32 := true, breakPurge := false, groups := [] } }

theorem test_witness_edges :
    (receiving .hunt id).awake ∧ (receiving .hunt id).work.line.state ≠ .off ∧
      (receiving .hunt id).work.line.settings = some { nrzi := false, crc32 := false, breakPurge := true, groups := [] } ∧
      (nrziLine (some true)).work.line.reference = some true ∧ (nrziLine none).work.line.reference = none ∧
      ((receiving .hunt id).work.line.window.length < 8) ∧
      (receiving .frame fun l => { l with window := bits [true, false, false, false, false, false, false, false] }).work.line.window =
        { bit := true, flagEnd := false } :: bits [false, false, false, false, false, false, false] :=
  ⟨rfl, by decide, rfl, rfl, rfl, by decide, rfl⟩

/-- Bits that complete no event: a 1 in HUNT, the 31st 0 there, and a 0 in BREAK. -/
theorem test_witness_plainBit :
    (receiving .hunt id).work.line.zeros ≠ 31 ∧ (receiving .inBreak id).work.line.state = .inBreak ∧
      (((leaveWindow { (receiving .hunt id).work with line := (receiving .hunt id).work.line.countZero true }).1.line.withBit
        true).windowBits = [true]) ∧
      ([true] : List Bool) ≠ [false, true, true, true, true, true, true, false] ∧
      ∀ old : List Bool, [true] ≠ old ++ [true, true, true, true, true, true, true] := by
  refine ⟨by decide, rfl, rfl, by decide, fun old h => ?_⟩
  have n := congrArg List.length h
  simp at n

theorem test_edgeForms_nrz (st : LineState) (h : st ≠ .off) (f : LineReceiver → LineReceiver) (b : Bool)
    (hs : ∀ l, (f l).state = l.state) (hb : ∀ l, (f l).buffer = l.buffer) (ht : ∀ l, (f l).settings = l.settings) :
    (receiving st f).work.EdgeForms b b (receiving st f).work.line :=
  ⟨rfl, by rw [show (receiving st f).work.line.state = st from hs _]; exact h,
    by rw [show (receiving st f).work.line.buffer = [] from hb _], _, by rw [show (receiving st f).work.line.settings = _ from ht _]; rfl,
    Or.inl ⟨rfl, rfl, rfl⟩⟩

theorem test_edgeForms_nrzi :
    (nrziLine (some true)).work.EdgeForms false false { (nrziLine (some true)).work.line with reference := some false } :=
  ⟨rfl, by decide, rfl, _, rfl, Or.inr ⟨rfl, true, rfl, by decide, rfl⟩⟩

/-- A line whose window holds a 0 and six 1 bits. -/
def flagging (st : LineState) (frame : Option Frame) : State := receiving st fun l =>
  { l with window := bits [false, true, true, true, true, true, true], flagSeen := true, frame := frame }

theorem flagging_edge (st : LineState) (h : st ≠ .off) (frame : Option Frame) (b : Bool) :
    (flagging st frame).work.EdgeForms b b (flagging st frame).work.line :=
  test_edgeForms_nrz st h _ b (fun _ => rfl) (fun _ => rfl) (fun _ => rfl)

theorem test_witness_hunt :
    (flagging .hunt none).awake ∧ (flagging .hunt none).work.line.state = .hunt ∧ (flagging .hunt none).work.line.zeros < 31 ∧
      (leaveWindow { (flagging .hunt none).work with line := (flagging .hunt none).work.line.countZero false }).1.line.windowBits
        = [false, true, true, true, true, true, true] ∧
      (leaveWindow { (flagging .hunt none).work with line := (flagging .hunt none).work.line.countZero true }).1.line.windowBits
        = [false] ++ [true, true, true, true, true, true] ∧
      (leaveWindow { (flagging .hunt none).work with line := (flagging .hunt none).work.line.countZero true }).1.line.flagSeen
        = true := ⟨rfl, rfl, by decide, rfl, rfl, rfl⟩

/-- A line whose full window lets a data bit go that is the eighth of an octet. -/
def octetDue (st : LineState) (frame : Option Frame) : State := receiving st fun l =>
  { l with
    flagSeen := true, frame := frame, octetBits := [true, false, true, false, true, false, true]
    window := bits [false, true, false, true, false, true, false, true] }

theorem test_witness_octets :
    (octetDue .hunt none).awake ∧ (octetDue .hunt none).work.EdgeForms false false (octetDue .hunt none).work.line ∧
      (octetDue .frame (some (testFrame (some 0)))).work.EdgeForms true true
        (octetDue .frame (some (testFrame (some 0)))).work.line ∧
      (∀ i : Fin 8, (0x55 : Byte).getLsbD i.val =
        ((octetDue .hunt none).work.line.octetBits ++ [false]).getD i.val false) ∧
      ((octetDue .hunt none).work.line.withBit false).windowBits.drop 1 ≠ [false, true, true, true, true, true, true, false] ∧
      ((octetDue .hunt none).work.line.withBit false).windowBits.drop 2 ≠ [true, true, true, true, true, true, true] ∧
      (octetDue .hunt none).work.slotOf 0 = .free :=
  ⟨rfl, test_edgeForms_nrz _ (by decide) _ _ (fun _ => rfl) (fun _ => rfl) (fun _ => rfl),
    test_edgeForms_nrz _ (by decide) _ _ (fun _ => rfl) (fun _ => rfl) (fun _ => rfl), by decide +kernel, by decide +kernel,
    by decide +kernel, by decide +kernel⟩

theorem test_frameOpen_fills : ∃ t, exec (.frameOpen false) (octetDue .hunt none) = .next t ∧ t.work.line.state = .frame ∧
    t.work.slotOf 0 = .filling ∧ t.work.mem.readWord 0x50000 = 1 :=
  ⟨_, rfl, by decide +kernel, by decide +kernel, by decide +kernel⟩

/-- The state word of the opened slot cannot be written: the frame is lost and skipped. -/
theorem test_frameOpen_write_fails :
    ∃ t, exec (.frameOpen false) (failing 0 (.noAnswer true) (octetDue .hunt none)) = .next t ∧ t.work.line.state = .frame ∧
      t.work.slotOf 0 = .free ∧ t.work.line.frame.map Frame.slot = some none ∧ t.work.line.losses = 1 ∧
      t.work.mem.readWord 0x72 = 2 ∧ t.work.mem.readWord 0x78 = 8 ∧ t.work.mem.readWord 0x50000 = 0 ∧
      t.work.hasCause .lineLoss = true :=
  ⟨_, rfl, by decide +kernel, by decide +kernel, by decide +kernel, by decide +kernel, by decide +kernel, by decide +kernel,
    by decide +kernel, by decide +kernel⟩

theorem test_witness_noSlotFree :
    ∃ w : Work, w = ({ (octetDue .hunt none).work with line :=
        { (octetDue .hunt none).work.line with slots := Vector.replicate 32 .passed } } : Work) ∧
      w.quiet ∧ w.line.spool = some { base := 0x50000, size := 64, count := 4 } ∧ w.line.frame = none ∧
      ∀ k : SlotNo, k.val < 4 → w.slotOf k ≠ .free :=
  ⟨_, rfl, rfl, rfl, rfl, by decide +kernel⟩

/-- A frame whose delay of two octets is full. -/
def fullDelay (head : List Byte) (half : Option Byte) (stored : Nat) (long : Bool) : Frame :=
  { testFrame (some 0) with head := head, delay := [0xAA, 0xBB], half := half, stored := stored, long := long }

theorem test_witness_delay :
    (octetDue .frame (some (fullDelay [1, 2, 3] (some 4) 47 false))).work.quiet ∧
      (octetDue .frame (some (fullDelay [1, 2, 3] (some 4) 47 false))).work.crcOctets = 2 ∧
      (octetDue .frame (some (fullDelay [1, 2, 3] (some 4) 47 false))).work.payloadRoom = 48 ∧
      (fullDelay [1, 2] none 0 false).head.length < 3 ∧ (fullDelay [1, 2, 3] none 48 false).stored = 48 ∧
      (testFrame (some 0)).delay.length < 2 ∧ (testFrame none).slot = none := by
  refine ⟨rfl, rfl, rfl, by decide, rfl, by decide, rfl⟩

theorem test_witness_frameEnds :
    (flagging .frame (some (testFrame (some 0)))).awake ∧ (flagging .frame (some (testFrame (some 0)))).work.line.state = .frame ∧
      (flagging .frame (some (testFrame (some 0)))).work.EdgeForms true true
        (flagging .frame (some (testFrame (some 0)))).work.line ∧
      (flagging .frame (some (testFrame none))).work.EdgeForms false false (flagging .frame (some (testFrame none))).work.line ∧
      (leaveWindow { (flagging .frame (some (testFrame (some 0)))).work with
        line := (flagging .frame (some (testFrame (some 0)))).work.line }).1.line.windowBits =
          [false, true, true, true, true, true, true] ∧
      (leaveWindow { (flagging .frame (some (testFrame (some 0)))).work with
        line := (flagging .frame (some (testFrame (some 0)))).work.line }).1.line.frame = some (testFrame (some 0)) :=
  ⟨rfl, rfl, flagging_edge _ (by decide) _ _, flagging_edge _ (by decide) _ _, rfl, rfl⟩

/-- A frame of kind `kind` to the address 0, with no payload and the CRC octets of its head. -/
def closing (kind : Byte) : Frame :=
  let crc := ([0, kind, 9] : List Byte).foldl (crcOctet 2) (crcStart 2)
  { testFrame (some 0) with
    head := [0, kind, 9], octets := 5, bits := 40, crc := crc
    delay := [(crc ^^^ 0xFFFF).extractLsb' 0 8, (crc ^^^ 0xFFFF).extractLsb' 8 8] }

/-- The checks that the closing frames meet or fail: each kind's frame passes the CRC, and the others fail one check. -/
theorem test_witness_checks :
    ((closing 1).failedCheck 2 = none ∧ (closing 2).failedCheck 2 = none ∧ (closing 3).failedCheck 2 = none) ∧
      (closing 4).format 2 = none ∧ (closing 1).payloadOctets 2 = 0 ∧
      ({ closing 1 with bits := 39 } : Frame).failedCheck 2 = some .align ∧
      ({ closing 1 with octets := 4 } : Frame).failedCheck 2 = some .short ∧
      ({ closing 1 with long := true } : Frame).failedCheck 2 = some .long ∧
      ({ closing 1 with crc := 0 } : Frame).failedCheck 2 = some .crc ∧
      ({ closing 1 with octets := 6 } : Frame).format 2 = none := by decide +kernel

theorem test_frameClose_runs : ∃ t, exec (.frameClose false) (flagging .frame (some (closing 1))) = .next t ∧
    t.work.line.state = .hunt ∧ t.work.line.accepted = 1 ∧ t.work.line.expected = some 10 ∧ t.work.slotOf 0 = .free ∧
    (t.work.laneOf 3).retireCount = 1 :=
  ⟨_, rfl, by decide +kernel, by decide +kernel, by decide +kernel, by decide +kernel, by decide +kernel⟩

theorem test_frameClose_passes : ∃ t, exec (.frameClose false) (flagging .frame (some (closing 2))) = .next t ∧
    t.work.slotOf 0 = .passed ∧ t.work.hasCause .linePass = true :=
  ⟨_, rfl, by decide +kernel, by decide +kernel⟩

/-- A header word of an acceptance cannot be written, after the eight words of the sequence check's record. -/
theorem test_frameClose_write_fails :
    (((flagging .frame (some (closing 2))).work.headWords 0 (closing 2) 0).length = 7) ∧
      ∃ t, exec (.frameClose false) (failing 8 (.noAnswer false) (flagging .frame (some (closing 2)))) = .next t ∧
        t.work.slotOf 0 = .free ∧ t.work.line.losses = 1 ∧ t.work.line.accepted = 0 ∧ t.work.hasCause .linePass = false ∧
        t.work.mem.readWord 0x4A = LossReason.memory.code :=
  ⟨rfl, _, rfl, by decide +kernel, by decide +kernel, by decide +kernel, by decide +kernel, by decide +kernel⟩

/-- A line with 31 zeros in HUNT. -/
def breaking (st : LineState) : State := receiving st fun l => { l with zeros := 31 }

theorem test_witness_break :
    (breaking .hunt).awake ∧ (breaking .hunt).work.EdgeForms false false (breaking .hunt).work.line ∧
      (breaking .hunt).work.line.zeros = 31 ∧
      (breaking .inBreak).work.EdgeForms true true (breaking .inBreak).work.line ∧
      (breaking .inBreak).work.line.state = .inBreak :=
  ⟨rfl, test_edgeForms_nrz _ (by decide) _ _ (fun _ => rfl) (fun _ => rfl) (fun _ => rfl), rfl,
    test_edgeForms_nrz _ (by decide) _ _ (fun _ => rfl) (fun _ => rfl) (fun _ => rfl), rfl⟩

theorem test_break_begins : ∃ t, exec (.breakEntry false) (breaking .hunt) = .next t ∧ t.work.line.state = .inBreak ∧
    t.work.line.breakFlag = true ∧ t.work.hasCause .lineBreak = true :=
  ⟨_, rfl, by decide +kernel, by decide +kernel, by decide +kernel⟩

/-! ## Witnesses: the engine -/

theorem test_witness_run (e : EngineState) : (testState e).awake ∧ (testState e).work.port.engine = e := ⟨rfl, rfl⟩

/-- STARTING with a settings record whose words are these. -/
def settingUp (ws : List Word) : State :=
  withWords ((wordRun 0x20 16).zip ws) (State.reset.onWork fun w =>
    { w with port := { w.port with run := true, engine := .starting } })

/-- A valid record: budget code 3, fence 40000H to 60000H, spool of 32 slots of 1,024 octets at the fence's low end. -/
def validSettings : List Word := [3, 0, 4, 0, 6, 0, 4, 32, 1024, 7, 0x8021, 0, 0, 0, 0, 0]

theorem test_witness_settingsRead :
    (settingUp validSettings).awake ∧ (settingUp validSettings).work.quiet ∧ validSettings.length = 16 ∧
      (settingUp validSettings).work.port.engine = .starting ∧ (settingUp validSettings).work.port.run = true ∧
      ((List.range 16).all fun i => (settingUp validSettings).work.mem.readWord
        ((settingUp validSettings).work.exchange (0x20 + 2 * i)) == validSettings.getD i 0) = true ∧
      (settingsOf validSettings).failedCheck = none ∧
      (settingsOf [4, 0, 4, 0, 6, 0, 4, 32, 1024, 7, 0, 0, 0, 0, 0, 0]).failedCheck = some .budget ∧
      (settingsOf [0, 0, 4, 0, 4, 0, 4, 32, 1024, 7, 0, 0, 0, 0, 0, 0]).failedCheck = some .fence ∧
      (settingsOf [0, 0, 4, 0, 6, 0, 4, 33, 1024, 7, 0, 0, 0, 0, 0, 0]).failedCheck = some .spool :=
  ⟨rfl, rfl, rfl, rfl, rfl, by decide +kernel, by decide, by decide, by decide, by decide⟩

theorem test_start_completes : ∃ t, exec (.settingsReadEnd none) (settingUp validSettings) = .next t ∧
    t.work.port.engine = .running ∧ t.panel.driver.budget = 128 ∧ t.work.mem.readWord 0 = 0x5120 ∧
    t.work.mem.readWord 0x1E = 0 := ⟨_, rfl, by decide +kernel, by decide +kernel, by decide +kernel, by decide +kernel⟩

theorem test_start_fails_on_memory :
    ∃ t, exec (.settingsReadEnd none) ((settingUp validSettings).onWork fun w =>
        { w with bus := [{ stores := [], answer := .noAnswer false }] }) = .next t ∧
      t.work.port.engine = .halted ∧ t.work.mem.readWord 0x1E = 4 ∧ t.work.mem.readWord 0x70 = 2 ∧
      t.work.mem.readWord 0x78 = 8 ∧ t.work.hasCause .setup = true :=
  ⟨_, rfl, by decide +kernel, by decide +kernel, by decide +kernel, by decide +kernel, by decide +kernel⟩

/-- A station bus on which word `i` of the settings read fails. -/
def failingAt (i : Nat) (answer : BusAnswer) (run : Bool) : State := (settingUp validSettings).onWork fun w =>
  { w with
    port := { w.port with run := run }
    bus := List.replicate i { stores := [], answer := .completes } ++ [{ stores := [], answer := answer }] }

theorem test_witness_failedRead (i : Nat) (answer : BusAnswer) (run : Bool) :
    (failingAt i answer run).awake ∧ (failingAt i answer run).MemoryCanonical ∧
      (failingAt i answer run).work.bus =
        List.replicate i { stores := [], answer := .completes } ++ [{ stores := [], answer := answer }] ∧
      (failingAt i answer run).work.port.engine = .starting ∧ (failingAt i answer run).work.port.run = run :=
  ⟨rfl, show (settingUp validSettings).work.mem.wf by decide +kernel, rfl, rfl, rfl⟩

theorem test_last_word_fails : ∃ t, exec (.settingsReadEnd none) (failingAt 15 .parity true) = .next t ∧
    t.work.port.engine = .halted ∧ t.work.mem.readWord 0x1E = 4 ∧ t.work.mem.readWord 0x70 = 1 ∧
    t.work.mem.readWord 0x74 = 0x3E :=
  ⟨_, rfl, by decide +kernel, by decide +kernel, by decide +kernel, by decide +kernel⟩

/-- The first start writes lane 3's record, whatever stood there (R156). -/
theorem test_first_spool_writes_record :
    ∃ t, exec (.settingsReadEnd none) (withWords [(0xB4, 0xFFFF), (0xBA, 7)] (settingUp validSettings)) = .next t ∧
      t.work.mem.readWord 0xB4 = LaneState.idle.code ∧ t.work.mem.readWord 0xBA = 0 :=
  ⟨_, rfl, by decide +kernel, by decide +kernel⟩

/-- A spool of two slots, where the one in force has four. -/
def otherSpool : Spool := { base := 0x51000, size := 128, count := 2 }

theorem test_witness_changedGeometry :
    (withSlots .starting .ready [{ slot := 1, octets := 6 }] 1 .running).work.quiet ∧
      (withSlots .starting .ready [{ slot := 1, octets := 6 }] 1 .running).work.line.spool ≠ some otherSpool ∧
      (withSlots .starting .ready [{ slot := 1, octets := 6 }] 1 .running).work.activeLane ≠ some 3 ∧
      (withSlots .starting .faulted [] 1 .passed).work.line.spool ≠ some otherSpool ∧
      State.reset.work.line.spool ≠ some otherSpool ∧
      (2 ≤ otherSpool.count ∧ otherSpool.count ≤ 32 ∧ otherSpool.size % 64 = 0 ∧ otherSpool.base.toNat % 64 = 0) ∧
      (testState .starting).work.line.spool = some { base := 0x50000, size := 64, count := 4 } :=
  ⟨rfl, by decide, (by intro h; cases h), by decide, by decide, by decide, rfl⟩

/-- A changed geometry retires lane 3's RUNNING slot CANCELLED in the old spool, and lane 3 is IDLE (R156). -/
theorem test_changed_geometry :
    ∃ w : Work, w = takeGeometry otherSpool (withSlots .starting .ready [{ slot := 1, octets := 6 }] 1 .running).work ∧
      (w.laneOf 3).state = .idle ∧ (w.laneOf 3).lastOutcome = .cancelled ∧ (w.laneOf 3).retireCount = 1 ∧
      w.line.pendingSlots = [] ∧ w.line.spool = some otherSpool ∧ w.mem.readWord 0x5000A = resultWord .cancelled 0 :=
  ⟨_, rfl, by decide +kernel, by decide +kernel, by decide +kernel, by decide +kernel, by decide +kernel, by decide +kernel⟩

/-! ## Witnesses: the invariants -/

theorem test_witness_invariants :
    State.reset.MemoryCanonical ∧ State.reset.panel.Sound ∧ State.reset.work.lanes.activeValid = false ∧
      step State.reset = .next (idle State.reset) := ⟨by show Memory.wf []; decide, test_reset_sound, rfl, rfl⟩

theorem test_witness_oneActive : (serving 1 3 (testState .stopping)).work.OneActive where
  active := by decide +kernel
  engine := fun _ => Or.inr rfl

theorem test_witness_lineSound : (receiving .hunt id).work.LineSound where
  inForce := fun _ => ⟨rfl, rfl, rfl⟩
  offUnless := fun _ => ⟨rfl, rfl⟩
  frame := by decide +kernel
  breakFlag := by decide +kernel
  window := by decide
  octet := by decide
  buffer := by decide
  bufferOff := fun _ => rfl
  zeros := fun _ => by decide

/-- A FILLING slot with its frame, a RUNNING slot that lane 3 holds, and a QUEUED one behind it. -/
def busySpool : State :=
  ((receiving .frame fun l => { l with
    frame := some { testFrame (some 2) with delay := [0x55] }, pendingSlots := [{ slot := 1, octets := 6 }, { slot := 0, octets := 48 }] }).onWork
      fun w => ((w.setSlot 2 .filling).setSlot 1 .running).setSlot 0 .queued).modLane 3 fun l => { l with
        state := .waiting, current := 0x50040
        progress := { l.progress with bodyLength := 3, nextWord := 2, ordinal := 1, waitCount := 65535, cells := 65535 } }

theorem test_witness_spoolSound : busySpool.work.SpoolSound where
  filling := by
    have e : ∀ k, busySpool.work.slotOf k = .filling ↔ k = 2 := by decide +kernel
    intro k
    rw [e k]
    refine ⟨fun h => ⟨_, rfl, by rw [h]; rfl⟩, ?_⟩
    rintro ⟨f, hf, hk⟩
    have hf : { testFrame (some 2) with delay := [0x55] } = f := Option.some.inj hf
    subst hf
    exact (Option.some.inj hk).symm
  pending := by decide +kernel
  nodup := by decide +kernel
  running := by decide +kernel
  idle := fun h => nomatch h
  holding := fun _ h => nomatch h
  laneThree := ⟨by decide, by decide⟩

theorem test_witness_busyLine : busySpool.work.LineSound ∧ busySpool.work.OneActive :=
  ⟨{  inForce := fun _ => ⟨rfl, rfl, rfl⟩
      offUnless := fun _ => ⟨rfl, rfl⟩
      frame := by decide +kernel
      breakFlag := by decide +kernel
      window := by decide
      octet := by decide
      buffer := by decide
      bufferOff := fun h => nomatch h
      zeros := fun h => nomatch h },
    { active := by decide +kernel
      engine := fun h => nomatch h }⟩

theorem test_witness_inRange : busySpool.InRange where
  contexts := by
    intro n
    have e : ∀ n : LaneNo, (busySpool.contextOf n) = Context.defaults := by decide +kernel
    rw [e n]
    exact ⟨by decide, by decide, by decide, by decide, Or.inl rfl⟩
  inHand := by
    intro n r h
    have e : ∀ n : LaneNo, (busySpool.progressOf n).inHand = none := by decide +kernel
    rw [e n] at h
    cases h
  markers := by
    intro k h
    have e : ∀ k : Fin 2, (busySpool.panel.markers[k.val]).active = false := by decide +kernel
    rw [e k] at h
    cases h
  onState := by decide +kernel
  waits := by decide +kernel
  limits := by
    intro n k h
    have e : ∀ n : LaneNo, (busySpool.work.laneOf n).state ≠ .draining := by decide +kernel
    exact absurd h (e n)
  deadline := fun _ _ h => nomatch h
  ramp := ⟨by decide, fun _ => rfl⟩
  hold := fun _ h => nomatch h
  budget := Or.inr (Or.inl rfl)
  accumulator := by decide
  interval := fun _ h => nomatch h
  progress := fun n =>
    { cells := by revert n; decide +kernel
      body := by revert n; decide +kernel
      nextWord := by revert n; decide +kernel
      ordinal := by revert n; decide +kernel
      stopped := by revert n; decide +kernel }
  spool := fun sp h => by
    cases h
    exact ⟨by decide, by decide, by decide, by decide, by decide, by decide⟩
  frame := fun f h _ => by
    cases h
    exact ⟨by decide, by decide, by decide, fun _ => by decide +kernel⟩
  pendingSlots := by decide +kernel

theorem test_legal_bounds :
    RecordInHand.Legal (.area (-1) 600 512 512 511) ∧ RecordInHand.Legal (.image 0 0 512 1 0x40000 32 0) ∧
      RecordInHand.Legal (.readback 511 511 1 1 0 255 0) ∧ RecordInHand.Legal (.text [0x41] 0) ∧
      ¬RecordInHand.Legal (.area 0 0 513 1 0) ∧ ¬RecordInHand.Legal (.text [0x41] 1) := by
  refine ⟨?_, ?_, ?_, ?_, ?_, ?_⟩ <;> simp [RecordInHand.Legal]

end Sys2Proof.Machine
end

/-! The supply monitor's PANEL_ON (spec/02, 2.1): what a write of it does in each supply state, what an entry into OFF leaves of
the panel, and what a DRIVE_RESUME after it can do. -/

namespace Sys2Proof.Machine

/-! ## Events while RESET is not asserted -/

/-- While RESET is not asserted the part takes the event (R185). -/
theorem event_of_awake {s : State} (h : s.awake) (f : State → State) : event f s = .next (f s) := by
  unfold event
  rw [h]
  rfl

theorem exec_driveResume {s : State} (h : s.awake) : exec .driveResume s = .next (endPanelEvent (resumeDriver s)) := by
  show execDriveResume s = _
  exact event_of_awake h _

theorem exec_clear {s : State} (h : s.awake) : exec .clear s = .next (resetAll .clear s) := by
  show execClear s = _
  exact event_of_awake h _

/-- What keeps RESET's level keeps the part awake. -/
theorem Work.Kept.awake {s t : State} (k : Work.Kept s.work t.work) (h : s.awake) : t.awake := k.resetAsserted.trans h

/-! ## The value of PANEL_ON -/

/-- The state with this value in PANEL_ON (R172). -/
def State.withPanelOn (value : Bool) (s : State) : State :=
  s.onWork fun w => { w with port := { w.port with panelOn := value } }

@[simp] theorem State.withPanelOn_panel (value : Bool) (s : State) : (s.withPanelOn value).panel = s.panel := rfl

@[simp] theorem State.withPanelOn_panelOn (value : Bool) (s : State) : (s.withPanelOn value).work.port.panelOn = value := rfl

theorem State.withPanelOn_awake {s : State} (h : s.awake) (value : Bool) : (s.withPanelOn value).awake := h

/-- A PANEL_ON command writes the value, and then the supply monitor acts on it (R22, R172). -/
theorem exec_panelOn {s : State} (h : s.awake) (value : Bool) :
    exec (.panelOn value) s = .next (actOnPanelOn value (s.withPanelOn value)) := by
  show execPanelOn value s = _
  exact event_of_awake h _

/-- Bit 1 of CONTROL is PANEL_ON (R172). -/
theorem controlWord_panelOn (s : State) : s.controlWord.getLsbD 1 = s.work.port.panelOn := by
  simp only [State.controlWord, BitVec.getLsbD_append]
  simp

/-- While RESET is not asserted, port word 1 is CONTROL (R170). -/
theorem portRead_control {s : State} (h : s.awake) : s.portRead 1 = s.controlWord := by
  unfold State.portRead
  rw [h]
  rfl

/-! ## Entry into OFF -/

/-- Whether a row differs does not depend on the queue (R5). -/
theorem Panel.differs_withQueue (p : Panel) (q : List Row) : ({ p with queue := q } : Panel).differs = p.differs := rfl

/-- A rebuilt queue holds the rows that differ (R14). -/
theorem Panel.rebuild_differingRows (p : Panel) : p.rebuild.differingRows = p.rebuild.queue := by
  unfold Panel.rebuild Panel.differingRows
  rw [Panel.differs_withQueue]

theorem Panel.supplyDown_entersDark (st : SupplyState) (p : Panel) : (p.supplyDown st).EntersDark p st := by
  refine ⟨fun r => by simp [Panel.supplyDown, Plane.dark], ?_⟩
  rw [Panel.supplyDown, Panel.rebuild_differingRows]
  simp only [Panel.rebuild]
  rfl

theorem Panel.EntersDark.supplyState {p old : Panel} {st : SupplyState} (h : p.EntersDark old st) :
    p.supply.state = st := by
  obtain ⟨-, e⟩ := h
  rw [e]

/-- An entry of the supply into OFF or FAILED abandons the pulse outstanding (R27). -/
theorem Panel.EntersDark.noPulse {p old : Panel} {st : SupplyState} (h : p.EntersDark old st) :
    p.driver.pulse = none := by
  obtain ⟨-, e⟩ := h
  rw [e]

/-- A STALLED driver stays STALLED at an entry of the supply (R27). -/
theorem Panel.EntersDark.stalled {p old : Panel} {st : SupplyState} (h : p.EntersDark old st)
    (d : old.driver.state = .stalled) : p.driver.state = .stalled := by
  obtain ⟨-, e⟩ := h
  rw [e]
  exact if_pos d

theorem supplyOff_eq (s : State) :
    supplyOff s = (noteSettled { s with panel := s.panel.supplyDown .off }).onWork settleLanes := rfl

theorem supplyOff_panel (s : State) :
    (supplyOff s).panel =
      { s.panel.supplyDown .off with settled := (s.panel.supplyDown .off).isSettled } := by
  simp [supplyOff_eq]

theorem supplyOff_kept (s : State) : Work.Kept s.work (supplyOff s).work := by
  rw [supplyOff, endPanelEvent_work]
  exact (changePanel_kept _ s).trans (settleLanes_kept _)

/-! ## What the supply monitor does at a PANEL_ON value (R22) -/

theorem actOnPanelOn_true_of_off {s : State} (h : s.panel.supply.state = .off) :
    actOnPanelOn true s = s.onPanel fun p => { p with supply := { p.supply with state := .ramping, ramp := 0 } } := by
  unfold actOnPanelOn
  rw [h]
  rfl

theorem actOnPanelOn_true_of_ne_off {s : State} (h : s.panel.supply.state ≠ .off) : actOnPanelOn true s = s := by
  unfold actOnPanelOn
  cases e : s.panel.supply.state
  case off => exact absurd e h
  all_goals rfl

theorem actOnPanelOn_false_of_off {s : State} (h : s.panel.supply.state = .off) : actOnPanelOn false s = s := by
  unfold actOnPanelOn
  rw [h]

theorem actOnPanelOn_false_of_ne_off {s : State} (h : s.panel.supply.state ≠ .off) :
    actOnPanelOn false s = supplyOff s := by
  unfold actOnPanelOn
  cases e : s.panel.supply.state
  case off => exact absurd e h
  all_goals rfl

/-- The supply monitor changes no field of the port but, by the engine's choice, the engine state. -/
theorem actOnPanelOn_kept (value : Bool) (s : State) : Work.Kept s.work (actOnPanelOn value s).work := by
  by_cases off : s.panel.supply.state = .off <;> cases value
  · rw [actOnPanelOn_false_of_off off]
    exact .refl _
  · rw [actOnPanelOn_true_of_off off]
    exact .refl _
  · rw [actOnPanelOn_false_of_ne_off off]
    exact supplyOff_kept s
  · rw [actOnPanelOn_true_of_ne_off off]
    exact .refl _

/-- After PANEL_ON 0 the supply is OFF, and a STALLED driver without a pulse is as it was (R22, R26, R27). -/
theorem actOnPanelOn_false_panel {s : State} (stalled : s.panel.driver.state = .stalled)
    (pulse : s.panel.driver.pulse = none) :
    (actOnPanelOn false s).panel.supply.state = .off ∧ (actOnPanelOn false s).panel.driver.state = .stalled ∧
      (actOnPanelOn false s).panel.driver.pulse = none := by
  by_cases off : s.panel.supply.state = .off
  · rw [actOnPanelOn_false_of_off off]
    exact ⟨off, stalled, pulse⟩
  · have dark := s.panel.supplyDown_entersDark .off
    rw [actOnPanelOn_false_of_ne_off off, supplyOff_panel]
    exact ⟨dark.supplyState, dark.stalled stalled, dark.noPulse⟩

/-- PANEL_ON reads back as it was written (R172). -/
theorem panelOn_readsBack {s t : State} (h : s.awake) {value : Bool} (e : exec (.panelOn value) s = .next t) :
    (t.portRead 1).getLsbD 1 = value := by
  rw [exec_panelOn h] at e
  cases e
  have kept := actOnPanelOn_kept value (s.withPanelOn value)
  rw [portRead_control (kept.awake (State.withPanelOn_awake h value)), controlWord_panelOn, kept.port]
  rfl

/-! ## DRIVE_RESUME while the supply is not READY -/

/-- The start test starts a pulse only while the supply is READY (R30, R31). -/
theorem Panel.startTest_of_not_ready {p : Panel} (h : p.supply.state ≠ .ready) : p.startTest = p :=
  if_neg fun both => h both.2

/-- A DRIVE_RESUME of a STALLED driver while the supply is not READY: IDLE, and no pulse started (R31, R45). -/
theorem driveResume_of_not_ready {s t : State} (h : s.awake) (stalled : s.panel.driver.state = .stalled)
    (down : s.panel.supply.state ≠ .ready) (e : exec .driveResume s = .next t) :
    t.panel.supply = s.panel.supply ∧ t.panel.driver = { s.panel.driver with state := .idle } := by
  rw [exec_driveResume h] at e
  cases e
  have resumed : resumeDriver s =
      startTest (s.onPanel fun p => { p with driver := { p.driver with state := .idle } }) := if_pos stalled
  rw [endPanelEvent_panel, resumed, startTest, changePanel_panel, State.onPanel_panel, Panel.startTest_of_not_ready]
  · exact ⟨rfl, rfl⟩
  · exact down

/-- A DRIVE_RESUME after PANEL_ON 0 takes a STALLED driver to IDLE and starts nothing, the supply being OFF (R26, R45). -/
theorem driveResume_after_panelOff {s t u : State} (h : s.awake) (sound : s.panel.Sound)
    (stalled : s.panel.driver.state = .stalled) (e : exec (.panelOn false) s = .next t)
    (e' : exec .driveResume t = .next u) :
    u.panel.supply.state = .off ∧ u.panel.driver.state = .idle ∧ u.panel.driver.pulse = none := by
  rw [exec_panelOn h] at e
  cases e
  obtain ⟨off, stays, pulse⟩ := actOnPanelOn_false_panel (s := s.withPanelOn false) stalled
    (sound.noPulse.mpr (Or.inr stalled))
  have awake := (actOnPanelOn_kept false (s.withPanelOn false)).awake (State.withPanelOn_awake h false)
  obtain ⟨supply, driver⟩ := driveResume_of_not_ready awake stays (by rw [off]; decide) e'
  rw [supply, driver]
  exact ⟨off, rfl, pulse⟩

/-! ## The statement -/

/-- Settles O42: each supply state by the supply monitor's equation for it, and DRIVE_RESUME after PANEL_ON 0 by the start
test, which an OFF supply lets start nothing. -/
theorem panelOnStartsARampOrEndsTheSupply : Obligations.PanelOnStartsARampOrEndsTheSupply := by
  intro s h s1 s0
  have startsRamp (off : s.panel.supply.state = .off) : exec (.panelOn true) s = .next (s1.onPanel fun p =>
      { p with supply := { p.supply with state := .ramping, ramp := 0 } }) := by
    rw [exec_panelOn h, actOnPanelOn_true_of_off (s := s.withPanelOn true) off]
    rfl
  refine ⟨startsRamp, ?_, ?_, ?_, ?_, ?_, ?_, ?_⟩
  · intro notOff
    rw [exec_panelOn h, actOnPanelOn_true_of_ne_off (s := s.withPanelOn true) notOff]
    rfl
  · intro off
    rw [exec_panelOn h, actOnPanelOn_false_of_off (s := s.withPanelOn false) off]
    rfl
  · intro notOff
    refine ⟨s.panel.supplyDown .off, s.panel.supplyDown_entersDark .off, ?_⟩
    rw [exec_panelOn h, actOnPanelOn_false_of_ne_off (s := s.withPanelOn false) notOff, supplyOff_eq]
    rfl
  · intro t off e
    rw [startsRamp off] at e
    cases e
    rfl
  · exact fun value t e => panelOn_readsBack h e
  · exact fun sound stalled t u e e' => driveResume_after_panelOff h sound stalled e e'
  · intro t e
    rw [exec_clear h] at e
    cases e
    exact ⟨rfl, rfl⟩

end Sys2Proof.Machine

/-! A row painted on the drawn plane (spec/01, R83 to R85): what it leaves of D, which cells it counts, and which row it makes
join. -/

namespace Sys2Proof.Machine

/-! ## Cells counted and rows changed -/

theorem countBits_zero (n : Nat) : countBits n 0 = 0 := by
  induction n with
  | zero => rfl
  | succ n ih => simp [countBits, ih]

theorem countCols_xor_self (c : Cols) : countCols (c ^^^ c) = 0 := by
  rw [BitVec.xor_self, countCols, BitVec.toNat_zero, countBits_zero]

theorem mem_allRows (r : Row) : r ∈ allRows := List.mem_finRange r

theorem allRows_filter_beq (r : Row) : (allRows.filter fun q => q == r) = [r] := by
  have nodup : allRows.Nodup := List.nodup_finRange 512
  rw [List.filter_beq, List.count_eq_one_of_mem nodup (mem_allRows r)]
  rfl

theorem Plane.changes_self (p : Plane) : p.changes p = 0 := by
  unfold Plane.changes
  simp only [countCols_xor_self]
  simp

theorem Plane.changes_set (p : Plane) (r : Row) (new : Cols) :
    p.changes (p.set r.val new) = countCols (p[r.val] ^^^ new) := by
  unfold Plane.changes allRows
  rw [← Fin.sum_univ_def, Finset.sum_eq_single r]
  · simp
  · intro q _ ne
    rw [Vector.getElem_set_ne _ _ fun e => ne (Fin.ext e.symm), countCols_xor_self]
  · simp

/-- Setting a row to another value changes that row and no other. -/
theorem Plane.set_bne (p : Plane) (r : Row) {new : Cols} (changed : new ≠ p[r.val]) (q : Row) :
    ((p.set r.val new)[q.val] != p[q.val]) = (q == r) := by
  by_cases e : q = r
  · subst e
    simp [changed]
  · rw [Vector.getElem_set_ne _ _ fun v => e (Fin.ext v.symm)]
    simp [e]

/-! ## The rows that join -/

/-- The rows of a change of D that join, in the order in which it reaches them: those that were CLEAN and changed (R10). -/
def Panel.joining (order : List Row) (d : Plane) (p : Panel) : List Row :=
  order.filter fun r => decide (p.rowState r = .clean) && d[r.val] != p.drawn[r.val]

theorem Panel.afterJoins_eq (order : List Row) (d : Plane) (p : Panel) :
    p.afterJoins order d = ({ p with drawn := d } : Panel).withJoins (p.joining order d) := rfl

theorem Panel.mem_joining (p : Panel) (order : List Row) (d : Plane) (r : Row) :
    r ∈ p.joining order d ↔ r ∈ order ∧ p.rowState r = .clean ∧ d[r.val] ≠ p.drawn[r.val] := by
  simp [Panel.joining]

theorem Panel.joining_self (p : Panel) (order : List Row) : p.joining order p.drawn = [] := by simp [Panel.joining]

theorem Panel.joining_set (p : Panel) (r : Row) {new : Cols} (changed : new ≠ p.drawn[r.val]) :
    p.joining allRows (p.drawn.set r.val new) = if p.rowState r = .clean then [r] else [] := by
  unfold Panel.joining
  simp only [Plane.set_bne _ _ changed]
  rw [← List.filter_filter, allRows_filter_beq]
  simp [List.filter_cons]

/-- A row that agreed differs once its cells in D are others (R5). -/
theorem Panel.differs_withDrawn {p : Panel} {r : Row} {d : Plane} (agrees : p.differs r = false)
    (changed : d[r.val] ≠ p.drawn[r.val]) : ({ p with drawn := d } : Panel).differs r = true := by
  by_contra c
  rw [Bool.not_eq_true, Panel.differs_eq_false] at c
  rw [Panel.differs_eq_false] at agrees
  exact changed ((BitVec.xor_left_inj _).mp (c.1.trans agrees.1.symm))

theorem Panel.Sound.joining_differs {p : Panel} (h : p.Sound) (order : List Row) (d : Plane) :
    ∀ r ∈ p.joining order d, ({ p with drawn := d } : Panel).differs r = true := by
  intro r mem
  obtain ⟨-, clean, changed⟩ := (p.mem_joining order d r).mp mem
  exact Panel.differs_withDrawn (h.cleanAgrees r clean) changed

/-- A row that changed joins where it was CLEAN (R10). -/
theorem Panel.Sound.join_changed {p : Panel} (h : p.Sound) (r : Row) {d : Plane} (changed : d[r.val] ≠ p.drawn[r.val]) :
    Panel.join r { p with drawn := d } =
      { p with drawn := d, queue := p.queue ++ if p.rowState r = .clean then [r] else [] } := by
  have same : ({ p with drawn := d } : Panel).rowState r = p.rowState r := rfl
  rw [Panel.join_eq, same]
  by_cases clean : p.rowState r = .clean
  · simp only [clean, Panel.differs_withDrawn (h.cleanAgrees r clean) changed, and_self, if_true]
  · rw [if_neg clean, if_neg fun both => clean both.1]

/-! ## One row painted -/

/-- The two outcomes of a row's paint: it leaves the panel as it is, or one row of D changes and is taken by the join rule
(R6, R83 to R85). -/
theorem Panel.paintRow_cases (c : Context) (y : Int) (ones zeros : Cols) (p : Panel) :
    (p.paintRow c y ones zeros = (p, 0) ∧
      ∀ r : Row, (r.val : Int) = y → c.rowInside r = true → c.paintedRow ones zeros p.drawn[r.val] = p.drawn[r.val]) ∨
    ∃ r : Row, (r.val : Int) = y ∧ c.rowInside r = true ∧
      c.paintedRow ones zeros p.drawn[r.val] ≠ p.drawn[r.val] ∧
      p.paintRow c y ones zeros =
        (Panel.join r { p with drawn := p.drawn.set r.val (c.paintedRow ones zeros p.drawn[r.val]) },
          countCols (p.drawn[r.val] ^^^ c.paintedRow ones zeros p.drawn[r.val])) := by
  unfold Panel.paintRow panelRow
  by_cases on : 0 ≤ y ∧ y < 512
  · obtain ⟨r, rfl⟩ : ∃ r : Row, (r.val : Int) = y := ⟨⟨y.toNat, by omega⟩, by simp; omega⟩
    have only : ∀ q : Row, (q.val : Int) = r.val → q = r := fun q e => Fin.ext (Int.ofNat_inj.mp e)
    by_cases inside : c.rowInside r = true
    · by_cases same : c.paintedRow ones zeros p.drawn[r.val] = p.drawn[r.val]
      · refine .inl ⟨by simp [inside, same], fun q e _ => ?_⟩
        rw [only q e, same]
      · exact .inr ⟨r, rfl, inside, same, by simp [inside, same]⟩
    · exact .inl ⟨by simp [inside], fun q e i => absurd (only q e ▸ i) inside⟩
  · exact .inl ⟨by simp [on], fun r e => absurd ⟨by omega, by omega⟩ on⟩

/-- The drawn plane after one row has been painted in a context (R83 to R85). -/
def Panel.rowDrawn (c : Context) (row : PaintedRow) (p : Panel) : Plane := (p.paintRow c row.y row.ones row.zeros).1.drawn

/-- A row's paint changes its row of D, if that lies on the panel and inside the window, and no other (R83, R84). -/
theorem Panel.getElem_rowDrawn (c : Context) (row : PaintedRow) (p : Panel) (q : Row) :
    (p.rowDrawn c row)[q.val] =
      if (q.val : Int) = row.y ∧ c.rowInside q = true then c.paintedRow row.ones row.zeros p.drawn[q.val]
      else p.drawn[q.val] := by
  unfold Panel.rowDrawn
  obtain ⟨e, same⟩ | ⟨r, here, inside, -, e⟩ := p.paintRow_cases c row.y row.ones row.zeros
  · rw [e]
    split
    · next both => exact (same q both.1 both.2).symm
    · rfl
  · rw [e]
    dsimp only
    rw [Panel.join_eq]
    dsimp only
    by_cases own : q = r
    · subst own
      simp [here, inside]
    · have apart : r.val ≠ q.val := fun v => own (Fin.ext v.symm)
      rw [if_neg fun both => apart (Int.ofNat_inj.mp (here.trans both.1.symm)), Vector.getElem_set_ne _ _ apart]

/-- A row's paint in full: D, the row that joins, and the number of cells changed (R6, R10, R89). -/
theorem Panel.Sound.paintRow_eq {p : Panel} (h : p.Sound) (c : Context) (row : PaintedRow) :
    let d := p.rowDrawn c row
    p.paintRow c row.y row.ones row.zeros =
      ({ p with drawn := d, queue := p.queue ++ p.joining allRows d }, p.drawn.changes d) := by
  intro d
  obtain ⟨e, -⟩ | ⟨r, -, -, changed, e⟩ := p.paintRow_cases c row.y row.ones row.zeros
  · have drawn : d = p.drawn := by simp only [d, Panel.rowDrawn, e]
    rw [e, drawn, Panel.joining_self, Plane.changes_self, List.append_nil]
  · have drawn : d = p.drawn.set r.val (c.paintedRow row.ones row.zeros p.drawn[r.val]) := by
      simp only [d, Panel.rowDrawn, e, Panel.join_eq]
    rw [e, drawn, Panel.joining_set p r changed, Plane.changes_set, h.join_changed r (by simpa using changed)]

/-! ## A figure's row -/

/-- A mode acts on a figure's cells and on no other (R85). -/
theorem getLsbD_paintCells_figure (m : DrawMode) (ones old : Cols) (x : Fin 512) :
    (paintCells m ones 0 old).getLsbD x.val =
      if ones.getLsbD x.val = true then m.ofFigure (old.getLsbD x.val) else old.getLsbD x.val := by
  have whole : old &&& ~~~(0 : Cols) = old := by
    rw [show ~~~(0 : Cols) = BitVec.allOnes 512 from BitVec.not_zero, BitVec.and_allOnes]
  have inRow : decide (x.val < 512) = true := decide_eq_true x.isLt
  cases m with
  | set =>
    rw [paintCells, BitVec.getLsbD_or]
    cases ones.getLsbD x.val <;> simp [DrawMode.ofFigure]
  | clear =>
    rw [paintCells, BitVec.getLsbD_and, BitVec.getLsbD_not, inRow]
    cases ones.getLsbD x.val <;> simp [DrawMode.ofFigure]
  | replace =>
    rw [paintCells, whole, BitVec.getLsbD_or]
    cases ones.getLsbD x.val <;> simp [DrawMode.ofFigure]
  | invert =>
    rw [paintCells, BitVec.getLsbD_xor]
    cases ones.getLsbD x.val <;> simp [DrawMode.ofFigure]

theorem Context.paintedRow_figure (c : Context) (ones old : Cols) :
    c.paintedRow ones 0 old = paintCells c.mode (ones &&& c.columnsInside) 0 old := by
  unfold Context.paintedRow
  rw [show (0 : Cols) &&& c.columnsInside = 0 from BitVec.zero_and]

theorem FigureDrawn.congr {c : Context} {f g : Fin 512 → Row → Prop} {p q : Plane} (h : FigureDrawn c f p q)
    (e : ∀ x y, f x y ↔ g x y) : FigureDrawn c g p q := by
  have same : f = g := funext₂ fun x y => propext (e x y)
  exact same ▸ h

/-- A figure's row of `w` cells from column `x` draws those of them that are on the panel and inside the window (R83 to
R85). -/
theorem figureDrawn_rowDrawn (c : Context) (x y : Int) (w : Nat) (p : Panel) :
    FigureDrawn c (fun cx cy => (cy.val : Int) = y ∧ x ≤ cx.val ∧ (cx.val : Int) < x + w) p.drawn
      (p.rowDrawn c (figureRow y (colsSpan x w))) := by
  intro cx cy
  have inRow : c.rowInside cy = true ↔ c.clipY0 ≤ cy.val ∧ cy.val ≤ c.clipY1 := by simp [Context.rowInside]
  have inCols : (colsSpan x w &&& c.columnsInside).getLsbD cx.val = true ↔
      (x ≤ cx.val ∧ (cx.val : Int) < x + w) ∧ c.clipX0 ≤ cx.val ∧ cx.val ≤ c.clipX1 := by
    rw [BitVec.getLsbD_and, getLsbD_colsSpan, getLsbD_columnsInside]
    simp
  unfold Plane.cell Context.inside
  rw [Panel.getElem_rowDrawn, figureRow, Context.paintedRow_figure]
  by_cases row : (cy.val : Int) = y ∧ c.rowInside cy = true
  · rw [if_pos row, getLsbD_paintCells_figure]
    constructor
    · rintro ⟨⟨-, span⟩, left, right, -⟩
      exact if_pos (inCols.mpr ⟨span, left, right⟩)
    · refine fun away => if_neg fun drawn => ?_
      obtain ⟨span, left, right⟩ := inCols.mp drawn
      exact away ⟨⟨row.1, span⟩, left, right, inRow.mp row.2⟩
  · rw [if_neg row]
    exact ⟨fun ⟨⟨here, _⟩, _, _, window⟩ => absurd ⟨here, inRow.mpr window⟩ row, fun _ => rfl⟩

end Sys2Proof.Machine

/-! What a drawing record leaves (spec/01 and spec/02): the event in which its rows join ends with a start test that finds none
of them stale, so that settled is not entered and no lane but the record's own changes. -/

namespace Sys2Proof.Machine

/-! ## The start test after rows have joined -/

theorem Panel.rowState_eq_clean (p : Panel) (r : Row) :
    p.rowState r = .clean ↔ p.firingRow ≠ some r ∧ r ∉ p.queue := by
  unfold Panel.rowState
  by_cases fires : p.firingRow = some r
  · simp [fires]
  · by_cases waits : r ∈ p.queue <;> simp [fires, waits]

/-- The start test starts a pulse only from IDLE (R30, R31). -/
theorem Panel.startTest_of_not_idle {p : Panel} (h : p.driver.state ≠ .idle) : p.startTest = p :=
  if_neg fun both => h both.1

/-- The start test takes the queue's first row where that differs (R11, R30). -/
theorem Panel.startTest_takes {p : Panel} {r : Row} {rest : List Row} (idle : p.driver.state = .idle)
    (ready : p.supply.state = .ready) (noBulk : p.bulkRequest = false) (queue : p.queue = r :: rest)
    (differs : p.differs r = true) :
    p.startTest = { p with queue := rest, driver := p.driver.withPulse .firing (p.formPulse r) } := by
  unfold Panel.startTest Panel.take
  simp [idle, ready, noBulk, queue, differs]

/-- The start test changes the queue, and of the driver the state and the pulse (R30, R36). -/
theorem Panel.startTest_frame (p : Panel) : ∃ queue state pulse, p.startTest =
    { p with queue := queue, driver := { p.driver with state := state, pulse := pulse } } := by
  unfold Panel.startTest
  split
  · split
    · exact ⟨_, _, _, rfl⟩
    · unfold Panel.take
      split <;> exact ⟨_, _, _, rfl⟩
  · exact ⟨_, _, _, rfl⟩

/-- The panel with these rows at the queue's tail, before the start test that ends the event (R10, R31). -/
def Panel.queued (joined : List Row) (p : Panel) : Panel := { p with queue := p.queue ++ joined, settled := false }

theorem Panel.withJoins_nil (p : Panel) : p.withJoins [] = p := if_pos rfl

theorem Panel.withJoins_cons (r : Row) (rest : List Row) (p : Panel) : p.withJoins (r :: rest) =
    { (p.queued (r :: rest)).startTest with settled := (p.queued (r :: rest)).startTest.isSettled } :=
  if_neg (List.cons_ne_nil r rest)

/-- The start test that ends an event in which rows have joined, the first of them a row that differs: the plane store is not
settled, and no row becomes CLEAN (R18, R31). -/
theorem Panel.Sound.startTest_queued {p : Panel} (h : p.Sound) (d : Plane) {r : Row} (rest : List Row)
    (differs : ({ p with drawn := d } : Panel).differs r = true) :
    let q := ({ p with drawn := d } : Panel).queued (r :: rest)
    q.startTest.isSettled = false ∧ ∀ x, q.startTest.rowState x = .clean ↔ q.rowState x = .clean := by
  intro q
  by_cases starts : p.driver.state = .idle ∧ p.supply.state = .ready
  · obtain ⟨idle, ready⟩ := starts
    obtain ⟨empty, noBulk⟩ := h.nothingWaits idle ready
    have noPulse : p.driver.pulse = none := h.noPulse.mpr (.inl idle)
    have queue : q.queue = r :: rest := by simp [q, Panel.queued, empty]
    have noneFires : q.firingRow = none := by simp [Panel.firingRow, q, Panel.queued, noPulse]
    have fires : Panel.firingRow { q with queue := rest, driver := q.driver.withPulse .firing (q.formPulse r) } = some r :=
      rfl
    rw [Panel.startTest_takes (p := q) idle ready noBulk queue differs]
    refine ⟨by simp [Panel.isSettled, Driver.withPulse], fun x => ?_⟩
    rw [Panel.rowState_eq_clean, Panel.rowState_eq_clean, queue, fires, noneFires]
    simp [eq_comm]
  · rw [show q.startTest = q from if_neg starts]
    exact ⟨by simp [Panel.isSettled, q, Panel.queued], fun x => Iff.rfl⟩

/-! ## What the joins leave -/

theorem Panel.withJoins_frame (joined : List Row) (p : Panel) : ∃ queue state pulse settled, p.withJoins joined =
    { p with queue := queue, driver := { p.driver with state := state, pulse := pulse }, settled := settled } := by
  cases joined with
  | nil => exact ⟨_, _, _, _, p.withJoins_nil⟩
  | cons r rest =>
    obtain ⟨queue, state, pulse, e⟩ := (p.queued (r :: rest)).startTest_frame
    rw [Panel.withJoins_cons, e]
    exact ⟨_, _, _, _, rfl⟩

/-- A driver that is not IDLE keeps its pulse (R35). -/
theorem Panel.withJoins_driver {p : Panel} (h : p.driver.state ≠ .idle) (joined : List Row) :
    (p.withJoins joined).driver = p.driver := by
  cases joined with
  | nil => rw [Panel.withJoins_nil]
  | cons r rest =>
    rw [Panel.withJoins_cons, Panel.startTest_of_not_idle (p := p.queued (r :: rest)) h]
    rfl

/-- Where every row that joins differs, just those rows leave CLEAN (R10). -/
theorem Panel.Sound.withJoins_clean {p : Panel} (h : p.Sound) (d : Plane) (joined : List Row)
    (differ : ∀ r ∈ joined, ({ p with drawn := d } : Panel).differs r = true) (x : Row) :
    (({ p with drawn := d } : Panel).withJoins joined).rowState x = .clean ↔ p.rowState x = .clean ∧ x ∉ joined := by
  cases joined with
  | nil =>
    rw [Panel.withJoins_nil]
    exact (and_iff_left List.not_mem_nil).symm
  | cons r rest =>
    obtain ⟨-, kept⟩ := h.startTest_queued d rest (differ r List.mem_cons_self)
    rw [Panel.withJoins_cons]
    refine (kept x).trans ?_
    rw [Panel.rowState_eq_clean, Panel.rowState_eq_clean]
    simp only [Panel.queued, List.mem_append, not_or, and_assoc]
    exact Iff.rfl

theorem Panel.afterJoins_frame (order : List Row) (d : Plane) (p : Panel) : ∃ queue state pulse settled,
    p.afterJoins order d = { p with
      drawn := d, queue := queue, driver := { p.driver with state := state, pulse := pulse }, settled := settled } :=
  Panel.withJoins_frame _ { p with drawn := d }

@[simp] theorem Panel.afterJoins_drawn (order : List Row) (d : Plane) (p : Panel) : (p.afterJoins order d).drawn = d := by
  obtain ⟨_, _, _, _, e⟩ := p.afterJoins_frame order d
  rw [e]

/-- After a change of D the CLEAN rows are those that were CLEAN and did not change (R10). -/
theorem Panel.Sound.afterJoins_clean {p : Panel} (h : p.Sound) {order : List Row} (all : ∀ r, r ∈ order) (d : Plane)
    (x : Row) : (p.afterJoins order d).rowState x = .clean ↔ p.rowState x = .clean ∧ d[x.val] = p.drawn[x.val] := by
  rw [Panel.afterJoins_eq, h.withJoins_clean d _ (h.joining_differs order d), Panel.mem_joining]
  simp +contextual [all]

/-! ## The settled flag -/

/-- A change after which the plane store is not settled (R18). -/
theorem changePanel_of_unsettled {f : Panel → Panel} {s : State} (h : (f s.panel).isSettled = false) :
    changePanel f s = s.onPanel fun p => { f p with settled := false } := by
  unfold changePanel noteSettled
  simp only [State.onPanel_panel, h]
  rfl

/-- A change after which the settled flag holds already (R18). -/
theorem changePanel_of_flag {f : Panel → Panel} {s : State} (h : (f s.panel).settled = (f s.panel).isSettled) :
    changePanel f s = s.onPanel f := by
  unfold changePanel noteSettled
  simp only [State.onPanel_panel, ← h]
  rw [if_neg (by simp)]
  rfl

/-- A change of D by which rows that differ have joined: settled is not entered, and the panel alone changes (R10, R18,
R31). -/
theorem changeTarget_withDrawn {s : State} (h : s.panel.Sound) (f : Panel → Panel) (d : Plane) (joined : List Row)
    (e : f s.panel = { s.panel with drawn := d, queue := s.panel.queue ++ joined })
    (differ : ∀ r ∈ joined, ({ s.panel with drawn := d } : Panel).differs r = true) :
    changeTarget f s = s.onPanel fun p => ({ p with drawn := d } : Panel).withJoins joined := by
  unfold changeTarget
  cases joined with
  | nil =>
    rw [List.append_nil] at e
    rw [changePanel_of_flag (by rw [e]; exact h.settledFlag)]
    simp [State.onPanel, e, Panel.withJoins_nil]
  | cons r rest =>
    obtain ⟨unsettled, -⟩ := h.startTest_queued d rest (differ r List.mem_cons_self)
    have joins : changePanel f s = s.onPanel fun p => ({ p with drawn := d } : Panel).queued (r :: rest) := by
      rw [changePanel_of_unsettled (by simp [e, Panel.isSettled])]
      simp [State.onPanel, e, Panel.queued]
    rw [joins, if_pos (by simp [Panel.queued]), startTest, changePanel_of_unsettled unsettled]
    simp only [State.onPanel, Panel.withJoins_cons, unsettled]

/-! ## A state after a drawing -/

/-- The state after a record of lane `n` has changed D to `d`, reaching its rows in the order `order`, and lane `n` by `f`. -/
def State.afterDrawing (n : LaneNo) (f : Lane → Lane) (order : List Row) (d : Plane) (s : State) : State :=
  (s.modLane n f).onPanel (Panel.afterJoins order d)

@[simp] theorem State.afterDrawing_panel (n : LaneNo) (f : Lane → Lane) (order : List Row) (d : Plane) (s : State) :
    (s.afterDrawing n f order d).panel = s.panel.afterJoins order d := rfl

@[simp] theorem State.afterDrawing_laneOf (n : LaneNo) (f : Lane → Lane) (order : List Row) (d : Plane) (s : State) :
    (s.afterDrawing n f order d).work.laneOf n = f (s.work.laneOf n) :=
  Work.laneOf_modLane_same s.work n f

/-- A drawing whose lane changes after the panel. -/
theorem State.onPanel_afterJoins_modLane (n : LaneNo) (f : Lane → Lane) (order : List Row) (d : Plane) (s : State) :
    (s.onPanel (Panel.afterJoins order d)).modLane n f = s.afterDrawing n f order d := rfl

theorem State.afterDrawing_modLane (n : LaneNo) (f g : Lane → Lane) (order : List Row) (d : Plane) (s : State) :
    (s.afterDrawing n f order d).modLane n g = s.afterDrawing n (fun l => g (f l)) order d := by
  unfold State.afterDrawing
  rw [← State.modLane_modLane s n f g]
  rfl

theorem State.modLane_afterDrawing (n : LaneNo) (f g : Lane → Lane) (order : List Row) (d : Plane) (s : State) :
    (s.modLane n g).afterDrawing n f order d = s.afterDrawing n (fun l => f (g l)) order d := by
  unfold State.afterDrawing
  rw [State.modLane_modLane]

/-- All that a drawing leaves but D and the lane follows from its joins. -/
theorem drawsOnly_afterDrawing {s : State} (h : s.panel.Sound) (n : LaneNo) (f : Lane → Lane) {order : List Row}
    (all : ∀ r, r ∈ order) (d : Plane) : DrawsOnly n order s (s.afterDrawing n f order d) := by
  obtain ⟨queue, state, pulse, settled, e⟩ := s.panel.afterJoins_frame order d
  have panel : (s.afterDrawing n f order d).panel = _ := e
  constructor
  case pending => rfl
  case glyphs => rfl
  case work => rw [State.afterDrawing_laneOf]; rfl
  case panel => rw [panel]
  case doubt => rw [panel]
  case markers => rw [panel]
  case supply => rw [panel]
  case bulkRequest => rw [panel]
  case budget => rw [panel]
  case clean => simpa using h.afterJoins_clean all d
  case joins => simp
  case driver => exact fun busy => Panel.withJoins_driver (p := { s.panel with drawn := d }) busy _
  case lines =>
    rw [panel]
    exact ⟨rfl, rfl, rfl, rfl⟩

theorem countCells_eq (n : LaneNo) (k : Nat) (s : State) : countCells n k s = s.modLane n (Lane.counted k) := rfl

/-- One row drawn: its cells are changed and counted, and its row joins (R6, R10, R89). -/
theorem drawRows_single {s : State} (h : s.panel.Sound) (n : LaneNo) (row : PaintedRow) :
    let d := s.panel.rowDrawn (s.contextOf n) row
    drawRows n [row] s = s.afterDrawing n (Lane.counted (s.panel.drawn.changes d)) allRows d := by
  intro d
  have painted : s.panel.paintRows (s.contextOf n) [row] =
      ({ s.panel with drawn := d, queue := s.panel.queue ++ s.panel.joining allRows d }, s.panel.drawn.changes d) :=
    h.paintRow_eq (s.contextOf n) row
  have changed : changeTarget (fun _ => { s.panel with
      drawn := d, queue := s.panel.queue ++ s.panel.joining allRows d }) s = s.onPanel (Panel.afterJoins allRows d) := by
    rw [changeTarget_withDrawn h _ d _ rfl (h.joining_differs allRows d)]
    simp only [State.onPanel, Panel.afterJoins_eq]
  unfold drawRows
  simp only [painted]
  rw [changed, countCells_eq, State.onPanel_afterJoins_modLane]

/-! ## MOVE and POINT -/

theorem exec_move {s : State} (h : s.awake) : exec .move s = .next (runRecord .move notDivided moveAct s) := by
  show execMove s = _
  exact event_of_awake h _

theorem exec_point {s : State} (h : s.awake) : exec .point s = .next (runRecord .point notDivided pointAct s) := by
  show execPoint s = _
  exact event_of_awake h _

/-- A lane's context is as before its record's words are read. -/
@[simp] theorem contextOf_wordsRead (s : State) (n : LaneNo) (k : Nat) :
    (s.modLane n (Lane.wordsRead k)).contextOf n = s.contextOf n := by
  simp [State.contextOf, State.modLane, State.onWork, Lane.wordsRead]

/-- MOVE sets the pen and is complete (R90). -/
theorem moveAct_eq (n : LaneNo) (imm : BitVec 12) (x y : Word) (s : State) :
    moveAct n { imm := imm, words := [x, y] } s = pointInside n (s.modLane n fun l => (l.withPen x y).recordTaken 0) := by
  rw [moveAct, modContext_eq, completeRecord_eq, State.modLane_modLane]
  rfl

/-- POINT draws a row of one cell, sets the pen and is complete (R91). -/
theorem pointAct_eq {s : State} (h : s.panel.Sound) (n : LaneNo) (imm : BitVec 12) (x y : Word) :
    let d := s.panel.rowDrawn (s.contextOf n) (figureRow y.toInt (colsSpan x.toInt 1))
    pointAct n { imm := imm, words := [x, y] } s = pointInside n (s.afterDrawing n
      (fun l => ((l.counted (s.panel.drawn.changes d)).withPen x y).recordTaken 0) allRows d) := by
  intro d
  have drawn : drawRows n [figureRow y.toInt (colsSpan x.toInt 1)] s = _ := drawRows_single h n _
  unfold pointAct
  simp only [fieldInt, fieldWord, List.getD_cons_zero, List.getD_cons_succ]
  rw [drawn, completeRecord_eq, modContext_eq, State.afterDrawing_modLane, State.afterDrawing_modLane]
  rfl

/-- Settles O22: the record that is met is carried out by MOVE's equation, and the words read and the record's end are one
change of the lane. -/
theorem moveSetsThePen : Obligations.MoveSetsThePen := by
  intro n s head x y met kind
  rw [exec_move met.awake, runRecord_of_meets met kind rfl, moveAct_eq, State.modLane_modLane]
  rfl

/-- Settles O26: POINT is a figure's row one cell wide, and what it leaves follows from the joins of that row. -/
theorem pointPlotsOneCell : Obligations.PointPlotsOneCell := by
  intro n s head x y sound met kind
  let d := s.panel.rowDrawn (s.contextOf n) (figureRow y.toInt (colsSpan x.toInt 1))
  have oneCell := figureDrawn_rowDrawn (s.contextOf n) x.toInt y.toInt 1 s.panel
  refine ⟨s.afterDrawing n (fun l => ((l.withPen x y).recordTaken 3).counted (s.panel.drawn.changes d)) allRows d,
    ?_, drawsOnly_afterDrawing sound n _ mem_allRows d, ?_, ?_⟩
  · rw [exec_point met.awake, runRecord_of_meets met kind rfl, pointAct_eq (by exact sound), State.modLane_afterDrawing,
      contextOf_wordsRead]
    rfl
  · rw [State.afterDrawing_panel, Panel.afterJoins_drawn]
    exact oneCell.congr fun cx cy => by omega
  · rw [State.afterDrawing_panel, Panel.afterJoins_drawn, State.afterDrawing_laneOf]

end Sys2Proof.Machine

/-! The port's STATE, CAUSE and ENABLE (spec/09): what a read of STATE shows, also after each kind of reset; and what CAUSE, ENABLE
and IRQ hold, cause by cause. -/

namespace Sys2Proof.Machine

/-! ## What a read of STATE shows (R171) -/

/-- While RESET is not asserted, port word 2 is STATE (R170). -/
theorem portRead_state {s : State} (h : s.awake) : s.portRead 2 = s.stateWord := by
  unfold State.portRead
  rw [h]
  rfl

theorem stateWord_engine (s : State) : s.stateWord.extractLsb' 0 2 = s.work.port.engine.code :=
  BitVec.extractLsb'_append_eq_right

theorem stateWord_supply (s : State) : s.stateWord.extractLsb' 2 2 = s.panel.supply.state.code := by
  simp (disch := decide) only [State.stateWord, BitVec.extractLsb'_append_eq_of_le]
  exact BitVec.extractLsb'_append_eq_right

theorem stateWord_driver (s : State) : s.stateWord.extractLsb' 4 2 = s.panel.driver.state.code := by
  simp (disch := decide) only [State.stateWord, BitVec.extractLsb'_append_eq_of_le]
  exact BitVec.extractLsb'_append_eq_right

theorem stateWord_line (s : State) : s.stateWord.extractLsb' 6 2 = s.work.line.state.code := by
  simp (disch := decide) only [State.stateWord, BitVec.extractLsb'_append_eq_of_le]
  exact BitVec.extractLsb'_append_eq_right

/-- The three bits of the active lane field hold every lane's number. -/
theorem stateWord_activeNo (s : State) : (s.stateWord.extractLsb' 8 3).toNat = s.work.lanes.activeNo.val := by
  have field : s.stateWord.extractLsb' 8 3 = BitVec.ofNat 3 s.work.lanes.activeNo.val := by
    simp (disch := decide) only [State.stateWord, BitVec.extractLsb'_append_eq_of_le]
    exact BitVec.extractLsb'_append_eq_right
  rw [field, BitVec.toNat_ofNat]
  exact Nat.mod_eq_of_lt s.work.lanes.activeNo.isLt

theorem stateWord_activeValid (s : State) : s.stateWord.getLsbD 11 = s.work.lanes.activeValid := by
  simp only [State.stateWord, BitVec.getLsbD_append]
  simp

theorem stateWord_settled (s : State) : s.stateWord.getLsbD 12 = s.panel.settled := by
  simp only [State.stateWord, BitVec.getLsbD_append]
  simp

theorem stateWord_unassigned (s : State) : s.stateWord.extractLsb' 13 3 = 0 := by
  simp (disch := decide) only [State.stateWord, BitVec.extractLsb'_append_eq_of_le]
  rfl

/-! ## STATE after a reset (R185) -/

/-- Every owner is at its reset value, and nothing else enters STATE. -/
theorem stateWord_resetAll (cause : StartCause) (s : State) : (resetAll cause s).stateWord = 0x1000 := by
  simp only [State.stateWord, resetAll_work, resetAll_panel, Work.afterReset, Port.afterReset, LaneUnit.reset,
    LineReceiver.reset, Panel.reset, Driver.reset]
  decide

/-- Of the port only the engine state enters STATE. -/
theorem stateWord_modPort (s : State) {f : Port → Port} (h : (f s.work.port).engine = s.work.port.engine) :
    (s.onWork fun w => w.modPort f).stateWord = s.stateWord := by
  simp [State.stateWord, h]

theorem stateWord_setResetAsserted (level : Bool) (s : State) : (setResetAsserted level s).stateWord = s.stateWord :=
  stateWord_modPort s rfl

theorem Port.latchStraps_engine (p : Port) : p.latchStraps.engine = p.engine := by
  unfold Port.latchStraps
  split <;> rfl

theorem exec_reset {s : State} (h : s.awake) : exec .reset s = .next (setResetAsserted true (resetAll .pin s)) := by
  show execReset s = _
  exact event_of_awake h _

/-- RESET deasserted ends the reset and latches the straps of a power-on (R185, R186). -/
theorem exec_resetDeasserted {s : State} (h : s.work.port.resetAsserted = true) :
    exec .resetDeasserted s = .next (setResetAsserted false (s.onWork fun w => w.modPort Port.latchStraps)) := by
  show execResetDeasserted s = _
  exact congrArg Host.Outcome.next (if_pos h)

/-- STATE, as it stood behind an asserted RESET, is what a read shows once RESET is deasserted. -/
theorem portRead_state_of_resetDeasserted {t u : State} (asserted : t.work.port.resetAsserted = true)
    (e : exec .resetDeasserted t = .next u) : u.portRead 2 = t.stateWord := by
  rw [exec_resetDeasserted asserted] at e
  cases e
  have awake : (setResetAsserted false (t.onWork fun w => w.modPort Port.latchStraps)).awake := rfl
  rw [portRead_state awake, stateWord_setResetAsserted, stateWord_modPort t t.work.port.latchStraps_engine]

/-- Settles O7: STATE field by field, and each kind of reset through the word of a state whose blocks are all reset, which neither
RESET's level nor the straps change. -/
theorem stateWordShowsEachOwner : Obligations.StateWordShowsEachOwner := by
  refine ⟨?owners, ?clear, ?pin, ?powerOn, ?start⟩
  case owners =>
    intro s h
    rw [portRead_state h]
    exact ⟨stateWord_engine s, stateWord_supply s, stateWord_driver s, stateWord_line s, stateWord_activeNo s,
      stateWord_activeValid s, stateWord_settled s, fun sound => sound.settledFlag, stateWord_unassigned s⟩
  case clear =>
    intro s t h e
    rw [exec_clear h] at e
    cases e
    have awake : (resetAll .clear s).awake := h
    rw [portRead_state awake, stateWord_resetAll]
  case pin =>
    intro s t u h e e'
    rw [exec_reset h] at e
    cases e
    rw [portRead_state_of_resetDeasserted rfl e', stateWord_setResetAsserted, stateWord_resetAll]
  case powerOn =>
    intro station segment s t u e e'
    cases e
    rw [portRead_state_of_resetDeasserted rfl e', stateWord_setResetAsserted, stateWord_modPort _ rfl, stateWord_resetAll]
  case start => rfl

/-! ## The causes and their bits (R180) -/

theorem Cause.bit_lt (c : Cause) : c.bit < 12 := by cases c <;> decide

/-- Each of the twelve bits of CAUSE and ENABLE is the bit of a cause. -/
theorem Cause.exists_bit_eq : ∀ i, i < 12 → ∃ c : Cause, c.bit = i
  | 0, _ => ⟨.blockDone, rfl⟩
  | 1, _ => ⟨.laneHeld, rfl⟩
  | 2, _ => ⟨.laneFault, rfl⟩
  | 3, _ => ⟨.settled, rfl⟩
  | 4, _ => ⟨.supply, rfl⟩
  | 5, _ => ⟨.driveFault, rfl⟩
  | 6, _ => ⟨.linePass, rfl⟩
  | 7, _ => ⟨.lineLoss, rfl⟩
  | 8, _ => ⟨.lineGap, rfl⟩
  | 9, _ => ⟨.lineBreak, rfl⟩
  | 10, _ => ⟨.setup, rfl⟩
  | 11, _ => ⟨.memory, rfl⟩

/-- A word of twelve flags is not 0 exactly where some cause's flag is set. -/
theorem ne_zero_iff_exists_cause (flags : BitVec 12) : flags ≠ 0 ↔ ∃ c : Cause, flags.getLsbD c.bit = true := by
  constructor
  · intro nonzero
    by_contra noCause
    refine nonzero (BitVec.eq_of_getLsbD_eq fun i hi => ?_)
    obtain ⟨c, rfl⟩ := Cause.exists_bit_eq i hi
    have clear : flags.getLsbD c.bit = false := Bool.eq_false_iff.mpr fun set => noCause ⟨c, set⟩
    rw [clear]
    exact BitVec.getLsbD_zero.symm
  · rintro ⟨c, set⟩ rfl
    simp at set

/-! ## CAUSE, ENABLE and IRQ (R180, R181) -/

theorem exec_causeWrite {s : State} (h : s.awake) (data : Word) :
    exec (.causeWrite data) s = .next (s.onWork fun w => { w with cause := causeAfterWrite w.cause data }) := by
  show execCauseWrite data s = _
  exact event_of_awake h _

theorem exec_enableWrite {s : State} (h : s.awake) (data : Word) :
    exec (.enableWrite data) s =
      .next (s.onWork fun w => w.modPort fun p => { p with enable := data.extractLsb' 0 12 }) := by
  show execEnableWrite data s = _
  exact event_of_awake h _

/-- While RESET is not asserted, port word 4 is ENABLE (R170). -/
theorem portRead_enable {s : State} (h : s.awake) : s.portRead 4 = s.enableWord := by
  unfold State.portRead
  rw [h]
  rfl

/-- A flag stays set exactly where its bit is written 0 (R180). -/
theorem causeAfterWrite_getLsbD (flags : BitVec 12) (data : Word) (c : Cause) :
    (causeAfterWrite flags data).getLsbD c.bit = (flags.getLsbD c.bit && !data.getLsbD c.bit) := by
  simp [causeAfterWrite, c.bit_lt]

theorem Work.irq_iff (w : Work) :
    w.irq = true ↔ ∃ c : Cause, w.hasCause c = true ∧ w.port.enable.getLsbD c.bit = true := by
  rw [Work.irq, bne_iff_ne, ne_zero_iff_exists_cause]
  simp only [BitVec.getLsbD_and, Bool.and_eq_true, Work.hasCause]

/-- After a reset no flag is set, so IRQ is deasserted (R180, R181). -/
theorem Work.irq_afterReset (cause : StartCause) (w : Work) : (w.afterReset cause).irq = false := by
  rw [Bool.eq_false_iff, Ne, Work.irq_iff]
  rintro ⟨c, set, -⟩
  simp [Work.hasCause, Work.afterReset] at set

/-- Settles O8: a CAUSE write flag by flag, an ENABLE write by the word read back, and IRQ as the meeting of the two, bit by bit
through the cause that each of the twelve bits belongs to. -/
theorem causeAndEnableDecideIrq : Obligations.CauseAndEnableDecideIrq := by
  refine ⟨?causeWrite, ?enableWrite, fun s => s.work.irq_iff, ?reset⟩
  case causeWrite =>
    intro data s h
    exact ⟨_, exec_causeWrite h data, rfl, fun c => causeAfterWrite_getLsbD s.work.cause data c⟩
  case enableWrite =>
    intro data s h
    exact ⟨_, exec_enableWrite h data, rfl, portRead_enable h⟩
  case reset =>
    intro cause s
    rw [resetAll_work]
    exact ⟨rfl, Work.irq_afterReset cause s.work⟩

end Sys2Proof.Machine

/-! Whole commands: what every event but a reset, a start and a port write carries over unchanged (the queue, the timebase, the
port but for the engine state, and the canonical form of station memory), one lemma for each step on the way; and with it that
every command keeps the queue and the canonical form. -/

namespace Sys2Proof.Machine

/-! ## What an event carries over -/

/-- The queue is as before, and of the port and the timebase only the engine state may differ; the canonical form is kept. -/
structure State.Carries (s t : State) : Prop where
  pending : t.pending = s.pending
  work : Work.Kept s.work t.work

theorem State.Carries.refl (s : State) : State.Carries s s := ⟨rfl, .refl _⟩

theorem State.Carries.trans {a b c : State} (h : State.Carries a b) (k : State.Carries b c) : State.Carries a c :=
  ⟨k.pending.trans h.pending, h.work.trans k.work⟩

/-- Both branches of a choice. -/
theorem State.Carries.ite {c : Prop} [Decidable c] {s a b : State} (h : State.Carries s a) (k : State.Carries s b) :
    State.Carries s (if c then a else b) := by
  split
  · exact h
  · exact k

theorem State.Carries.onWork {f : Work → Work} (h : ∀ w, Work.Kept w (f w)) (s : State) : State.Carries s (s.onWork f) :=
  ⟨rfl, h s.work⟩

theorem State.onPanel_carries (f : Panel → Panel) (s : State) : State.Carries s (s.onPanel f) := ⟨rfl, .refl _⟩

theorem State.withWork_carries {s : State} {w : Work} (h : Work.Kept s.work w) : State.Carries s { s with work := w } :=
  ⟨rfl, h⟩

theorem State.modLane_carries (n : LaneNo) (f : Lane → Lane) (s : State) : State.Carries s (s.modLane n f) :=
  ⟨rfl, Work.modLane_kept n f s.work⟩

/-! ## The panel's events -/

theorem noteSettled_carries (s : State) : State.Carries s (noteSettled s) := ⟨noteSettled_pending s, noteSettled_kept s⟩

theorem changePanel_carries (f : Panel → Panel) (s : State) : State.Carries s (changePanel f s) :=
  (State.onPanel_carries f s).trans (noteSettled_carries _)

theorem startTest_carries (s : State) : State.Carries s (startTest s) := changePanel_carries _ s

theorem changeTarget_carries (f : Panel → Panel) (s : State) : State.Carries s (changeTarget f s) :=
  .ite ((changePanel_carries f s).trans (startTest_carries _)) (changePanel_carries f s)

theorem endPanelEvent_carries (s : State) : State.Carries s (endPanelEvent s) := .onWork settleLanes_kept s

theorem faultRowPulse_carries (k : DriveFaultKind) (pulse : Pulse) (r : Row) (s : State) :
    State.Carries s (faultRowPulse k pulse r s) :=
  (changePanel_carries _ s).trans (.onWork (reportDriveFault_kept _ _ _) _)

theorem faultBulkPulse_carries (k : DriveFaultKind) (pulse : Pulse) (s : State) :
    State.Carries s (faultBulkPulse k pulse s) :=
  (changePanel_carries _ s).trans (.onWork (reportDriveFault_kept _ _ _) _)

theorem resumeDriver_carries (s : State) : State.Carries s (resumeDriver s) :=
  .ite ((State.onPanel_carries _ s).trans (startTest_carries _)) (.refl s)

theorem supplyFailed_carries (s : State) : State.Carries s (supplyFailed s) :=
  (changePanel_carries _ s).trans (.onWork (setCause_kept _) _)

theorem supplyReady_carries (s : State) : State.Carries s (supplyReady s) :=
  (State.onPanel_carries _ s).trans (.onWork (setCause_kept _) _)

theorem supplyOff_carries (s : State) : State.Carries s (supplyOff s) :=
  (changePanel_carries _ s).trans (endPanelEvent_carries _)

theorem actOnPanelOn_carries (value : Bool) (s : State) : State.Carries s (actOnPanelOn value s) := by
  refine ⟨?_, actOnPanelOn_kept value s⟩
  by_cases off : s.panel.supply.state = .off <;> cases value
  · rw [actOnPanelOn_false_of_off off]
  · rw [actOnPanelOn_true_of_off off]; rfl
  · rw [actOnPanelOn_false_of_ne_off off]; exact (supplyOff_carries s).pending
  · rw [actOnPanelOn_true_of_ne_off off]

theorem riseSupok_carries (s : State) : State.Carries s (riseSupok s) := by
  have risen : State.Carries s (s.onPanel (Panel.setSupok true)) := State.onPanel_carries _ s
  exact .ite (((risen.trans (supplyReady_carries _)).trans (startTest_carries _)).trans (endPanelEvent_carries _)) risen

theorem fallSupok_carries (s : State) : State.Carries s (fallSupok s) := by
  have fallen : State.Carries s (s.onPanel (Panel.setSupok false)) := State.onPanel_carries _ s
  exact .ite ((fallen.trans (supplyFailed_carries _)).trans (endPanelEvent_carries _)) fallen

/-! ## Records -/

theorem endBlock_carries (n : LaneNo) (o : BlockOutcome) (s : State) : State.Carries s (endBlock n o s) :=
  .onWork (fun w => (retire_kept n o w).trans (settleLanes_kept _)) s

theorem pointInside_carries (n : LaneNo) (s : State) : State.Carries s (pointInside n s) :=
  .onWork (fun w => (preemptionPoint_kept n w).trans (settleLanes_kept _)) s

theorem completeRecord_carries (n : LaneNo) (s : State) : State.Carries s (completeRecord n s) :=
  (State.modLane_carries _ _ s).trans (pointInside_carries _ _)

theorem suspendable_carries (n : LaneNo) (r : RecordInHand) (s : State) : State.Carries s (suspendable n r s) :=
  (State.modLane_carries _ _ s).trans (pointInside_carries _ _)

theorem afterRow_carries (n : LaneNo) (h k : Nat) (f : Nat → RecordInHand) (s : State) :
    State.Carries s (afterRow n h k f s) :=
  .ite (completeRecord_carries n s) (suspendable_carries n _ s)

theorem modContext_carries (n : LaneNo) (f : Context → Context) (s : State) : State.Carries s (modContext n f s) :=
  State.modLane_carries _ _ s

theorem drawRows_carries (n : LaneNo) (rows : List PaintedRow) (s : State) : State.Carries s (drawRows n rows s) :=
  (changeTarget_carries _ s).trans (State.modLane_carries _ _ _)

theorem checked_carries {ok : Bool} {n : LaneNo} {act : State → State} (h : ∀ s, State.Carries s (act s)) (s : State) :
    State.Carries s (checked ok n act s) := .ite (h s) (endBlock_carries _ _ s)

/-- A record's step carries over what its way of going on and its act carry over. -/
theorem runRecord_carries {k : RecordKind} {resume : LaneNo → RecordInHand → State → State}
    {act : LaneNo → RecordWords → State → State} (hr : ∀ n r s, State.Carries s (resume n r s))
    (ha : ∀ n r s, State.Carries s (act n r s)) (s : State) : State.Carries s (runRecord k resume act s) := by
  have body (n : LaneNo) (head : Word) (length : Nat) (s : State) :
      State.Carries s (readRecordBody n head length act s) := by
    have read := (readStationList_busOnly .engine (some n)
      (wordRun (s.work.bodyAddress n ((s.progressOf n).nextWord + 1)) (length - 1)) s.work).kept
    unfold readRecordBody
    split <;> rename_i e <;> rw [e] at read
    · exact ((State.withWork_carries read).trans (State.modLane_carries n _ _)).trans (ha _ _ _)
    · exact (State.withWork_carries read).trans (endBlock_carries _ _ _)
  have length (n : LaneNo) (head : Word) (s : State) : State.Carries s (checkLength n head act s) :=
    .ite (endBlock_carries _ _ s) (body _ _ _ s)
  unfold runRecord
  split
  · exact .refl s
  · next n _ =>
    split
    · exact .ite (hr _ _ s) (.refl s)
    · refine .ite (.refl s) ?_
      have read := (readStation_busOnly .engine (some n) (s.work.bodyAddress n (s.progressOf n).nextWord) s.work).kept
      unfold takeRecord
      split <;> rename_i e <;> rw [e] at read
      · exact .ite ((State.withWork_carries read).trans (length _ _ _)) (.refl s)
      · exact (State.withWork_carries read).trans (endBlock_carries _ _ _)

theorem notDivided_carries (n : LaneNo) (r : RecordInHand) (s : State) : State.Carries s (notDivided n r s) := .refl s

theorem moveAct_carries (n : LaneNo) (r : RecordWords) (s : State) : State.Carries s (moveAct n r s) :=
  (modContext_carries _ _ s).trans (completeRecord_carries _ _)

theorem pointAct_carries (n : LaneNo) (r : RecordWords) (s : State) : State.Carries s (pointAct n r s) :=
  ((drawRows_carries _ _ s).trans (modContext_carries _ _ _)).trans (completeRecord_carries _ _)

theorem vectorAct_carries (n : LaneNo) (r : RecordWords) (s : State) : State.Carries s (vectorAct n r s) :=
  ((drawRows_carries _ _ s).trans (modContext_carries _ _ _)).trans (completeRecord_carries _ _)

theorem areaRow_carries (n : LaneNo) (x y : Int) (w h k : Nat) (s : State) : State.Carries s (areaRow n x y w h k s) :=
  (drawRows_carries _ _ s).trans (afterRow_carries _ _ _ _ _)

theorem areaAct_carries (n : LaneNo) (r : RecordWords) (s : State) : State.Carries s (areaAct n r s) :=
  checked_carries (areaRow_carries _ _ _ _ _ _) s

theorem areaResume_carries (n : LaneNo) (r : RecordInHand) (s : State) : State.Carries s (areaResume n r s) := by
  cases r
  case area => exact areaRow_carries _ _ _ _ _ _ s
  all_goals exact .refl s

theorem imageRow_carries (n : LaneNo) (x y : Int) (w h : Nat) (source : Addr) (stride k : Nat) (s : State) :
    State.Carries s (imageRow n x y w h source stride k s) := by
  have read := (readStationList_busOnly .engine (some n)
    (wordRun (addressPlus source (2 * stride * k)) (rowWords w)) s.work).kept
  unfold imageRow
  split <;> rename_i e <;> rw [e] at read
  · exact ((State.withWork_carries read).trans (drawRows_carries _ _ _)).trans (afterRow_carries _ _ _ _ _)
  · exact (State.withWork_carries read).trans (endBlock_carries _ _ _)

theorem imageAct_carries (n : LaneNo) (r : RecordWords) (s : State) : State.Carries s (imageAct n r s) :=
  checked_carries (imageRow_carries _ _ _ _ _ _ _ _) s

theorem imageResume_carries (n : LaneNo) (r : RecordInHand) (s : State) : State.Carries s (imageResume n r s) := by
  cases r
  case image => exact imageRow_carries _ _ _ _ _ _ _ _ s
  all_goals exact .refl s

theorem readbackRow_carries (n : LaneNo) (x y w h : Nat) (target : Addr) (stride k : Nat) (s : State) :
    State.Carries s (readbackRow n x y w h target stride k s) := by
  have write := (writeStationList_busOnly .engine (some n) (readbackWords s x y w target stride k) s.work).kept
  unfold readbackRow
  refine .ite ?_ (endBlock_carries _ _ s)
  split <;> rename_i e <;> rw [e] at write
  · exact (State.withWork_carries write).trans (afterRow_carries _ _ _ _ _)
  · exact (State.withWork_carries write).trans (endBlock_carries _ _ _)

theorem readbackAct_carries (n : LaneNo) (r : RecordWords) (s : State) : State.Carries s (readbackAct n r s) :=
  checked_carries (readbackRow_carries _ _ _ _ _ _ _ _) s

theorem readbackResume_carries (n : LaneNo) (r : RecordInHand) (s : State) : State.Carries s (readbackResume n r s) := by
  cases r
  case readback => exact readbackRow_carries _ _ _ _ _ _ _ _ s
  all_goals exact .refl s

theorem clearallAct_carries (n : LaneNo) (r : RecordWords) (s : State) : State.Carries s (clearallAct n r s) :=
  (((State.modLane_carries _ _ s).trans (changePanel_carries _ _)).trans (startTest_carries _)).trans
    (completeRecord_carries _ _)

theorem setmodeAct_carries (n : LaneNo) (r : RecordWords) (s : State) : State.Carries s (setmodeAct n r s) :=
  checked_carries (fun s => (modContext_carries _ _ s).trans (completeRecord_carries _ _)) s

theorem setclipAct_carries (n : LaneNo) (r : RecordWords) (s : State) : State.Carries s (setclipAct n r s) :=
  checked_carries (fun s => (modContext_carries _ _ s).trans (completeRecord_carries _ _)) s

theorem settextAct_carries (n : LaneNo) (r : RecordWords) (s : State) : State.Carries s (settextAct n r s) :=
  checked_carries (fun s => (modContext_carries _ _ s).trans (completeRecord_carries _ _)) s

theorem storeGlyph_carries (set code : Nat) (g : Glyph) (s : State) : State.Carries s (storeGlyph set code g s) := by
  unfold storeGlyph
  split <;> exact ⟨rfl, .refl _⟩

theorem loadGlyphs_carries (n : LaneNo) (set count code : Nat) (source : Addr) (s : State) :
    State.Carries s (loadGlyphs n set count code source s).2 := by
  induction count generalizing code source s with
  | zero => exact .refl s
  | succ count ih =>
    have read := (readStationList_busOnly .engine (some n) (wordRun source 8) s.work).kept
    unfold loadGlyphs
    split <;> rename_i e <;> rw [e] at read
    · exact ((State.withWork_carries read).trans (storeGlyph_carries _ _ _ _)).trans (ih _ _ _)
    · exact State.withWork_carries read

theorem glyphloadAct_carries (n : LaneNo) (r : RecordWords) (s : State) : State.Carries s (glyphloadAct n r s) := by
  unfold glyphloadAct
  dsimp only
  refine checked_carries (fun s => ?_) s
  have load := loadGlyphs_carries n (r.imm.extractLsb' 0 2).toNat (r.imm.extractLsb' 4 7).toNat (fieldNat r.words 0)
    (address20 (fieldWord r.words 1) (fieldWord r.words 2)) s
  split <;> rename_i e <;> rw [e] at load
  · exact load.trans (completeRecord_carries _ _)
  · exact load.trans (endBlock_carries _ _ _)

theorem markAct_carries (n : LaneNo) (r : RecordWords) (s : State) : State.Carries s (markAct n r s) :=
  checked_carries (fun s => (changeTarget_carries _ s).trans (completeRecord_carries _ _)) s

theorem unmarkAct_carries (n : LaneNo) (r : RecordWords) (s : State) : State.Carries s (unmarkAct n r s) :=
  checked_carries (fun s => (changeTarget_carries _ s).trans (completeRecord_carries _ _)) s

theorem stopLane_carries (n : LaneNo) (st : LaneState) (f : Progress → Progress) (s : State) :
    State.Carries s (stopLane n st f s) :=
  .onWork (fun w => (((Work.modLane_kept n _ w).trans (Work.release_kept _ _)).trans (writeLaneRecord_kept _ _ _)).trans
    (settleLanes_kept _)) s

theorem waitAct_carries (n : LaneNo) (r : RecordWords) (s : State) : State.Carries s (waitAct n r s) :=
  .ite (completeRecord_carries n s) (.ite (endBlock_carries _ _ s) (stopLane_carries _ _ _ s))

theorem drainAct_carries (n : LaneNo) (r : RecordWords) (s : State) : State.Carries s (drainAct n r s) :=
  .ite (completeRecord_carries n s) (.ite (endBlock_carries _ _ s) (stopLane_carries _ _ _ s))

theorem takeOctet_carries (n : LaneNo) (o : Byte) (s : State) : State.Carries s (takeOctet n o s) :=
  .ite (((modContext_carries _ _ s).trans (drawRows_carries _ _ _)).trans (modContext_carries _ _ _))
    (modContext_carries _ _ s)

theorem textOctet_carries (n : LaneNo) (octets : List Byte) (k : Nat) (s : State) :
    State.Carries s (textOctet n octets k s) := (takeOctet_carries _ _ s).trans (afterRow_carries _ _ _ _ _)

theorem textAct_carries (n : LaneNo) (r : RecordWords) (s : State) : State.Carries s (textAct n r s) :=
  checked_carries (textOctet_carries _ _ _) s

theorem textResume_carries (n : LaneNo) (r : RecordInHand) (s : State) : State.Carries s (textResume n r s) := by
  cases r
  case text => exact textOctet_carries _ _ _ s
  all_goals exact .refl s

/-! ## The sixteen records by one table -/

/-- What each of the sixteen record commands runs: how its record goes on and how it is carried out. -/
def recordParts : RecordKind → (LaneNo → RecordInHand → State → State) × (LaneNo → RecordWords → State → State)
  | .move => (notDivided, moveAct)
  | .point => (notDivided, pointAct)
  | .vector => (notDivided, vectorAct)
  | .area => (areaResume, areaAct)
  | .text => (textResume, textAct)
  | .image => (imageResume, imageAct)
  | .readback => (readbackResume, readbackAct)
  | .clearall => (notDivided, clearallAct)
  | .setmode => (notDivided, setmodeAct)
  | .setclip => (notDivided, setclipAct)
  | .settext => (notDivided, settextAct)
  | .glyphload => (notDivided, glyphloadAct)
  | .mark => (notDivided, markAct)
  | .unmark => (notDivided, unmarkAct)
  | .wait => (notDivided, waitAct)
  | .drain => (notDivided, drainAct)

/-- The engine's step at a record of this kind. -/
def runKind (k : RecordKind) (s : State) : State := runRecord k (recordParts k).1 (recordParts k).2 s

/-- A record command is the engine's step at a record of its kind, unless RESET is asserted. -/
theorem exec_record {c : Instr} {k : RecordKind} (h : (c, k) ∈ recordCommands) (s : State) :
    exec c s = event (runKind k) s := by
  simp only [recordCommands, List.mem_cons, Prod.mk.injEq, List.not_mem_nil, or_false] at h
  rcases h with ⟨rfl, rfl⟩ | ⟨rfl, rfl⟩ | ⟨rfl, rfl⟩ | ⟨rfl, rfl⟩ | ⟨rfl, rfl⟩ | ⟨rfl, rfl⟩ | ⟨rfl, rfl⟩ | ⟨rfl, rfl⟩ |
    ⟨rfl, rfl⟩ | ⟨rfl, rfl⟩ | ⟨rfl, rfl⟩ | ⟨rfl, rfl⟩ | ⟨rfl, rfl⟩ | ⟨rfl, rfl⟩ | ⟨rfl, rfl⟩ | ⟨rfl, rfl⟩ <;> rfl

theorem runKind_carries (k : RecordKind) (s : State) : State.Carries s (runKind k s) := by
  cases k
  case move => exact runRecord_carries notDivided_carries moveAct_carries s
  case point => exact runRecord_carries notDivided_carries pointAct_carries s
  case vector => exact runRecord_carries notDivided_carries vectorAct_carries s
  case area => exact runRecord_carries areaResume_carries areaAct_carries s
  case text => exact runRecord_carries textResume_carries textAct_carries s
  case image => exact runRecord_carries imageResume_carries imageAct_carries s
  case readback => exact runRecord_carries readbackResume_carries readbackAct_carries s
  case clearall => exact runRecord_carries notDivided_carries clearallAct_carries s
  case setmode => exact runRecord_carries notDivided_carries setmodeAct_carries s
  case setclip => exact runRecord_carries notDivided_carries setclipAct_carries s
  case settext => exact runRecord_carries notDivided_carries settextAct_carries s
  case glyphload => exact runRecord_carries notDivided_carries glyphloadAct_carries s
  case mark => exact runRecord_carries notDivided_carries markAct_carries s
  case unmark => exact runRecord_carries notDivided_carries unmarkAct_carries s
  case wait => exact runRecord_carries notDivided_carries waitAct_carries s
  case drain => exact runRecord_carries notDivided_carries drainAct_carries s

/-! ## Every command by its unit -/

/-- The events that a command stands for while RESET is not asserted. -/
inductive Meaning : (State → State) → Prop
  | nothing : Meaning id
  | nudge (n : LaneNo) (host : n ≠ 3) :
    Meaning (State.onWork (postToHostLane n (nudgeLane n) fun l => { l with nudgePending := true }))
  | resume (n : LaneNo) (host : n ≠ 3) :
    Meaning (State.onWork (postToHostLane n (resumeLane n) fun l => { l with resumePending := true }))
  | cancel (n : LaneNo) : Meaning (State.onWork (cancelLane n))
  | returnSlot (slot : BitVec 5) : Meaning (State.onWork fun w =>
      match w.returnedSlot slot with
      | some k => changeSlot k .free w
      | none => w)
  | run (value : Bool) : Meaning (State.onWork (actOnRun value))
  | lineOn (value : Bool) :
    Meaning (State.onWork fun w => actOnLineOn value { w with port := { w.port with lineOn := value } })
  | panelOn (value : Bool) : Meaning fun s => actOnPanelOn value (s.withPanelOn value)
  | driveResume : Meaning fun s => endPanelEvent (resumeDriver s)
  | clear : Meaning (resetAll .clear)
  | reset : Meaning fun s => setResetAsserted true (resetAll .pin s)
  | causeWrite (data : Word) : Meaning (State.onWork fun w => { w with cause := causeAfterWrite w.cause data })
  | enableWrite (data : Word) :
    Meaning (State.onWork fun w => w.modPort fun p => { p with enable := data.extractLsb' 0 12 })
  | tick : Meaning tickAll
  | expires (comes : State → Bool) (b : TickBlock) : Meaning (expiry comes b)
  | issueRow : Meaning (State.onPanel Panel.issueRow)
  | issueBulk : Meaning (State.onPanel Panel.issueBulk)
  | rowPdone : Meaning fun s =>
      match s.panel.issuedRowPulse with
      | some (pulse, r, _) => endPanelEvent (startTest (changePanel (Panel.completeRow pulse r) s))
      | none => s
  | bulkPdone : Meaning fun s =>
      match s.panel.issuedBulkPulse with
      | some _ => endPanelEvent (startTest (changePanel Panel.completeBulk s))
      | none => s
  | pfault : Meaning fun s =>
      match s.panel.issuedRowPulse, s.panel.issuedBulkPulse with
      | some (pulse, r, _), _ => endPanelEvent (faultRowPulse .fault pulse r s)
      | none, some (pulse, _) => endPanelEvent (faultBulkPulse .bulkFault pulse s)
      | none, none => s
  | record (k : RecordKind) : Meaning (runKind k)
  | settingsReadEnd (late : Option Bool) :
    Meaning fun s => if s.work.port.engine = .starting then endSettingsRead late s else s
  | edge (e : LineEvent) (ldat : Bool) : Meaning (State.onWork (edgeWith e ldat))
  | anyEdge (ldat busy : Bool) :
    Meaning (State.onWork fun w => if busy then busyEdge ldat w else (freeEdge ldat w).1)

/-- What the commands do that an asserted RESET does not hold back. -/
inductive Unheld : (State → State) → Prop
  | nothing : Unheld id
  | readLow : Unheld (State.onWork fun w =>
      if w.port.resetAsserted then { w with port := { w.port with readData := 0 } }
      else { w with port := { w.port with readData := w.stamp, hold := some { value := w.clockHigh, ticks := 2 } } })
  | readHigh : Unheld (State.onWork fun w =>
      if w.port.resetAsserted then { w with port := { w.port with readData := 0 } }
      else { w with port := { w.port with readData := w.clockhValue, hold := none } })
  | powerOn (station : Byte) (segment : BitVec 4) : Unheld fun s =>
      setResetAsserted true ((resetAll .power s).onWork fun w => w.modPort (Port.withPins station segment))
  | resetDeasserted : Unheld fun s =>
      if s.work.port.resetAsserted then setResetAsserted false (s.onWork fun w => w.modPort Port.latchStraps) else s
  | supokRise : Unheld fun s => if s.work.port.resetAsserted then s.onPanel (Panel.setSupok true) else riseSupok s
  | supokFall : Unheld fun s => if s.work.port.resetAsserted then s.onPanel (Panel.setSupok false) else fallSupok s

/-- The host lane that a posting names. -/
theorem postedHostLane_cases (operand : BitVec 5) :
    postedHostLane operand = none ∨ ∃ n : LaneNo, n ≠ 3 ∧ postedHostLane operand = some n := by
  unfold postedHostLane
  split
  · next n _ =>
    by_cases three : n = 3
    · exact .inl (if_pos three)
    · exact .inr ⟨n, three, if_neg three⟩
  · exact .inl rfl

/-- A command that RESET holds back is one of the events (R185). -/
theorem exec_event (c : Instr) : (∃ f, Meaning f ∧ ∀ s, exec c s = event f s) ∨
    (c = .clocklRead ∨ c = .clockhRead ∨ c = .supokRise ∨ c = .supokFall ∨ c = .resetDeasserted ∨
      (∃ word data, c = .portWriteIgnored word data) ∨ ∃ a b, c = .powerOn a b) := by
  have posted (operand : BitVec 5) (act : LaneNo → Work → Work) (mark : Lane → Lane)
      (named : ∀ n, n ≠ 3 → Meaning (State.onWork (postToHostLane n (act n) mark))) :
      ∃ f, Meaning f ∧ ∀ s, event (State.onWork fun w =>
        match postedHostLane operand with
        | some n => postToHostLane n (act n) mark w
        | none => w) s = event f s := by
    obtain e | ⟨n, host, e⟩ := postedHostLane_cases operand <;> rw [e]
    · exact ⟨_, .nothing, fun s => rfl⟩
    · exact ⟨_, named n host, fun s => rfl⟩
  have record {k : RecordKind} (h : (c, k) ∈ recordCommands) : ∃ f, Meaning f ∧ ∀ s, exec c s = event f s :=
    ⟨_, .record k, exec_record h⟩
  cases c
  case nudge operand => exact .inl (posted operand nudgeLane _ .nudge)
  case resume operand => exact .inl (posted operand resumeLane _ .resume)
  case cancel operand =>
    refine .inl ?_
    show ∃ f, Meaning f ∧ ∀ s, event (State.onWork fun w =>
      match postedLane operand with
      | some n => cancelLane n w
      | none => w) s = event f s
    cases postedLane operand with
    | none => exact ⟨_, .nothing, fun s => rfl⟩
    | some n => exact ⟨_, .cancel n, fun s => rfl⟩
  case returnSlot slot => exact .inl ⟨_, .returnSlot slot, fun s => rfl⟩
  case run value => exact .inl ⟨_, .run value, fun s => rfl⟩
  case panelOn value => exact .inl ⟨_, .panelOn value, fun s => rfl⟩
  case lineOn value => exact .inl ⟨_, .lineOn value, fun s => rfl⟩
  case driveResume => exact .inl ⟨_, .driveResume, fun s => rfl⟩
  case clear => exact .inl ⟨_, .clear, fun s => rfl⟩
  case causeWrite data => exact .inl ⟨_, .causeWrite data, fun s => rfl⟩
  case enableWrite data => exact .inl ⟨_, .enableWrite data, fun s => rfl⟩
  case reset => exact .inl ⟨_, .reset, fun s => rfl⟩
  case tick => exact .inl ⟨_, .tick, fun s => rfl⟩
  case pulseIssue => exact .inl ⟨_, .issueRow, fun s => rfl⟩
  case bulkIssue => exact .inl ⟨_, .issueBulk, fun s => rfl⟩
  case rowPdone => exact .inl ⟨_, .rowPdone, fun s => rfl⟩
  case bulkPdone => exact .inl ⟨_, .bulkPdone, fun s => rfl⟩
  case pfault => exact .inl ⟨_, .pfault, fun s => rfl⟩
  case settingsReadEnd late => exact .inl ⟨_, .settingsReadEnd late, fun s => rfl⟩
  case lclkRisingEdge ldat busy => exact .inl ⟨_, .anyEdge ldat busy, fun s => rfl⟩
  case huntFlag | huntAbort | frameOpen | frameOctet | frameAbort | frameClose | breakEntry | breakEnd =>
    exact .inl ⟨_, .edge _ _, fun s => rfl⟩
  case clockHoldRelease | waitExpiry | drainTimeout | markerFlip | rampReady | rampFailed | pulseTimeout | bulkTimeout =>
    exact .inl ⟨_, .expires _ _, fun s => rfl⟩
  case clocklRead | clockhRead | supokRise | supokFall | resetDeasserted | portWriteIgnored | powerOn =>
    exact .inr (by simp)
  all_goals exact .inl (record (by simp [recordCommands]; rfl))

/-- Every command is an event of the part, or is not held back by RESET. -/
theorem exec_cases (c : Instr) : (∃ f, Meaning f ∧ ∀ s, exec c s = event f s) ∨
    ∃ f, Unheld f ∧ ∀ s, exec c s = .next (f s) := by
  obtain held | rfl | rfl | rfl | rfl | rfl | ⟨word, data, rfl⟩ | ⟨a, b, rfl⟩ := exec_event c
  · exact .inl held
  · exact .inr ⟨_, .readLow, fun s => rfl⟩
  · exact .inr ⟨_, .readHigh, fun s => rfl⟩
  · exact .inr ⟨_, .supokRise, fun s => rfl⟩
  · exact .inr ⟨_, .supokFall, fun s => rfl⟩
  · exact .inr ⟨_, .resetDeasserted, fun s => rfl⟩
  · exact .inr ⟨_, .nothing, fun s => rfl⟩
  · exact .inr ⟨_, .powerOn a b, fun s => rfl⟩

/-- What every event keeps, every step keeps. -/
theorem step_keeps {P : State → Prop} (queue : ∀ s q, P s → P { s with pending := q })
    (taken : ∀ f, Meaning f → ∀ s, s.awake → P s → P (f s)) (unheld : ∀ f, Unheld f → ∀ s, P s → P (f s))
    (idles : ∀ s, s.awake → P s → P (idle s)) {s t : State} (h : P s) (e : step s = .next t) : P t := by
  unfold step at e
  split at e
  · next c rest _ =>
    have h := queue s rest h
    obtain ⟨f, m, x⟩ | ⟨f, m, x⟩ := exec_cases c
    · rw [x] at e
      cases e
      split
      · exact h
      · next awake => exact taken f m _ (by simpa [State.awake] using awake) h
    · rw [x] at e
      cases e
      exact unheld f m _ h
  · cases e
    by_cases awake : s.awake
    · exact idles s awake h
    · have asserted : s.work.port.resetAsserted = true := by simpa [State.awake] using awake
      rw [idle, if_pos asserted]
      exact h

/-! ## The queue and the canonical form, whatever the event -/

/-- The queue is as before, and the canonical form of station memory is kept. -/
structure State.Intact (s t : State) : Prop where
  pending : t.pending = s.pending
  wf : s.work.mem.wf → t.work.mem.wf

theorem State.Carries.intact {s t : State} (h : State.Carries s t) : State.Intact s t := ⟨h.pending, h.work.wf⟩

theorem State.Intact.refl (s : State) : State.Intact s s := ⟨rfl, id⟩

theorem State.Intact.trans {a b c : State} (h : State.Intact a b) (k : State.Intact b c) : State.Intact a c :=
  ⟨k.pending.trans h.pending, fun x => k.wf (h.wf x)⟩

theorem State.onWork_intact {f : Work → Work} {s : State} (h : s.work.mem.wf → (f s.work).mem.wf) :
    State.Intact s (s.onWork f) := ⟨rfl, h⟩

theorem writeHeader_kept (reason : SetupReason) (w : Work) : Work.Kept w (writeHeader reason w) :=
  (writeStationList_busOnly _ _ _ _).kept

theorem foldl_kept {α : Type} {f : Work → α → Work} (h : ∀ w a, Work.Kept w (f w a)) (l : List α) (w : Work) :
    Work.Kept w (l.foldl f w) := by
  induction l generalizing w with
  | nil => exact .refl w
  | cons a rest ih => exact (h w a).trans (ih _)

theorem discardOldSpool_kept (w : Work) : Work.Kept w (discardOldSpool w) := by
  have h : Work.Kept w (if w.lane3Running then retireSlot .cancelled w else w) := .ite (retireSlot_kept _ w) (.refl w)
  have k := h.trans (Work.modLine_kept
    (fun l => { l with slots := Vector.replicate 32 .free, pendingSlots := [], purgeRequested := false }) _)
  exact .ite k (k.trans (idleLane3_kept _))

theorem freshSpool_kept (sp : Spool) (w : Work) : Work.Kept w (freshSpool sp w) :=
  ((Work.modLine_kept _ w).trans (foldl_kept (fun w k => changeSlot_kept k .free w) _ _)).trans (Work.modLine_kept _ _)

theorem takeGeometry_kept (sp : Spool) (w : Work) : Work.Kept w (takeGeometry sp w) :=
  .ite (.refl w) ((discardOldSpool_kept w).trans (freshSpool_kept sp _))

theorem enterRunning_wf {w : Work} (h : w.mem.wf) : (enterRunning w).mem.wf := by
  have acted : (actOnAllPending (w.modPort fun p => { p with engine := .running })).mem.wf :=
    (actOnAllPending_kept _).wf h
  refine (settleLanes_kept _).wf ?_
  split
  · exact (lineHunt_kept _).wf acted
  · exact acted

theorem completeStart_wf {w : Work} (t : Settings) (late : Option Bool) (h : w.mem.wf) : (completeStart t late w).mem.wf := by
  have written := ((((takeGeometry_kept t.spool ((w.modPort fun p =>
    { p with fence := some { low := t.fenceLow, high := t.fenceHigh } }).modLine
      fun l => { l with settings := some t.line })).trans (writeHeader_kept .none _)).trans (writeLineStatus_kept _)).wf h)
  unfold completeStart
  dsimp only
  split
  · exact enterRunning_wf written
  · exact written

theorem failStart_wf {w : Work} (reason : SetupReason) (h : w.mem.wf) : (failStart reason w).mem.wf :=
  (writeHeader_kept reason w).wf h

theorem endSettingsRead_intact (late : Option Bool) (s : State) : State.Intact s (endSettingsRead late s) := by
  have read := (readStationList_busOnly .engine none (wordRun (s.work.exchange 0x20) 16) s.work).wf
  unfold endSettingsRead
  split
  next result w1 e =>
  rw [e] at read
  split
  · exact ⟨rfl, read⟩
  · split
    · exact ⟨rfl, fun h => failStart_wf .memory (read h)⟩
    · unfold checkSettings
      split
      · exact ⟨rfl, fun h => failStart_wf _ (read h)⟩
      · exact ⟨rfl, fun h => completeStart_wf _ late (read h)⟩

theorem actOnRun_wf {w : Work} (value : Bool) (h : w.mem.wf) : (actOnRun value w).mem.wf := by
  have stopping : (enterStopping (w.modPort fun p => { p with run := value })).mem.wf :=
    ((lineOff_kept _).trans (settleLanes_kept _)).wf h
  unfold actOnRun
  dsimp only
  split
  · exact h
  · exact stopping
  all_goals exact h

theorem actOnLineOn_kept (value : Bool) (w : Work) : Work.Kept w (actOnLineOn value w) :=
  .ite (.ite (lineHunt_kept w) (.refl w)) (lineOff_kept w)

theorem tickAll_intact (s : State) : State.Intact s (tickAll s) := ⟨finishTick_pending _ _ _, finishTick_wf _ _ _⟩

theorem referenceEdge_intact (s : State) : State.Intact s (referenceEdge s) := by
  unfold referenceEdge
  split
  · exact ⟨rfl, id⟩
  · split
    · exact ⟨rfl, id⟩
    · exact tickAll_intact s

theorem idle_intact (s : State) : State.Intact s (idle s) := by
  unfold idle
  split
  · exact .refl s
  · exact (State.Carries.onWork (fun w => (passBuffered_kept w).trans (settleLanes_kept _)) s).intact.trans
      (referenceEdge_intact _)

/-- No event changes the queue or spoils the canonical form. -/
theorem Meaning.intact {f : State → State} (m : Meaning f) (s : State) : State.Intact s (f s) := by
  cases m with
  | nothing => exact .refl s
  | nudge n => exact (State.Carries.onWork (postToHostLane_kept n _ _ (nudgeLane_kept n)) s).intact
  | resume n => exact (State.Carries.onWork (postToHostLane_kept n _ _ (resumeLane_kept n)) s).intact
  | cancel n => exact (State.Carries.onWork (cancelLane_kept n) s).intact
  | returnSlot slot =>
    refine State.onWork_intact fun h => ?_
    split
    · exact (changeSlot_kept _ _ _).wf h
    · exact h
  | run value => exact State.onWork_intact (actOnRun_wf value)
  | lineOn value => exact State.onWork_intact fun h => (actOnLineOn_kept value _).wf h
  | panelOn value =>
    have acted := (actOnPanelOn_carries value (s.withPanelOn value)).intact
    exact ⟨acted.pending, acted.wf⟩
  | driveResume => exact ((resumeDriver_carries s).trans (endPanelEvent_carries _)).intact
  | clear => exact ⟨rfl, id⟩
  | reset => exact ⟨rfl, id⟩
  | causeWrite data => exact ⟨rfl, id⟩
  | enableWrite data => exact ⟨rfl, id⟩
  | tick => exact tickAll_intact s
  | expires comes b =>
    unfold expiry
    split
    · exact ⟨finishTick_pending _ _ _, finishTick_wf _ _ _⟩
    · exact .refl s
  | issueRow => exact ⟨rfl, id⟩
  | issueBulk => exact ⟨rfl, id⟩
  | rowPdone =>
    dsimp only
    split
    · exact (((changePanel_carries _ s).trans (startTest_carries _)).trans (endPanelEvent_carries _)).intact
    · exact .refl s
  | bulkPdone =>
    dsimp only
    split
    · exact (((changePanel_carries _ s).trans (startTest_carries _)).trans (endPanelEvent_carries _)).intact
    · exact .refl s
  | pfault =>
    dsimp only
    split
    · exact ((faultRowPulse_carries _ _ _ s).trans (endPanelEvent_carries _)).intact
    · exact ((faultBulkPulse_carries _ _ s).trans (endPanelEvent_carries _)).intact
    · exact .refl s
  | record k => exact (runKind_carries k s).intact
  | settingsReadEnd late =>
    dsimp only
    split
    · exact endSettingsRead_intact late s
    · exact .refl s
  | edge e ldat => exact (State.Carries.onWork (edgeWith_kept e ldat) s).intact
  | anyEdge ldat busy => exact (State.Carries.onWork (fun w => .ite (busyEdge_kept ldat w) (freeEdge_kept ldat w)) s).intact

theorem Unheld.intact {f : State → State} (m : Unheld f) (s : State) : State.Intact s (f s) := by
  cases m with
  | nothing => exact .refl s
  | readLow => exact State.onWork_intact fun h => by dsimp only; split <;> exact h
  | readHigh => exact State.onWork_intact fun h => by dsimp only; split <;> exact h
  | powerOn a b => exact ⟨rfl, id⟩
  | resetDeasserted => dsimp only; split <;> exact ⟨rfl, id⟩
  | supokRise =>
    dsimp only
    split
    · exact ⟨rfl, id⟩
    · exact (riseSupok_carries s).intact
  | supokFall =>
    dsimp only
    split
    · exact ⟨rfl, id⟩
    · exact (fallSupok_carries s).intact

/-- Settles O55: every event keeps the canonical form, and so does what goes on with no command waiting. -/
theorem stepKeepsMemoryCanonical : Obligations.StepKeepsMemoryCanonical := fun _ _ h e =>
  step_keeps (P := State.MemoryCanonical) (fun _ _ h => h) (fun _ m s _ h => (m.intact s).wf h)
    (fun _ m s h => (m.intact s).wf h) (fun s _ h => (idle_intact s).wf h) h e

/-- Settles O2: no event that a command stands for touches the queue. -/
theorem everyCommandKeepsTheQueue : Obligations.EveryCommandKeepsTheQueue := by
  intro c s
  obtain ⟨f, m, e⟩ | ⟨f, m, e⟩ := exec_cases c
  · rw [e]
    refine ⟨_, rfl, ?_⟩
    split
    · rfl
    · exact (m.intact s).pending
  · exact ⟨f s, e s, (m.intact s).pending⟩

/-- Settles O1: a step with a command waiting is, by its definition, that command on the queue's rest. -/
theorem stepTakesFrontCommand : Obligations.StepTakesFrontCommand := fun _ _ => rfl

end Sys2Proof.Machine

/-! What an operation of the lane unit can do to the lanes, the slots and the engine state, whatever the bus does: a run of moves, each
with the guard under which the operation makes it. Every invariant of the lanes and slots is then one case analysis over the moves. -/

namespace Sys2Proof.Machine

/-! ## Moves -/

/-- The slot of `p`, the first pending one, is FREE and pending no more, with no purge asked (R80). -/
def Work.slotFreed (p : PendingSlot) (w : Work) : Work :=
  { w with line := { w.line with pendingSlots := w.line.pendingSlots.tail, purgeRequested := false } }.setSlot p.slot .free

/-- The QUEUED slots are FREE and pending no more (R81, R153). -/
def Work.queuedCleared (w : Work) : Work :=
  w.queuedSlots.foldl (fun w p => w.setSlot p.slot .free)
    { w with line := { w.line with pendingSlots := w.line.pendingSlots.filter fun p => w.slotOf p.slot ≠ .queued } }

/-- A lane whose WAIT or DRAIN is complete (R64, R65). -/
def Lane.waited (l : Lane) : Lane :=
  { l with
    state := .ready
    progress := { l.progress with ordinal := l.progress.ordinal + 1, waitCount := 0, limit := none, pointOwed := true } }

/-- A lane that is suspended at a preemption point (R70). -/
def Lane.suspended (l : Lane) : Lane :=
  { l with state := .ready, cancelRequested := false, progress := { l.progress with pointOwed := false } }

/-- Only flags, counts and the owed point of a lane change: its state, context and the rest of its progress do not. -/
def Lane.FlagsOnly (f : Lane → Lane) : Prop :=
  ∀ l, (f l).state = l.state ∧ (f l).context = l.context ∧
    (f l).progress = { l.progress with pointOwed := (f l).progress.pointOwed }

/-- One move of the lane unit: what an operation does between two accesses of the station bus, and the guard it does it under.
`A` stands for what the caller assumes of the lanes: a suspension finds its lane ACTIVE only under it. -/
inductive Work.Move (A : Prop) : Work → Work → Prop
  | bus {w v : Work} (only : Work.BusOnly w v) : Move A w v
  | flags (n : LaneNo) (f : Lane → Lane) (w : Work) (only : Lane.FlagsOnly f) : Move A w (w.modLane n f)
  | leave (n : LaneNo) (st : LaneState) (a : Addr) (w : Work) (host : n ≠ 3) (without : st.holdsBlock = false) :
    Move A w (w.leaveBlock n st a)
  | fetch (n : LaneNo) (a : Addr) (w1 w2 : Word) (w : Work) (host : n ≠ 3) :
    Move A w ((w.modLane n (Lane.fetched a w1 w2)).release n)
  | suspend (n : LaneNo) (w : Work) (active : A → (w.laneOf n).state = .active) :
    Move A w ((w.modLane n Lane.suspended).release n)
  | activate (n : LaneNo) (w : Work) (ready : (w.laneOf n).state = .ready) (free : w.lanes.activeValid = false)
    (running : w.port.engine = .running) : Move A w (w.activate n)
  | complete (n : LaneNo) (w : Work) (waits : (w.laneOf n).state = .waiting ∨ (w.laneOf n).state = .draining) :
    Move A w (w.modLane n Lane.waited)
  | count (n : LaneNo) (w : Work) (wait : w.waitRunsOut n = false) (limit : w.limitRunsOut n = false) :
    Move A w (w.modLane n Lane.countTick)
  | stopped (w : Work) (stopping : w.port.engine = .stopping) (free : w.lanes.activeValid = false) :
    Move A w { w with port := { w.port with engine := if w.port.run then .starting else .halted } }
  | slotRuns (p : PendingSlot) (w : Work) (held : w.heldSlot = some p) (queued : w.slotOf p.slot = .queued) :
    Move A w (w.setSlot p.slot .running)
  | slotRetires (p : PendingSlot) (w v : Work) (held : w.heldSlot = some p) (freed : Work.BusOnly (w.slotFreed p) v) :
    Move A w (takeNextSlot v)
  | slotLost (p : PendingSlot) (a : Addr) (w v : Work) (held : w.heldSlot = some p)
    (freed : Work.BusOnly (w.slotFreed p) v) : Move A w (v.leaveBlock 3 .faulted a)
  | faulted (a : Addr) (w : Work) (none : w.heldSlot = none) : Move A w (w.leaveBlock 3 .faulted a)
  | stray (w : Work) (none : w.heldSlot = none) : Move A w (takeNextSlot w)
  | queuedFreed (w v : Work) (begun : w.lane3NotBegun = false) (freed : Work.BusOnly w.queuedCleared v) : Move A w v
  | queuedFreedIdle (w v : Work) (why : w.lane3NotBegun = true ∨ (w.laneOf 3).state = .faulted)
    (freed : Work.BusOnly w.queuedCleared v) : Move A w (v.leaveBlock 3 .idle 0)
  | purgeAsked (w : Work) : Move A w { w with line := { w.line with purgeRequested := true } }

/-- A run of moves. -/
def Work.Moves (A : Prop) : Work → Work → Prop := Relation.ReflTransGen (Work.Move A)

section

variable {A : Prop}

theorem Work.Moves.refl (w : Work) : Work.Moves A w w := Relation.ReflTransGen.refl

theorem Work.Move.moves {a b : Work} (h : Work.Move A a b) : Work.Moves A a b := Relation.ReflTransGen.single h

theorem Work.Moves.trans {a b c : Work} (h : Work.Moves A a b) (k : Work.Moves A b c) : Work.Moves A a c :=
  Relation.ReflTransGen.trans h k

theorem Work.BusOnly.moves {a b : Work} (h : Work.BusOnly a b) : Work.Moves A a b := (Work.Move.bus h).moves

/-- What every move keeps, a run of moves keeps. -/
theorem Work.Moves.keeps {J : Work → Prop} (h : ∀ a b, Work.Move A a b → J a → J b) {a b : Work} (m : Work.Moves A a b)
    (j : J a) : J b := by
  induction m with
  | refl => exact j
  | tail _ last ih => exact h _ _ last ih

/-- Both branches of a choice. -/
theorem Work.Moves.ite {c : Prop} [Decidable c] {w a b : Work} (h : c → Work.Moves A w a) (k : ¬c → Work.Moves A w b) :
    Work.Moves A w (if c then a else b) := by
  split
  · exact h ‹_›
  · exact k ‹_›

/-- A lane is as it was where only the bus was at work. -/
theorem Work.BusOnly.laneOf {a b : Work} (h : Work.BusOnly a b) (n : LaneNo) : b.laneOf n = a.laneOf n := by
  unfold Work.laneOf
  rw [h.lanes]

theorem Work.BusOnly.slotOf {a b : Work} (h : Work.BusOnly a b) (k : SlotNo) : b.slotOf k = a.slotOf k := by
  unfold Work.slotOf
  rw [h.line]

theorem Work.BusOnly.heldSlot {a b : Work} (h : Work.BusOnly a b) : b.heldSlot = a.heldSlot := by
  unfold Work.heldSlot
  rw [h.laneOf, h.line]

/-! ## Lane records and faults -/

theorem writeSlotWord_busOnly (k : SlotNo) (st : SlotState) (w : Work) : Work.BusOnly w (writeSlotWord k st w).2 :=
  writeStation_busOnly _ _ _ _ _

/-- A slot changes its state, and then only the bus is at work (R155). -/
theorem changeSlot_busOnly (k : SlotNo) (st : SlotState) (w : Work) : Work.BusOnly (w.setSlot k st) (changeSlot k st w) :=
  writeSlotWord_busOnly k st _

/-- Setting a slot after the bus was at work. -/
theorem Work.BusOnly.setSlot {a b : Work} (h : Work.BusOnly a b) (k : SlotNo) (st : SlotState) :
    Work.BusOnly (a.setSlot k st) (b.setSlot k st) :=
  ⟨h.port, h.time, h.lanes, by rw [Work.setSlot_line, Work.setSlot_line, h.line], h.wf⟩

theorem freeHeldSlot_of_held {w : Work} {p : PendingSlot} (h : w.heldSlot = some p) :
    Work.BusOnly (w.slotFreed p) (freeHeldSlot w) := by
  unfold freeHeldSlot
  rw [h]
  exact changeSlot_busOnly _ _ _

theorem freeHeldSlot_of_none {w : Work} (h : w.heldSlot = none) : freeHeldSlot w = w := by
  unfold freeHeldSlot
  rw [h]

theorem faultAttempt_busOnly (n : LaneNo) (r : LaneFaultReason) (w : Work) : Work.BusOnly w (faultAttempt n r w).2 := by
  have h := readStation_busOnly .lane (some n) (w.laneRecord n 0xE) w
  unfold faultAttempt
  split <;> rename_i e <;> rw [e] at h
  · split <;> exact h.trans (writeStationList_busOnly _ _ _ _)
  · exact h.trans (writeStationList_busOnly _ _ _ _)

/-- A lane that enters FAULTED leaves its block, and what follows is the bus at work (R50). -/
theorem enterFaulted_busOnly (n : LaneNo) (r : LaneFaultReason) (a : Addr) (b : Bool) (w : Work) :
    Work.BusOnly ((if n = 3 then freeHeldSlot w else w).leaveBlock n .faulted a) (enterFaulted n r a b w) := by
  have h := faultAttempt_busOnly n r ((if n = 3 then freeHeldSlot w else w).leaveBlock n .faulted a)
  refine Work.BusOnly.trans ?_ (setCause_busOnly .laneFault _)
  by_cases c : ((faultAttempt n r ((if n = 3 then freeHeldSlot w else w).leaveBlock n .faulted a)).1 || b) = true
  · rw [if_pos c]
    exact h
  · rw [if_neg c]
    exact h.trans (faultAttempt_busOnly _ _ _)

theorem enterFaulted_moves (n : LaneNo) (r : LaneFaultReason) (a : Addr) (b : Bool) (w : Work) :
    Work.Moves A w (enterFaulted n r a b w) := by
  refine Work.Moves.trans ?_ (enterFaulted_busOnly n r a b w).moves
  by_cases three : n = 3
  · subst three
    rw [if_pos rfl]
    cases h : w.heldSlot with
    | none => rw [freeHeldSlot_of_none h]; exact (Work.Move.faulted a w h).moves
    | some p => exact (Work.Move.slotLost p a w _ h (freeHeldSlot_of_held h)).moves
  · rw [if_neg three]
    exact (Work.Move.leave n .faulted a w three rfl).moves

/-- A lane record is written whole by the bus alone, or its lane enters FAULTED (R49, R77). -/
theorem writeLaneRecord_cases (n : LaneNo) (retired : Addr) (w : Work) :
    Work.BusOnly w (writeLaneRecord n retired w) ∨
      ∃ v a, Work.BusOnly w v ∧ writeLaneRecord n retired w = enterFaulted n .memory a true v := by
  have h := writeStationList_busOnly .lane (some n) (w.laneRecordWords n) w
  unfold writeLaneRecord
  split <;> rename_i e <;> rw [e] at h
  · exact .inl h
  · exact .inr ⟨_, _, h, rfl⟩

theorem writeLaneRecord_moves (n : LaneNo) (retired : Addr) (w : Work) : Work.Moves A w (writeLaneRecord n retired w) := by
  obtain h | ⟨v, a, h, e⟩ := writeLaneRecord_cases n retired w
  · exact h.moves
  · rw [e]
    exact h.moves.trans (enterFaulted_moves _ _ _ _ _)

/-! ## Fetch, link and retire -/

theorem fetchBlock_moves {n : LaneNo} (host : n ≠ 3) (a : Addr) (w : Work) : Work.Moves A w (fetchBlock n a w) := by
  have h := (readStationList_busOnly .lane (some n) [addressPlus a 2, addressPlus a 4] w).moves (A := A)
  unfold fetchBlock
  split <;> rename_i e <;> rw [e] at h
  · exact (h.trans (Work.Move.fetch n a _ _ _ host).moves).trans (writeLaneRecord_moves _ _ _)
  · exact h.trans (enterFaulted_moves _ _ _ _ _)

theorem readLink_busOnly (n : LaneNo) (a : Addr) (w : Work) : Work.BusOnly w (readLink n a w).2 := by
  have h := readStation_busOnly .lane (some n) a w
  unfold readLink
  split
  · rename_i e
    rw [e] at h
    exact h
  · rename_i w1 e
    rw [e] at h
    split
    · exact h
    · have k := readStation_busOnly .lane (some n) (addressPlus a 2) w1
      split <;> rename_i e2 <;> rw [e2] at k
      · exact h.trans k
      · split <;> exact h.trans k

theorem followLink_moves {n : LaneNo} (host : n ≠ 3) (a : Addr) {f : Work → Work} (hf : ∀ w, Work.Moves A w (f w)) (w : Work) :
    Work.Moves A w (followLink n a f w) := by
  have h := (readLink_busOnly n a w).moves (A := A)
  unfold followLink
  split <;> rename_i e <;> rw [e] at h
  · exact h.trans (hf _)
  · exact h.trans (fetchBlock_moves host _ _)
  · exact h.trans (enterFaulted_moves _ _ _ _ _)
  · exact h.trans (enterFaulted_moves _ _ _ _ _)

theorem faultCause_busOnly (o : BlockOutcome) (w : Work) : Work.BusOnly w (faultCause o w) := by
  unfold faultCause
  split
  · exact setCause_busOnly _ _
  · exact .refl w

/-- A host lane leaves its block, and its record is written. -/
theorem leaveBlock_recorded_moves {n : LaneNo} (host : n ≠ 3) {st : LaneState} (without : st.holdsBlock = false)
    (a retired : Addr) (w : Work) : Work.Moves A w (writeLaneRecord n retired (w.leaveBlock n st a)) :=
  (Work.Move.leave n st a w host without).moves.trans (writeLaneRecord_moves _ _ _)

theorem afterHostResult_moves {n : LaneNo} (host : n ≠ 3) (a : Addr) (o : BlockOutcome) (stop cancel : Bool) (w : Work) :
    Work.Moves A w (afterHostResult n a o stop cancel w) := by
  unfold afterHostResult
  split
  · exact (leaveBlock_recorded_moves host rfl 0 a w).trans (faultCause_busOnly _ _).moves
  · split
    · have held := leaveBlock_recorded_moves (A := A) host (st := .held) rfl a a w
      refine Work.Moves.trans ?_ (faultCause_busOnly _ _).moves
      split
      · exact held.trans (setCause_busOnly _ _).moves
      · exact held
    · exact followLink_moves host a (fun w => leaveBlock_recorded_moves host rfl a a w) w

theorem countRetire_flagsOnly (o : BlockOutcome) : Lane.FlagsOnly (Lane.countRetire o) := fun _ => ⟨rfl, rfl, rfl⟩

/-- The result words are written as far as the bus lets them, and the retire is counted (R60, R80). -/
theorem resultCounted_moves (n : LaneNo) (o : BlockOutcome) (w : Work) :
    Work.Moves A w ((writeStationList .lane (some n) (w.resultWords n o) w).2.modLane n (Lane.countRetire o)) :=
  (writeStationList_busOnly _ _ _ w).moves.trans (Work.Move.flags n _ _ (countRetire_flagsOnly o)).moves

theorem retireBlock_moves {n : LaneNo} (host : n ≠ 3) (o : BlockOutcome) (w : Work) :
    Work.Moves A w (retireBlock n o w) := by
  have counted := resultCounted_moves (A := A) n o w
  have after : Work.Moves A w (if (writeStationList .lane (some n) (w.resultWords n o) w).1 then
      afterHostResult n (w.laneOf n).current o (w.laneOf n).progress.stop (w.laneOf n).cancelRequested
        ((writeStationList .lane (some n) (w.resultWords n o) w).2.modLane n (Lane.countRetire o))
      else enterFaulted n .memory (w.laneOf n).current true
        ((writeStationList .lane (some n) (w.resultWords n o) w).2.modLane n (Lane.countRetire o))) :=
    .ite (fun _ => counted.trans (afterHostResult_moves host _ _ _ _ _)) fun _ =>
      counted.trans (enterFaulted_moves _ _ _ _ _)
  exact .ite (fun _ => after.trans (setCause_busOnly _ _).moves) fun _ => after

/-- Lane 3 gives up its slot and takes the next one (R80). -/
theorem nextSlot_moves (w : Work) :
    Work.Moves A w (takeNextSlot (freeHeldSlot w)) := by
  cases h : w.heldSlot with
  | none => rw [freeHeldSlot_of_none h]; exact (Work.Move.stray w h).moves
  | some p => exact (Work.Move.slotRetires p w _ h (freeHeldSlot_of_held h)).moves

theorem retireSlot_moves (o : BlockOutcome) (w : Work) : Work.Moves A w (retireSlot o w) := by
  have counted := resultCounted_moves (A := A) 3 o w
  exact .ite (fun _ => ((counted.trans (nextSlot_moves _)).trans (writeLaneRecord_moves _ _ _)).trans
    (faultCause_busOnly _ _).moves) fun _ => counted.trans (enterFaulted_moves _ _ _ _ _)

theorem retire_moves (n : LaneNo) (o : BlockOutcome) (w : Work) : Work.Moves A w (retire n o w) :=
  .ite (fun _ => retireSlot_moves o w) fun host => retireBlock_moves host o w

/-! ## Points and choices -/

theorem suspend_moves {n : LaneNo} {w : Work} (active : A → (w.laneOf n).state = .active) : Work.Moves A w (suspend n w) :=
  (Work.Move.suspend n w active).moves.trans (writeLaneRecord_moves _ _ _)

/-- The preemption point of an ACTIVE lane (R70). -/
theorem preemptionPoint_moves {n : LaneNo} {w : Work} (active : A → (w.laneOf n).state = .active) :
    Work.Moves A w (preemptionPoint n w) := by
  have ends (o : BlockOutcome) : Work.Moves A w (retire n o w) := retire_moves n o w
  exact .ite (fun _ => ends _) fun _ => .ite (fun _ => ends _) fun _ => .ite (fun _ => ends _) fun _ =>
    .ite (fun _ => suspend_moves active) fun _ => .ite (fun _ => suspend_moves active) fun _ =>
      (Work.Move.flags n _ w (by exact fun _ => ⟨rfl, rfl, rfl⟩)).moves

theorem runHeldSlot_moves (w : Work) : Work.Moves A w (runHeldSlot w) := by
  unfold runHeldSlot
  split
  · next p held =>
    exact .ite (fun queued => (Work.Move.slotRuns p w held queued).moves.trans (changeSlot_busOnly _ _ _).moves)
      fun _ => .refl w
  · exact .refl w

theorem grant_moves {n : LaneNo} {w : Work} (ready : (w.laneOf n).state = .ready) (free : w.lanes.activeValid = false)
    (running : w.port.engine = .running) : Work.Moves A w (grant n w) := by
  have granted : Work.Moves A w (if n = 3 then runHeldSlot (w.activate n) else w.activate n) :=
    (Work.Move.activate n w ready free running).moves.trans (.ite (fun _ => runHeldSlot_moves _) fun _ => .refl _)
  have written := granted.trans (writeLaneRecord_moves n 0 _)
  exact .ite (fun both => written.trans (preemptionPoint_moves fun _ => both.1)) fun _ => written

theorem lowestReady_state {w : Work} {n : LaneNo} (h : w.lowestReady = some n) : (w.laneOf n).state = .ready := by
  simpa using List.find?_some h

theorem engineChoice_moves (fuel : Nat) (w : Work) : Work.Moves A w (engineChoice fuel w) := by
  induction fuel generalizing w with
  | zero => exact .refl w
  | succ fuel ih =>
    unfold engineChoice
    split
    · next may =>
      split
      · next n ready => exact (grant_moves (lowestReady_state ready) may.2 may.1).trans (ih _)
      · exact .refl w
    · exact .refl w

theorem endStopping_moves (w : Work) : Work.Moves A w (endStopping w) :=
  .ite (fun h => (Work.Move.stopped w h.1 h.2).moves) fun _ => .refl w

theorem settleLanes_moves (w : Work) : Work.Moves A w (settleLanes w) :=
  (endStopping_moves w).trans (engineChoice_moves _ _)

/-! ## Postings -/

theorem nudgeIdle_moves {n : LaneNo} (host : n ≠ 3) (w : Work) : Work.Moves A w (nudgeIdle n w) := by
  have h := (readStationList_busOnly .lane (some n) [w.laneRecord n 0, w.laneRecord n 2] w).moves (A := A)
  unfold nudgeIdle
  split <;> rename_i e <;> rw [e] at h
  · split
    · exact h
    · next v _ =>
      have k : Work.Moves A w (clearHead n v).2 := h.trans (writeStationList_busOnly _ _ _ _).moves
      split <;> rename_i e2 <;> rw [e2] at k
      · exact .ite (fun _ => k.trans (fetchBlock_moves host _ _)) fun _ => k.trans (enterFaulted_moves _ _ _ _ _)
      · exact k.trans (enterFaulted_moves _ _ _ _ _)
  · exact h.trans (enterFaulted_moves _ _ _ _ _)

theorem nudgeLane_moves {n : LaneNo} (host : n ≠ 3) (w : Work) : Work.Moves A w (nudgeLane n w) := by
  unfold nudgeLane
  split
  · exact nudgeIdle_moves host w
  · exact followLink_moves host _ (fun w => .refl w) w
  all_goals exact .refl w

theorem resumeLane_moves {n : LaneNo} (host : n ≠ 3) (w : Work) : Work.Moves A w (resumeLane n w) := by
  unfold resumeLane
  split
  · exact followLink_moves host _ (fun w => leaveBlock_recorded_moves host rfl _ _ w) w
  all_goals exact .refl w

theorem postToHostLane_moves (n : LaneNo) {act : Work → Work} {mark : Lane → Lane} (h : ∀ w, Work.Moves A w (act w))
    (only : Lane.FlagsOnly mark) (w : Work) : Work.Moves A w (postToHostLane n act mark w) :=
  .ite (fun _ => (h w).trans (settleLanes_moves _)) fun _ => (Work.Move.flags n mark w only).moves

theorem actOnPending_moves {n : LaneNo} (host : n ≠ 3) (w : Work) : Work.Moves A w (actOnPending n w) := by
  have nudged : Work.Moves A w (if (w.laneOf n).nudgePending then nudgeLane n w else w) :=
    .ite (fun _ => nudgeLane_moves host w) fun _ => .refl w
  have resumed (v : Work) (h : Work.Moves A w v) :
      Work.Moves A w (if (v.laneOf n).resumePending then resumeLane n v else v) :=
    .ite (fun _ => h.trans (resumeLane_moves host v)) fun _ => h
  refine (resumed _ nudged).trans ?_
  exact (Work.Move.flags n (fun l => { l with nudgePending := false, resumePending := false }) _
    fun _ => ⟨rfl, rfl, rfl⟩).moves

theorem foldl_moves {α : Type} {f : Work → α → Work} (l : List α) (h : ∀ a ∈ l, ∀ w, Work.Moves A w (f w a)) (w : Work) :
    Work.Moves A w (l.foldl f w) := by
  induction l generalizing w with
  | nil => exact .refl w
  | cons a rest ih => exact (h a (by simp) w).trans (ih (fun b hb => h b (by simp [hb])) _)

theorem actOnAllPending_moves (w : Work) : Work.Moves A w (actOnAllPending w) :=
  foldl_moves hostLanes (fun n hn w => actOnPending_moves (by rintro rfl; simp [hostLanes] at hn) w) w

/-! ## Cancel and purge -/

theorem cancelHostLane_moves {n : LaneNo} (host : n ≠ 3) (w : Work) : Work.Moves A w (cancelHostLane n w) := by
  unfold cancelHostLane
  split
  · exact .refl w
  · exact (Work.Move.flags n _ w (by exact fun _ => ⟨rfl, rfl, rfl⟩)).moves
  · exact retireBlock_moves host _ w
  · exact retireBlock_moves host _ w
  · exact retireBlock_moves host _ w
  all_goals exact leaveBlock_recorded_moves host rfl _ _ w

/-- The QUEUED slots are freed, and otherwise only the bus is at work. -/
theorem freeQueuedSlots_busOnly (w : Work) : Work.BusOnly w.queuedCleared (freeQueuedSlots w) := by
  have fold : ∀ (l : List PendingSlot) (a b : Work), Work.BusOnly a b →
      Work.BusOnly (l.foldl (fun w p => w.setSlot p.slot .free) a) (l.foldl (fun w p => changeSlot p.slot .free w) b) := by
    intro l
    induction l with
    | nil => exact fun _ _ h => h
    | cons p rest ih => exact fun a b h => ih _ _ ((h.setSlot p.slot .free).trans (changeSlot_busOnly _ _ _))
  exact fold _ _ _ (.refl _)

theorem queuedCleared_laneOf (w : Work) (n : LaneNo) : w.queuedCleared.laneOf n = w.laneOf n := by
  have fold : ∀ (l : List PendingSlot) (v : Work),
      (l.foldl (fun w p => w.setSlot p.slot .free) v).laneOf n = v.laneOf n := by
    intro l
    induction l with
    | nil => exact fun _ => rfl
    | cons p rest ih => exact fun v => ih _
  exact fold _ _

theorem freeQueuedSlots_laneOf (w : Work) (n : LaneNo) : (freeQueuedSlots w).laneOf n = w.laneOf n :=
  ((freeQueuedSlots_busOnly w).laneOf n).trans (queuedCleared_laneOf w n)

/-- Lane 3, which had not begun its slot or is FAULTED, becomes IDLE behind the freed slots (R81, R153). -/
theorem freeQueuedSlots_idleLane3_moves {w : Work} (why : w.lane3NotBegun = true ∨ (w.laneOf 3).state = .faulted) :
    Work.Moves A w (idleLane3 (freeQueuedSlots w)) :=
  (Work.Move.queuedFreedIdle w _ why (freeQueuedSlots_busOnly w)).moves.trans (writeLaneRecord_moves _ _ _)

theorem freeQueuedSlots_moves {w : Work} (begun : w.lane3NotBegun = false) : Work.Moves A w (freeQueuedSlots w) :=
  (Work.Move.queuedFreed w _ begun (freeQueuedSlots_busOnly w)).moves

theorem cancelLane3_moves (w : Work) : Work.Moves A w (cancelLane3 w) := by
  refine .ite (fun notBegun => freeQueuedSlots_idleLane3_moves (.inl notBegun)) fun begun => ?_
  have freed := freeQueuedSlots_moves (A := A) (Bool.eq_false_iff.mpr begun)
  have retires := freed.trans (retireSlot_moves .cancelled _)
  split
  · exact freed.trans (Work.Move.flags 3 _ _ (by exact fun _ => ⟨rfl, rfl, rfl⟩)).moves
  · exact retires
  · exact retires
  · exact retires
  · next e => exact freeQueuedSlots_idleLane3_moves (.inr ((congrArg Lane.state (freeQueuedSlots_laneOf w 3)).symm.trans e))
  all_goals exact freed

theorem purgeLane3_moves (w : Work) : Work.Moves A w (purgeLane3 w) := by
  refine .ite (fun notBegun => freeQueuedSlots_idleLane3_moves (.inl notBegun)) fun begun => ?_
  have freed := freeQueuedSlots_moves (A := A) (Bool.eq_false_iff.mpr begun)
  have retires := freed.trans (retireSlot_moves .purged _)
  split
  · exact freed.trans (Work.Move.purgeAsked _).moves
  · exact retires
  · exact retires
  · exact retires
  all_goals exact freed

theorem cancelLane_moves (n : LaneNo) (w : Work) : Work.Moves A w (cancelLane n w) := by
  have cleared : Work.Moves A w (w.modLane n fun l => { l with nudgePending := false, resumePending := false }) :=
    (Work.Move.flags n _ w (by exact fun _ => ⟨rfl, rfl, rfl⟩)).moves
  refine Work.Moves.trans ?_ (settleLanes_moves _)
  exact cleared.trans (.ite (fun _ => cancelLane3_moves _) fun host => cancelHostLane_moves host _)

/-! ## Waits and drains -/

theorem completeWaiting_moves {n : LaneNo} {w : Work}
    (waits : (w.laneOf n).state = .waiting ∨ (w.laneOf n).state = .draining) : Work.Moves A w (completeWaiting n w) :=
  (Work.Move.complete n w waits).moves.trans (writeLaneRecord_moves _ _ _)

theorem completeDrains_moves (w : Work) : Work.Moves A w (completeDrains w) :=
  foldl_moves _ (fun _ _ _ => .ite (fun drains => completeWaiting_moves (.inr drains)) fun _ => .refl _) w

theorem tickLane_moves (n : LaneNo) (w : Work) : Work.Moves A w (tickLane n w) := by
  refine .ite (fun wait => ?_) fun wait => .ite (fun limit => ?_) fun limit => ?_
  · simp only [Work.waitRunsOut, Bool.and_eq_true, decide_eq_true_eq] at wait
    exact completeWaiting_moves (.inl wait.1)
  · exact retire_moves n .timeout w
  · exact (Work.Move.count n w (Bool.eq_false_iff.mpr wait) (Bool.eq_false_iff.mpr limit)).moves

theorem tickLanes_moves (w : Work) : Work.Moves A w (tickLanes w) :=
  .ite (fun _ => foldl_moves _ (fun n _ w => tickLane_moves n w) w) fun _ => .refl w

end

end Sys2Proof.Machine

/-! The invariants of the lanes, the slots and the ranges under the moves of the lane unit: one case analysis over the moves for each. -/

namespace Sys2Proof.Machine

/-! ## The lanes after a change -/

theorem Work.laneOf_modLane (w : Work) (n m : LaneNo) (f : Lane → Lane) :
    (w.modLane n f).laneOf m = if m = n then f (w.laneOf n) else w.laneOf m := by
  by_cases e : m = n
  · subst e; simp
  · rw [if_neg e, Work.laneOf_modLane_other _ _ _ _ e]

@[simp] theorem Work.laneOf_release (w : Work) (n m : LaneNo) : (w.release n).laneOf m = w.laneOf m := by
  unfold Work.release
  split <;> rfl

@[simp] theorem Work.release_line (w : Work) (n : LaneNo) : (w.release n).line = w.line := by
  unfold Work.release
  split <;> rfl

@[simp] theorem Work.release_port (w : Work) (n : LaneNo) : (w.release n).port = w.port := by
  unfold Work.release
  split <;> rfl

theorem Work.laneOf_leaveBlock (w : Work) (n m : LaneNo) (st : LaneState) (a : Addr) :
    (w.leaveBlock n st a).laneOf m = if m = n then (w.laneOf n).without st a else w.laneOf m := by
  rw [leaveBlock_eq, Work.laneOf_release, Work.laneOf_modLane]

/-- The next slot is taken: what lane 3 becomes, and that no other lane changes (R79, R80). -/
theorem Work.laneOf_takeNextSlot (w : Work) (m : LaneNo) :
    (takeNextSlot w).laneOf m = if m = 3 then
      (match w.line.pendingSlots.head? with
        | some p => (w.laneOf 3).tookSlot (w.slotAddress p.slot) p.octets
        | none => (w.laneOf 3).without .idle 0)
      else w.laneOf m := by
  unfold takeNextSlot
  cases w.line.pendingSlots.head? with
  | none => exact w.laneOf_leaveBlock 3 m .idle 0
  | some p =>
    dsimp only
    rw [Work.laneOf_release, Work.laneOf_modLane]

@[simp] theorem takeNextSlot_line (w : Work) : (takeNextSlot w).line = w.line := by
  unfold takeNextSlot
  split
  · rw [Work.release_line]; rfl
  · rw [leaveBlock_eq, Work.release_line]; rfl

@[simp] theorem takeNextSlot_port (w : Work) : (takeNextSlot w).port = w.port := by
  unfold takeNextSlot
  split
  · rw [Work.release_port]; rfl
  · rw [leaveBlock_eq, Work.release_port]; rfl

section

variable {A : Prop}

/-! ## At most one lane is ACTIVE -/

theorem Work.OneActive.congr {w v : Work} (h : w.OneActive) (lanes : v.lanes = w.lanes)
    (engine : v.port.engine = w.port.engine) : v.OneActive := by
  have lane (n : LaneNo) : v.laneOf n = w.laneOf n := by unfold Work.laneOf; rw [lanes]
  have active : v.activeLane = w.activeLane := by unfold Work.activeLane; rw [lanes]
  exact ⟨fun n => by rw [lane, active]; exact h.active n, fun valid => by rw [engine]; exact h.engine (lanes ▸ valid)⟩

/-- A lane changes and is ACTIVE after it exactly if it was. -/
theorem Work.OneActive.modLane {w : Work} (h : w.OneActive) (n : LaneNo) (f : Lane → Lane)
    (same : (f (w.laneOf n)).state = .active ↔ (w.laneOf n).state = .active) : (w.modLane n f).OneActive := by
  refine ⟨fun m => ?_, h.engine⟩
  have active : (w.modLane n f).activeLane = w.activeLane := rfl
  rw [active, ← h.active m, Work.laneOf_modLane]
  split
  · next e => rw [e]; exact same
  · exact Iff.rfl

theorem Work.activeLane_release (w : Work) (n m : LaneNo) :
    (w.release n).activeLane = some m ↔ w.activeLane = some m ∧ m ≠ n := by
  by_cases e : w.activeLane = some n
  · rw [release_of_active e, e]
    have none : (Work.activeLane { w with lanes := { w.lanes with activeValid := false } }) = none := rfl
    rw [none]
    exact ⟨fun h => (nomatch h), fun ⟨h, k⟩ => absurd (Option.some.inj h).symm k⟩
  · rw [release_of_other e]
    exact ⟨fun h => ⟨h, fun k => e (k ▸ h)⟩, And.left⟩

/-- A lane is given back in a state that is not ACTIVE (R56). -/
theorem Work.OneActive.givenBack {w : Work} (h : w.OneActive) (n : LaneNo) (f : Lane → Lane)
    (leaves : (f (w.laneOf n)).state ≠ .active) : ((w.modLane n f).release n).OneActive := by
  refine ⟨fun m => ?_, fun valid => ?_⟩
  · rw [Work.activeLane_release, Work.laneOf_release, Work.laneOf_modLane]
    have active : (w.modLane n f).activeLane = w.activeLane := rfl
    rw [active, ← h.active m]
    split
    · next e => subst e; simp [leaves]
    · next e => simp [e]
  · rw [Work.release_port]
    unfold Work.release at valid
    split at valid
    · cases valid
    · exact h.engine valid

theorem Work.OneActive.leaveBlock {w : Work} (h : w.OneActive) (n : LaneNo) {st : LaneState} (ne : st ≠ .active) (a : Addr) :
    (w.leaveBlock n st a).OneActive := h.givenBack n (Lane.without st a) ne

theorem Work.OneActive.takeNextSlot {w : Work} (h : w.OneActive) : (takeNextSlot w).OneActive := by
  unfold Machine.takeNextSlot
  split
  · exact h.givenBack 3 _ (by simp [Lane.tookSlot])
  · exact h.leaveBlock 3 (by simp) 0

@[simp] theorem queuedCleared_frame (w : Work) : w.queuedCleared.lanes = w.lanes ∧ w.queuedCleared.port = w.port := by
  have fold : ∀ (l : List PendingSlot) (v : Work),
      (l.foldl (fun w p => w.setSlot p.slot .free) v).lanes = v.lanes ∧
        (l.foldl (fun w p => w.setSlot p.slot .free) v).port = v.port := by
    intro l
    induction l with
    | nil => exact fun _ => ⟨rfl, rfl⟩
    | cons p rest ih => exact fun v => ih _
  exact fold _ _

theorem Lane.countTick_state (l : Lane) : l.countTick.state = l.state := by
  unfold Lane.countTick
  split <;> rfl

theorem Work.Move.oneActive {w v : Work} (m : Work.Move A w v) (h : w.OneActive) : v.OneActive := by
  cases m with
  | bus only => exact h.congr only.lanes (by rw [only.port])
  | flags n f w only => exact h.modLane n f (by rw [(only _).1])
  | leave n st a w host without => exact h.leaveBlock n (by rintro rfl; cases without) a
  | fetch n a w1 w2 w host => exact h.givenBack n _ (by simp [Lane.fetched])
  | suspend n w active => exact h.givenBack n _ (by simp [Lane.suspended])
  | activate n w ready free running =>
    have none (m : LaneNo) : (w.laneOf m).state ≠ .active := fun e => by
      have := (h.active m).mp e
      simp [Work.activeLane, free] at this
    refine ⟨fun m => ?_, fun _ => .inl running⟩
    have active : (w.activate n).activeLane = some n := rfl
    have lane : (w.activate n).laneOf m = (w.modLane n fun l => { l with state := .active }).laneOf m := rfl
    rw [active, lane, Work.laneOf_modLane]
    split
    · next e => simp [e]
    · next e => simp [none m, Ne.symm e]
  | complete n w waits => exact h.modLane n _ (by rcases waits with e | e <;> simp [Lane.waited, e])
  | count n w wait limit => exact h.modLane n _ (by rw [Lane.countTick_state])
  | stopped w stopping free => exact ⟨h.active, fun valid => by rw [free] at valid; cases valid⟩
  | slotRuns p w held queued => exact h.congr rfl rfl
  | slotRetires p w v held freed => exact (h.congr freed.lanes (by rw [freed.port]; rfl)).takeNextSlot
  | slotLost p a w v held freed => exact (h.congr freed.lanes (by rw [freed.port]; rfl)).leaveBlock 3 (by simp) a
  | faulted a w none => exact h.leaveBlock 3 (by simp) a
  | stray w none => exact h.takeNextSlot
  | queuedFreed w v begun freed =>
    exact h.congr (freed.lanes.trans (queuedCleared_frame w).1) (by rw [freed.port, (queuedCleared_frame w).2])
  | queuedFreedIdle w v why freed =>
    exact (h.congr (freed.lanes.trans (queuedCleared_frame w).1)
      (by rw [freed.port, (queuedCleared_frame w).2])).leaveBlock 3 (by simp) 0
  | purgeAsked w => exact h.congr rfl rfl

/-! ## No lane begins a DRAIN -/

/-- A lane that waits in a DRAIN after a move did so before. -/
theorem Work.Move.draining {w v : Work} (m : Work.Move A w v) (n : LaneNo) (h : (v.laneOf n).state = .draining) :
    (w.laneOf n).state = .draining := by
  have changed (k : LaneNo) (f : Lane → Lane) (w : Work) (keeps : (f (w.laneOf k)).state = .draining →
      (w.laneOf k).state = .draining) (h : ((w.modLane k f).laneOf n).state = .draining) :
      (w.laneOf n).state = .draining := by
    rw [Work.laneOf_modLane] at h
    split at h
    · next e => rw [e]; exact keeps h
    · exact h
  have left (w : Work) (k : LaneNo) (st : LaneState) (a : Addr) (ne : st ≠ .draining)
      (h : ((w.leaveBlock k st a).laneOf n).state = .draining) : (w.laneOf n).state = .draining := by
    rw [leaveBlock_eq, Work.laneOf_release] at h
    exact changed k _ w (fun e => absurd e ne) h
  have next (w : Work) (h : ((takeNextSlot w).laneOf n).state = .draining) : (w.laneOf n).state = .draining := by
    rw [Work.laneOf_takeNextSlot] at h
    split at h
    · split at h <;> simp [Lane.tookSlot, Lane.without] at h
    · exact h
  have bus {w v : Work} (lanes : v.lanes = w.lanes) (h : (v.laneOf n).state = .draining) :
      (w.laneOf n).state = .draining := by
    unfold Work.laneOf at h ⊢
    rw [lanes] at h
    exact h
  cases m with
  | bus only => exact bus only.lanes h
  | flags k f w only => exact changed k f w (fun e => by rw [← (only _).1]; exact e) h
  | leave k st a w host without => exact left w k st a (by rintro rfl; cases without) h
  | fetch k a w1 w2 w host => exact changed k _ w (fun e => by simp [Lane.fetched] at e) ((w.modLane k _).laneOf_release k n ▸ h)
  | suspend k w active => exact changed k _ w (fun e => by simp [Lane.suspended] at e) ((w.modLane k _).laneOf_release k n ▸ h)
  | activate k w ready free running => exact changed k (fun l => { l with state := .active }) w (by simp) h
  | complete k w waits => exact changed k _ w (by simp [Lane.waited]) h
  | count k w wait limit => exact changed k _ w (by simp [Lane.countTick_state]) h
  | stopped w stopping free => exact h
  | slotRuns p w held queued => exact h
  | slotRetires p w v held freed => exact bus freed.lanes (next v h)
  | slotLost p a w v held freed => exact bus freed.lanes (left v 3 .faulted a (by simp) h)
  | faulted a w none => exact left w 3 .faulted a (by simp) h
  | stray w none => exact next w h
  | queuedFreed w v begun freed => exact bus (freed.lanes.trans (queuedCleared_frame w).1) h
  | queuedFreedIdle w v why freed =>
    exact bus (freed.lanes.trans (queuedCleared_frame w).1) (left v 3 .idle 0 (by simp) h)
  | purgeAsked w => exact h

theorem Work.Move.noneDraining {w v : Work} (m : Work.Move A w v) (h : w.noneDraining) : v.noneDraining :=
  fun n e => h n (m.draining n e)

theorem Work.Moves.draining {w v : Work} (m : Work.Moves A w v) (n : LaneNo) (h : (v.laneOf n).state = .draining) :
    (w.laneOf n).state = .draining := by
  by_contra ne
  exact m.keeps (J := fun x => (x.laneOf n).state ≠ .draining) (fun _ _ m k e => k (m.draining n e)) ne h

end

end Sys2Proof.Machine

/-! The line receiver's invariant, the agreement of slots and lane 3, and the ranges of the lanes and the line, under the moves of
the lane unit. -/

namespace Sys2Proof.Machine

/-! ## What the receiver's invariant reads -/

/-- Of what the receiver's invariant reads, only the engine state may differ, by a STOPPING that is over. -/
structure Work.LineStays (w v : Work) : Prop where
  state : v.line.state = w.line.state
  frame : v.line.frame.isSome = w.line.frame.isSome
  breakFlag : v.line.breakFlag = w.line.breakFlag
  window : v.line.window = w.line.window
  octetBits : v.line.octetBits = w.line.octetBits
  buffer : v.line.buffer = w.line.buffer
  zeros : v.line.zeros = w.line.zeros
  settings : v.line.settings = w.line.settings
  spool : v.line.spool = w.line.spool
  port : v.port = { w.port with engine := v.port.engine }
  engine : v.port.engine = w.port.engine ∨
    (w.port.engine = .stopping ∧ v.port.engine ≠ .running ∧ v.port.engine ≠ .stopping)

theorem Work.LineStays.ofLine {w v : Work} (slots : Vector SlotState 32) (pending : List PendingSlot) (purge : Bool)
    (line : v.line = { w.line with slots := slots, pendingSlots := pending, purgeRequested := purge })
    (port : v.port = w.port) : Work.LineStays w v := by
  constructor <;> simp [line, port]

theorem Work.LineStays.refl (w : Work) : Work.LineStays w w :=
  .ofLine w.line.slots w.line.pendingSlots w.line.purgeRequested rfl rfl

theorem Work.LineStays.trans {a b c : Work} (h : Work.LineStays a b) (k : Work.LineStays b c) : Work.LineStays a c where
  state := k.state.trans h.state
  frame := k.frame.trans h.frame
  breakFlag := k.breakFlag.trans h.breakFlag
  window := k.window.trans h.window
  octetBits := k.octetBits.trans h.octetBits
  buffer := k.buffer.trans h.buffer
  zeros := k.zeros.trans h.zeros
  settings := k.settings.trans h.settings
  spool := k.spool.trans h.spool
  port := by rw [k.port, h.port]
  engine := by
    rcases k.engine with e | ⟨stopping, ends⟩
    · rw [e]; exact h.engine
    · rcases h.engine with e | ⟨_, _, no⟩
      · rw [← e]; exact .inr ⟨stopping, ends⟩
      · exact absurd stopping no

theorem Work.LineStays.lineSound {w v : Work} (h : Work.LineStays w v) (sound : w.LineSound) : v.LineSound where
  inForce engine := by
    have was : w.port.engine = .running ∨ w.port.engine = .stopping := by
      rcases h.engine with e | ⟨stopping, _⟩
      · rw [← e]; exact engine
      · exact .inr stopping
    rw [h.settings, h.spool, h.port]
    exact sound.inForce was
  offUnless on := by
    rw [h.state] at on
    obtain ⟨lineOn, running⟩ := sound.offUnless on
    refine ⟨by rw [h.port]; exact lineOn, ?_⟩
    rcases h.engine with e | ⟨stopping, _⟩
    · rw [e]; exact running
    · rw [running] at stopping; cases stopping
  frame := by rw [h.state, h.frame]; exact sound.frame
  breakFlag := by rw [h.breakFlag, h.state]; exact sound.breakFlag
  window := by rw [h.window]; exact sound.window
  octet := by rw [h.octetBits]; exact sound.octet
  buffer := by rw [h.buffer]; exact sound.buffer
  bufferOff := by rw [h.state, h.buffer]; exact sound.bufferOff
  zeros := by rw [h.state, h.zeros]; exact sound.zeros

/-- The QUEUED slots cleared: what is left of the line. -/
theorem queuedCleared_line (w : Work) : w.queuedCleared.line =
    { w.line with
      slots := w.queuedCleared.line.slots
      pendingSlots := w.line.pendingSlots.filter fun p => w.slotOf p.slot ≠ .queued } := by
  have fold : ∀ (l : List PendingSlot) (v : Work),
      (l.foldl (fun w p => w.setSlot p.slot .free) v).line =
        { v.line with slots := (l.foldl (fun w p => w.setSlot p.slot .free) v).line.slots } := by
    intro l
    induction l with
    | nil => exact fun _ => rfl
    | cons p rest ih => exact fun v => by rw [List.foldl_cons, ih]; rfl
  exact fold _ _

theorem Work.setSlot_lineStays (w : Work) (k : SlotNo) (st : SlotState) : Work.LineStays w (w.setSlot k st) :=
  .ofLine _ _ _ rfl rfl

theorem Work.BusOnly.lineStays {w v : Work} (h : Work.BusOnly w v) : Work.LineStays w v :=
  .ofLine w.line.slots w.line.pendingSlots w.line.purgeRequested (by rw [h.line]) h.port

theorem Work.LineStays.sameLine {w v : Work} (line : v.line = w.line) (port : v.port = w.port) : Work.LineStays w v :=
  .ofLine w.line.slots w.line.pendingSlots w.line.purgeRequested (by rw [line]) port

@[simp] theorem Work.leaveBlock_line (w : Work) (n : LaneNo) (st : LaneState) (a : Addr) :
    (w.leaveBlock n st a).line = w.line := by
  rw [leaveBlock_eq, Work.release_line]; rfl

@[simp] theorem Work.leaveBlock_port (w : Work) (n : LaneNo) (st : LaneState) (a : Addr) :
    (w.leaveBlock n st a).port = w.port := by
  rw [leaveBlock_eq, Work.release_port]; rfl

theorem Work.queuedCleared_lineStays (w : Work) : Work.LineStays w w.queuedCleared :=
  .ofLine _ _ _ (queuedCleared_line w) (queuedCleared_frame w).2

theorem Work.slotFreed_lineStays (w : Work) (p : PendingSlot) : Work.LineStays w (w.slotFreed p) :=
  .ofLine _ _ _ rfl rfl

theorem Work.takeNextSlot_lineStays (w : Work) : Work.LineStays w (takeNextSlot w) := .sameLine (by simp) (by simp)

theorem Work.leaveBlock_lineStays (w : Work) (n : LaneNo) (st : LaneState) (a : Addr) :
    Work.LineStays w (w.leaveBlock n st a) := .sameLine (by simp) (by simp)

section

variable {A : Prop}

theorem Work.Move.lineStays {w v : Work} (m : Work.Move A w v) : Work.LineStays w v := by
  cases m with
  | bus only => exact only.lineStays
  | flags n f w only => exact .sameLine rfl rfl
  | leave n st a w host without => exact w.leaveBlock_lineStays n st a
  | fetch n a w1 w2 w host => exact .sameLine (by rw [Work.release_line]; rfl) (by rw [Work.release_port]; rfl)
  | suspend n w active => exact .sameLine (by rw [Work.release_line]; rfl) (by rw [Work.release_port]; rfl)
  | activate n w ready free running => exact .sameLine rfl rfl
  | complete n w waits => exact .sameLine rfl rfl
  | count n w wait limit => exact .sameLine rfl rfl
  | stopped w stopping free =>
    refine ⟨rfl, rfl, rfl, rfl, rfl, rfl, rfl, rfl, rfl, rfl, .inr ⟨stopping, ?_⟩⟩
    dsimp only
    split <;> simp
  | slotRuns p w held queued => exact w.setSlot_lineStays _ _
  | slotRetires p w v held freed =>
    exact ((w.slotFreed_lineStays p).trans freed.lineStays).trans v.takeNextSlot_lineStays
  | slotLost p a w v held freed =>
    exact ((w.slotFreed_lineStays p).trans freed.lineStays).trans (v.leaveBlock_lineStays 3 _ a)
  | faulted a w none => exact w.leaveBlock_lineStays 3 _ a
  | stray w none => exact w.takeNextSlot_lineStays
  | queuedFreed w v begun freed => exact w.queuedCleared_lineStays.trans freed.lineStays
  | queuedFreedIdle w v why freed =>
    exact (w.queuedCleared_lineStays.trans freed.lineStays).trans (v.leaveBlock_lineStays 3 _ 0)
  | purgeAsked w => exact .ofLine _ _ true rfl rfl

/-- The frame in assembly is as it was after a move. -/
theorem Work.Move.frame {w v : Work} (m : Work.Move A w v) : v.line.frame = w.line.frame := by
  have cleared (w : Work) : w.queuedCleared.line.frame = w.line.frame := by rw [queuedCleared_line]
  cases m with
  | bus only => rw [only.line]
  | flags n f w only => rfl
  | leave n st a w host without => simp
  | fetch n a w1 w2 w host => rw [Work.release_line]; rfl
  | suspend n w active => rw [Work.release_line]; rfl
  | activate n w ready free running => rfl
  | complete n w waits => rfl
  | count n w wait limit => rfl
  | stopped w stopping free => rfl
  | slotRuns p w held queued => rfl
  | slotRetires p w v held freed => rw [takeNextSlot_line, freed.line]; rfl
  | slotLost p a w v held freed => rw [Work.leaveBlock_line, freed.line]; rfl
  | faulted a w none => simp
  | stray w none => simp
  | queuedFreed w v begun freed => rw [freed.line]; exact cleared w
  | queuedFreedIdle w v why freed => rw [Work.leaveBlock_line, freed.line]; exact cleared w
  | purgeAsked w => rfl

/-! ## The slots, the pending list and lane 3 -/

/-- The FILLING slot is `g`, and the QUEUED and RUNNING slots are the pending ones. -/
structure Work.SlotsAgree (g : Option SlotNo) (w : Work) : Prop where
  filling : ∀ k, w.slotOf k = .filling ↔ g = some k
  pending : ∀ k, (w.slotOf k = .queued ∨ w.slotOf k = .running) ↔ k ∈ w.line.pendingSlots.map PendingSlot.slot
  nodup : (w.line.pendingSlots.map PendingSlot.slot).Nodup

/-- The agreement of slots, pending list and lane 3 with `g` for the slot of the open frame, which a close gives up before the
frame ends. -/
structure Work.SpoolOpen (g : Option SlotNo) (w : Work) : Prop extends w.SlotsAgree g where
  running : ∀ k, w.slotOf k = .running →
    w.line.pendingSlots.head?.map PendingSlot.slot = some k ∧ (w.laneOf 3).state.holdsBlock = true
  idle : (w.laneOf 3).state = .idle → w.line.pendingSlots = []
  holding : (w.laneOf 3).state.holdsBlock = true → w.line.pendingSlots ≠ []
  laneThree : (w.laneOf 3).state ≠ .parked ∧ (w.laneOf 3).state ≠ .held

/-- The slot of the frame in assembly. -/
def Work.frameSlot (w : Work) : Option SlotNo := w.line.frame.bind Frame.slot

theorem Work.spoolSound_iff (w : Work) : w.SpoolSound ↔ w.SpoolOpen w.frameSlot := by
  have slot (k : SlotNo) : w.frameSlot = some k ↔ ∃ f, w.line.frame = some f ∧ f.slot = some k := by
    simp [Work.frameSlot, Option.bind_eq_some_iff]
  constructor
  · exact fun h => ⟨⟨fun k => (h.filling k).trans (slot k).symm, h.pending, h.nodup⟩, h.running, h.idle, h.holding, h.laneThree⟩
  · exact fun h => ⟨fun k => (h.filling k).trans (slot k), h.pending, h.nodup, h.running, h.idle, h.holding, h.laneThree⟩

theorem Work.SlotsAgree.congr {g : Option SlotNo} {w v : Work} (h : w.SlotsAgree g) (slots : v.line.slots = w.line.slots)
    (pending : v.line.pendingSlots = w.line.pendingSlots) : v.SlotsAgree g := by
  have slot (k : SlotNo) : v.slotOf k = w.slotOf k := by unfold Work.slotOf; rw [slots]
  exact ⟨fun k => by rw [slot]; exact h.filling k, fun k => by rw [slot, pending]; exact h.pending k,
    by rw [pending]; exact h.nodup⟩

/-- What the agreement reads of lane 3's state is the same. -/
structure LaneState.LikeThree (a b : LaneState) : Prop where
  holds : b.holdsBlock = a.holdsBlock
  idle : b = .idle → a = .idle
  three : a ≠ .parked ∧ a ≠ .held → b ≠ .parked ∧ b ≠ .held

theorem LaneState.LikeThree.ofEq {a b : LaneState} (h : b = a) : LaneState.LikeThree a b := by
  subst h
  exact ⟨rfl, id, id⟩

/-- Two states in which a lane holds a block are alike. -/
theorem LaneState.LikeThree.ofHolds {a b : LaneState} (ha : a.holdsBlock = true) (hb : b.holdsBlock = true) :
    LaneState.LikeThree a b :=
  ⟨hb.trans ha.symm, fun e => by rw [e] at hb; exact (nomatch hb),
    fun _ => ⟨fun e => by rw [e] at hb; exact (nomatch hb), fun e => by rw [e] at hb; exact (nomatch hb)⟩⟩

theorem Work.SpoolOpen.congr {g : Option SlotNo} {w v : Work} (h : w.SpoolOpen g) (slots : v.line.slots = w.line.slots)
    (pending : v.line.pendingSlots = w.line.pendingSlots)
    (state : LaneState.LikeThree (w.laneOf 3).state (v.laneOf 3).state) : v.SpoolOpen g where
  toSlotsAgree := h.toSlotsAgree.congr slots pending
  running k e := by
    unfold Work.slotOf at e
    rw [slots] at e
    rw [pending, state.holds]
    exact h.running k e
  idle e := by rw [pending]; exact h.idle (state.idle e)
  holding e := by rw [pending]; exact h.holding (state.holds ▸ e)
  laneThree := state.three h.laneThree

theorem Work.SpoolOpen.bus {g : Option SlotNo} {w v : Work} (h : w.SpoolOpen g) (only : Work.BusOnly w v) : v.SpoolOpen g :=
  h.congr (by rw [only.line]) (by rw [only.line]) (.ofEq (by rw [only.laneOf]))

theorem Work.SlotsAgree.bus {g : Option SlotNo} {w v : Work} (h : w.SlotsAgree g) (only : Work.BusOnly w v) :
    v.SlotsAgree g := h.congr (by rw [only.line]) (by rw [only.line])

/-- A change of one lane under which what lane 3's agreement reads stays. -/
theorem Work.SpoolOpen.modLane {g : Option SlotNo} {w : Work} (h : w.SpoolOpen g) (n : LaneNo) (f : Lane → Lane)
    (like : n = 3 → LaneState.LikeThree (w.laneOf 3).state (f (w.laneOf 3)).state) : (w.modLane n f).SpoolOpen g := by
  refine h.congr rfl rfl ?_
  rw [Work.laneOf_modLane]
  split
  · next e => subst e; exact like rfl
  · exact .ofEq rfl

theorem Work.SpoolOpen.released {g : Option SlotNo} {w : Work} (h : w.SpoolOpen g) (n : LaneNo) : (w.release n).SpoolOpen g :=
  h.congr (by simp) (by simp) (.ofEq (by simp))

/-- Lane 3 takes the next pending slot where none is RUNNING (R79, R80). -/
theorem Work.SlotsAgree.takeNextSlot {g : Option SlotNo} {w : Work} (h : w.SlotsAgree g) (none : ∀ k, w.slotOf k ≠ .running) :
    (takeNextSlot w).SpoolOpen g := by
  have slot (k : SlotNo) : (Machine.takeNextSlot w).slotOf k = w.slotOf k := by unfold Work.slotOf; rw [takeNextSlot_line]
  refine ⟨h.congr (by simp) (by simp), fun k e => absurd (slot k ▸ e) (none k), ?_, ?_, ?_⟩ <;>
    rw [Work.laneOf_takeNextSlot, if_pos rfl] <;> cases e : w.line.pendingSlots with
    | nil => simp [e, Lane.without, LaneState.holdsBlock]
    | cons p rest => simp [e, Lane.tookSlot, LaneState.holdsBlock]

/-- Lane 3 gives its block up, with no slot RUNNING any more. -/
theorem Work.SlotsAgree.leaveBlock {g : Option SlotNo} {w : Work} (h : w.SlotsAgree g) (none : ∀ k, w.slotOf k ≠ .running)
    {st : LaneState} (a : Addr) (why : st = .faulted ∨ (st = .idle ∧ w.line.pendingSlots = [])) :
    (w.leaveBlock 3 st a).SpoolOpen g := by
  have slot (k : SlotNo) : (w.leaveBlock 3 st a).slotOf k = w.slotOf k := by unfold Work.slotOf; rw [Work.leaveBlock_line]
  refine ⟨h.congr (by simp) (by simp), fun k e => absurd (slot k ▸ e) (none k), ?_, ?_, ?_⟩ <;>
    rw [Work.laneOf_leaveBlock, if_pos rfl] <;> rcases why with rfl | ⟨rfl, empty⟩ <;>
      simp_all [Lane.without, LaneState.holdsBlock]

theorem Work.slotOf_setSlot (w : Work) (k j : SlotNo) (st : SlotState) :
    (w.setSlot k st).slotOf j = if j = k then st else w.slotOf j := by
  unfold Work.slotOf Work.setSlot
  by_cases e : j = k
  · subst e; simp
  · rw [if_neg e]
    exact Vector.getElem_set_ne k.isLt j.isLt (fun x => e (Fin.ext x.symm))

/-- The slot that lane 3 holds is the first pending one. -/
theorem Work.heldSlot_eq_some {w : Work} {p : PendingSlot} :
    w.heldSlot = some p ↔ (w.laneOf 3).state.holdsBlock = true ∧ w.line.pendingSlots.head? = some p := by
  unfold Work.heldSlot
  split <;> simp_all

/-- Lane 3's slot is given up: the rest of the pending list agrees, and no slot is RUNNING any more (R80). -/
theorem Work.SpoolOpen.slotFreed {g : Option SlotNo} {w : Work} (h : w.SpoolOpen g) {p : PendingSlot}
    (held : w.heldSlot = some p) : (w.slotFreed p).SlotsAgree g ∧ ∀ k, (w.slotFreed p).slotOf k ≠ .running := by
  obtain ⟨_, head⟩ := Work.heldSlot_eq_some.mp held
  obtain ⟨rest, list⟩ : ∃ rest, w.line.pendingSlots = p :: rest := by
    cases e : w.line.pendingSlots with
    | nil => simp [e] at head
    | cons q rest => exact ⟨rest, by rw [e] at head; simpa using head⟩
  have slot (k : SlotNo) : (w.slotFreed p).slotOf k = if k = p.slot then .free else w.slotOf k := Work.slotOf_setSlot _ _ _ _
  have list' : (w.slotFreed p).line.pendingSlots = rest := by simp [Work.slotFreed, Work.setSlot, list]
  have nodup := h.nodup
  rw [list, List.map_cons, List.nodup_cons] at nodup
  have pended := (h.pending p.slot).mpr (by simp [list])
  refine ⟨⟨fun k => ?_, fun k => ?_, by rw [list']; exact nodup.2⟩, fun k e => ?_⟩ <;> rw [slot] at *
  · by_cases e : k = p.slot
    · rw [if_pos e, ← h.filling, e]
      rcases pended with q | q <;> simp [q]
    · rw [if_neg e, h.filling]
  · rw [list']
    by_cases e : k = p.slot
    · simpa [e] using nodup.1
    · rw [if_neg e, h.pending, list, List.map_cons, List.mem_cons]
      simp [e]
  · by_cases same : k = p.slot
    · simp [same] at e
    · rw [if_neg same] at e
      obtain ⟨first, _⟩ := h.running k e
      rw [head] at first
      exact same (by simpa using first.symm)

/-- A slot after the QUEUED ones are cleared. -/
theorem Work.slotOf_queuedCleared {g : Option SlotNo} {w : Work} (h : w.SlotsAgree g) (k : SlotNo) :
    w.queuedCleared.slotOf k = if w.slotOf k = .queued then .free else w.slotOf k := by
  have fold : ∀ (l : List PendingSlot) (v : Work), (l.foldl (fun w p => w.setSlot p.slot .free) v).slotOf k =
      if k ∈ l.map PendingSlot.slot then .free else v.slotOf k := by
    intro l
    induction l with
    | nil => simp
    | cons p rest ih =>
      intro v
      rw [List.foldl_cons, ih, Work.slotOf_setSlot]
      by_cases e : k = p.slot <;> simp [e]
  have member : k ∈ w.queuedSlots.map PendingSlot.slot ↔ w.slotOf k = .queued := by
    simp only [Work.queuedSlots, List.mem_map, List.mem_filter, decide_eq_true_eq]
    constructor
    · rintro ⟨p, ⟨_, queued⟩, rfl⟩; exact queued
    · intro queued
      obtain ⟨p, mem, rfl⟩ := List.mem_map.mp ((h.pending k).mp (.inl queued))
      exact ⟨p, ⟨mem, queued⟩, rfl⟩
  refine (fold _ _).trans ?_
  simp only [member]
  rfl

theorem Work.SlotsAgree.queuedCleared {g : Option SlotNo} {w : Work} (h : w.SlotsAgree g) : w.queuedCleared.SlotsAgree g := by
  have list : w.queuedCleared.line.pendingSlots = w.line.pendingSlots.filter fun p => w.slotOf p.slot ≠ .queued := by
    rw [queuedCleared_line]
  refine ⟨fun k => ?_, fun k => ?_, ?_⟩
  · rw [Work.slotOf_queuedCleared h, ← h.filling]
    split <;> simp_all
  · rw [Work.slotOf_queuedCleared h, list]
    have member : k ∈ (w.line.pendingSlots.filter fun p => w.slotOf p.slot ≠ .queued).map PendingSlot.slot ↔
        k ∈ w.line.pendingSlots.map PendingSlot.slot ∧ w.slotOf k ≠ .queued := by
      simp only [List.mem_map, List.mem_filter, decide_eq_true_eq]
      constructor
      · rintro ⟨p, ⟨mem, ne⟩, rfl⟩; exact ⟨⟨p, mem, rfl⟩, ne⟩
      · rintro ⟨⟨p, mem, rfl⟩, ne⟩; exact ⟨p, ⟨mem, ne⟩, rfl⟩
    rw [member, ← h.pending]
    split <;> simp_all
  · rw [list]
    exact h.nodup.sublist (List.Sublist.map _ List.filter_sublist)

theorem Work.lane3NotBegun_eq_false {w : Work} :
    w.lane3NotBegun = false ↔ ∀ p, w.heldSlot = some p → w.slotOf p.slot ≠ .queued := by
  unfold Work.lane3NotBegun
  cases w.heldSlot <;> simp

theorem Work.lane3NotBegun_eq_true {w : Work} :
    w.lane3NotBegun = true ↔ ∃ p, w.heldSlot = some p ∧ w.slotOf p.slot = .queued := by
  unfold Work.lane3NotBegun
  cases w.heldSlot <;> simp

/-- The QUEUED slots are freed where lane 3 has begun its slot or holds none (R81, R153). -/
theorem Work.SpoolOpen.queuedCleared {g : Option SlotNo} {w : Work} (h : w.SpoolOpen g) (begun : w.lane3NotBegun = false) :
    w.queuedCleared.SpoolOpen g := by
  have lane := queuedCleared_laneOf w 3
  have list : w.queuedCleared.line.pendingSlots = w.line.pendingSlots.filter fun p => w.slotOf p.slot ≠ .queued := by
    rw [queuedCleared_line]
  have head {p : PendingSlot} (held : w.heldSlot = some p) : w.queuedCleared.line.pendingSlots.head? = some p := by
    obtain ⟨_, first⟩ := Work.heldSlot_eq_some.mp held
    cases e : w.line.pendingSlots with
    | nil => simp [e] at first
    | cons q rest =>
      obtain rfl : q = p := by simpa [e] using first
      have keep := Work.lane3NotBegun_eq_false.mp begun q held
      rw [list, e, List.filter_cons_of_pos (by simpa using keep)]
      rfl
  refine ⟨h.toSlotsAgree.queuedCleared, fun k e => ?_, fun e => ?_, fun e => ?_, by rw [lane]; exact h.laneThree⟩
  · rw [Work.slotOf_queuedCleared h.toSlotsAgree] at e
    split at e
    · cases e
    · obtain ⟨first, holds⟩ := h.running k e
      obtain ⟨p, first, same⟩ := Option.map_eq_some_iff.mp first
      rw [lane, head (Work.heldSlot_eq_some.mpr ⟨holds, first⟩)]
      exact ⟨by simp [same], holds⟩
  · rw [list, h.idle (lane ▸ e)]
    rfl
  · rw [lane] at e
    intro empty
    have some := h.holding e
    cases first : w.line.pendingSlots with
    | nil => exact some first
    | cons q rest =>
      have held := head (Work.heldSlot_eq_some.mpr ⟨e, by rw [first]; rfl⟩)
      rw [empty] at held
      cases held

/-- Lane 3 had not begun its slot or is FAULTED: no slot is RUNNING, and none is left when the QUEUED ones are cleared. -/
theorem Work.SpoolOpen.queuedCleared_all {g : Option SlotNo} {w : Work} (h : w.SpoolOpen g)
    (why : w.lane3NotBegun = true ∨ (w.laneOf 3).state = .faulted) :
    w.queuedCleared.line.pendingSlots = [] ∧ ∀ k, w.queuedCleared.slotOf k ≠ .running := by
  have none (k : SlotNo) (e : w.slotOf k = .running) : False := by
    obtain ⟨first, holds⟩ := h.running k e
    rcases why with begun | faulted
    · obtain ⟨p, held, queued⟩ := Work.lane3NotBegun_eq_true.mp begun
      rw [(Work.heldSlot_eq_some.mp held).2] at first
      rw [show p.slot = k by simpa using first, e] at queued
      cases queued
    · rw [faulted] at holds
      cases holds
  refine ⟨?_, fun k e => ?_⟩
  · rw [queuedCleared_line]
    refine List.filter_eq_nil_iff.mpr fun p mem => ?_
    have pended := (h.pending p.slot).mpr (List.mem_map.mpr ⟨p, mem, rfl⟩)
    rcases pended with queued | running
    · simp [queued]
    · exact (none _ running).elim
  · rw [Work.slotOf_queuedCleared h.toSlotsAgree] at e
    split at e
    · cases e
    · exact none k e

/-- No slot is RUNNING where lane 3 holds none. -/
theorem Work.SpoolOpen.none_running {g : Option SlotNo} {w : Work} (h : w.SpoolOpen g) (none : w.heldSlot = none)
    (k : SlotNo) : w.slotOf k ≠ .running := by
  intro e
  obtain ⟨first, holds⟩ := h.running k e
  obtain ⟨p, first, _⟩ := Option.map_eq_some_iff.mp first
  rw [Work.heldSlot_eq_some.mpr ⟨holds, first⟩] at none
  cases none

/-- The slot that lane 3 holds begins (R79). -/
theorem Work.SpoolOpen.slotRuns {g : Option SlotNo} {w : Work} (h : w.SpoolOpen g) {p : PendingSlot}
    (held : w.heldSlot = some p) (queued : w.slotOf p.slot = .queued) : (w.setSlot p.slot .running).SpoolOpen g := by
  obtain ⟨holds, head⟩ := Work.heldSlot_eq_some.mp held
  have lane : (w.setSlot p.slot .running).laneOf 3 = w.laneOf 3 := rfl
  have list : (w.setSlot p.slot .running).line.pendingSlots = w.line.pendingSlots := rfl
  refine ⟨⟨fun k => ?_, fun k => ?_, h.nodup⟩, fun k e => ?_, h.idle, h.holding, h.laneThree⟩
  · rw [Work.slotOf_setSlot, ← h.filling]
    split
    · next e => simp [e, queued]
    · rfl
  · rw [Work.slotOf_setSlot, list, ← h.pending]
    split
    · next e => simp [e, queued]
    · rfl
  · rw [lane, list]
    rw [Work.slotOf_setSlot] at e
    split at e
    · next same => exact ⟨by rw [head, same]; rfl, holds⟩
    · exact h.running k e

/-- A move keeps the agreement of slots, pending list and lane 3. -/
theorem Work.Move.spoolOpen {g : Option SlotNo} {w v : Work} (m : Work.Move A w v) (a : A) (h : w.SpoolOpen g) :
    v.SpoolOpen g := by
  cases m with
  | bus only => exact h.bus only
  | flags n f w only => exact h.modLane n f fun _ => .ofEq (only _).1
  | leave n st a w host without =>
    rw [leaveBlock_eq]
    exact (h.modLane n _ fun e => absurd e host).released n
  | fetch n a w1 w2 w host => exact (h.modLane n _ fun e => absurd e host).released n
  | suspend n w active =>
    exact (h.modLane n _ fun e => .ofHolds (by subst e; rw [active a]; rfl) rfl).released n
  | activate n w ready free running =>
    have modded := h.modLane n (fun l => { l with state := .active }) fun e => .ofHolds (by subst e; rw [ready]; rfl) rfl
    exact modded.congr rfl rfl (.ofEq rfl)
  | complete n w waits =>
    exact h.modLane n _ fun e => .ofHolds (by subst e; rcases waits with e | e <;> rw [e] <;> rfl) rfl
  | count n w wait limit => exact h.modLane n _ fun _ => .ofEq (Lane.countTick_state _)
  | stopped w stopping free => exact h.congr rfl rfl (.ofEq rfl)
  | slotRuns p w held queued => exact h.slotRuns held queued
  | slotRetires p w v held freed =>
    obtain ⟨agree, none⟩ := h.slotFreed held
    exact (agree.bus freed).takeNextSlot fun k => by rw [freed.slotOf]; exact none k
  | slotLost p a w v held freed =>
    obtain ⟨agree, none⟩ := h.slotFreed held
    exact (agree.bus freed).leaveBlock (fun k => by rw [freed.slotOf]; exact none k) a (.inl rfl)
  | faulted a w none => exact h.toSlotsAgree.leaveBlock (h.none_running none) a (.inl rfl)
  | stray w none =>
    exact h.toSlotsAgree.takeNextSlot (h.none_running none)
  | queuedFreed w v begun freed => exact (h.queuedCleared begun).bus freed
  | queuedFreedIdle w v why freed =>
    obtain ⟨empty, none⟩ := h.queuedCleared_all why
    exact (h.toSlotsAgree.queuedCleared.bus freed).leaveBlock (fun k => by rw [freed.slotOf]; exact none k) 0
      (.inr ⟨rfl, by rw [freed.line]; exact empty⟩)
  | purgeAsked w => exact h.congr rfl rfl (.ofEq rfl)

end

end Sys2Proof.Machine

/-! The ranges of the lanes and the line under the moves of the lane unit, and the acts of the line receiver inside a frame: what
they are, and what they keep. -/

namespace Sys2Proof.Machine

/-! ## The ranges of one lane -/

/-- The fields of a lane are in their ranges. -/
structure Lane.Ranged (l : Lane) : Prop where
  context : l.context.Legal
  inHand : ∀ r, l.progress.inHand = some r → r.Legal
  waits : l.state = .waiting → 1 ≤ l.progress.waitCount ∧ l.progress.waitCount ≤ 65535
  limits : ∀ k, l.state = .draining → l.progress.limit = some k → 1 ≤ k ∧ k ≤ 65535
  progress : l.ProgressLegal

/-- Flags, counts and the owed point are in no range. -/
theorem Lane.Ranged.congr {l m : Lane} (h : l.Ranged) (state : m.state = l.state) (context : m.context = l.context)
    (progress : m.progress = { l.progress with pointOwed := m.progress.pointOwed }) : m.Ranged where
  context := by rw [context]; exact h.context
  inHand := by rw [progress]; exact h.inHand
  waits := by rw [state, progress]; exact h.waits
  limits := by rw [state, progress]; exact h.limits
  progress := by
    obtain ⟨owed, progress⟩ : ∃ b, m.progress = { l.progress with pointOwed := b } := ⟨_, progress⟩
    obtain ⟨cells, body, nextWord, ordinal, stopped⟩ := h.progress
    constructor <;> simpa only [state, progress]

/-- A lane in a state that is neither WAITING nor DRAINING. -/
structure LaneState.Going (st : LaneState) : Prop where
  waits : st ≠ .waiting
  drains : st ≠ .draining

theorem LaneState.going_of_not_holds {st : LaneState} (h : st.holdsBlock = false) : st.Going :=
  ⟨fun e => by simp [e, LaneState.holdsBlock] at h, fun e => by simp [e, LaneState.holdsBlock] at h⟩

theorem LaneState.going_ready : LaneState.Going .ready := ⟨nofun, nofun⟩

theorem LaneState.going_active : LaneState.Going .active := ⟨nofun, nofun⟩

/-- A lane goes on with its block in a state that is neither WAITING nor DRAINING. -/
theorem Lane.Ranged.goesOn {l m : Lane} (h : l.Ranged) (going : m.state.Going) (context : m.context = l.context)
    (progress : m.progress = { l.progress with pointOwed := m.progress.pointOwed }) : m.Ranged := by
  have notWaits := going.waits
  have notDrains := going.drains
  refine ⟨by rw [context]; exact h.context, by rw [progress]; exact h.inHand, fun e => absurd e notWaits,
    fun k e => absurd e notDrains, ?_⟩
  obtain ⟨cells, body, nextWord, ordinal, stopped⟩ := h.progress
  refine ⟨by rw [progress]; exact cells, by rw [progress]; exact body, by rw [progress]; exact nextWord, ?_,
    fun e => e.elim (absurd · notWaits) (absurd · notDrains)⟩
  rw [progress]
  dsimp only
  split
  · next some =>
    rw [if_pos (.inl (some.resolve_right fun e => e.elim notWaits notDrains))] at ordinal
    exact ordinal
  · omega

/-- A lane that begins a block of at most 1,023 words, or holds none. -/
theorem Lane.Ranged.begins {m : Lane} (context : m.context.Legal) (going : m.state.Going) (body : m.progress.bodyLength ≤ 1023)
    (none : m.progress.inHand = none) (ordinal : m.progress.ordinal = 0) (cells : m.progress.cells = 0)
    (word : m.progress.nextWord = 0) : m.Ranged := by
  refine ⟨context, fun r e => by simp [none] at e, fun e => absurd e going.waits, fun k e => absurd e going.drains, ?_⟩
  refine ⟨by omega, body, by omega, ?_, fun e => none⟩
  have no : ¬(m.progress.inHand.isSome = true ∨ m.state = .waiting ∨ m.state = .draining) := by
    rintro (e | e | e)
    · rw [none] at e; cases e
    · exact going.waits e
    · exact going.drains e
  rw [if_neg no]
  omega

theorem Lane.Ranged.without {l : Lane} (h : l.Ranged) {st : LaneState} (holds : st.holdsBlock = false) (a : Addr) :
    (l.without st a).Ranged :=
  .begins h.context (LaneState.going_of_not_holds holds) (by simp [Lane.without, Progress.none]) rfl rfl rfl rfl

theorem Context.defaults_legal : Context.defaults.Legal := by
  refine ⟨?_, ?_, ?_, ?_, .inl rfl⟩ <;> decide

theorem Lane.Ranged.fetched {l : Lane} (h : l.Ranged) (a : Addr) (w1 w2 : Word) : (l.fetched a w1 w2).Ranged := by
  refine .begins ?_ LaneState.going_ready ?_ rfl rfl rfl rfl
  · unfold Lane.fetched
    dsimp only
    split
    · exact Context.defaults_legal
    · exact h.context
  · have := (w2.extractLsb' 0 10).isLt
    simp only [Lane.fetched, Progress.start]
    omega

theorem Lane.Ranged.tookSlot {l : Lane} (h : l.Ranged) (a : Addr) {octets : Nat} (fits : octets ≤ 1008) :
    (l.tookSlot a octets).Ranged := by
  refine .begins h.context LaneState.going_ready ?_ rfl rfl rfl rfl
  simp only [Lane.tookSlot, Progress.start]
  omega

/-- A WAIT or DRAIN is complete: its record was one word of the body at least (R64, R65). -/
theorem Lane.Ranged.waited {l : Lane} (h : l.Ranged) (waits : l.state = .waiting ∨ l.state = .draining) : l.waited.Ranged := by
  obtain ⟨cells, body, nextWord, ordinal, stopped⟩ := h.progress
  have none := stopped waits
  rw [if_pos (.inr waits)] at ordinal
  refine ⟨h.context, h.inHand, nofun, nofun, cells, body, nextWord, ?_, nofun⟩
  simp only [Lane.waited, none, Option.isSome_none, Bool.false_eq_true, reduceCtorEq, or_self, if_false]
  omega

/-- A counted tick that ends nothing (R64, R65). -/
theorem Lane.Ranged.countTick {l : Lane} (h : l.Ranged) (wait : l.state = .waiting → 1 < l.progress.waitCount)
    (limit : ∀ k, l.state = .draining → l.progress.limit = some k → 1 < k) : l.countTick.Ranged := by
  obtain ⟨cells, body, nextWord, ordinal, stopped⟩ := h.progress
  unfold Lane.countTick
  split
  · next e =>
    have := wait e
    have := h.waits e
    exact ⟨h.context, h.inHand, fun _ => by dsimp only; omega, h.limits, cells, body, nextWord, ordinal, stopped⟩
  · next e =>
    refine ⟨h.context, h.inHand, h.waits, fun k _ some => ?_, cells, body, nextWord, ordinal, stopped⟩
    obtain ⟨j, was, rfl⟩ := Option.map_eq_some_iff.mp some
    have := limit j e was
    have := h.limits j e was
    omega
  all_goals exact h

/-! ## The ranges of the lanes and the line -/

/-- The lanes, the spool, the frame in assembly and the pending slots are in their ranges. -/
structure Work.Ranged (w : Work) : Prop where
  lanes : ∀ n, (w.laneOf n).Ranged
  spool : ∀ sp, w.line.spool = some sp → sp.Legal
  frame : ∀ f, w.line.frame = some f → f.slot.isSome → f.Legal w.crcOctets w.payloadRoom
  pendingSlots : ∀ p ∈ w.line.pendingSlots, p.octets % 2 = 0 ∧ p.octets ≤ w.payloadRoom

/-- A slot of a legal spool holds at most 1008 payload octets (R142, R154). -/
theorem Work.Ranged.room {w : Work} (h : w.Ranged) : w.payloadRoom ≤ 1008 := by
  unfold Work.payloadRoom
  split
  · next sp e =>
    obtain ⟨_, _, _, _, size, _⟩ := h.spool sp e
    omega
  · omega

theorem Work.payloadRoom_congr {w v : Work} (h : v.line.spool = w.line.spool) : v.payloadRoom = w.payloadRoom := by
  unfold Work.payloadRoom
  rw [h]

theorem Work.crcOctets_congr {w v : Work} (h : v.line.settings = w.line.settings) : v.crcOctets = w.crcOctets := by
  unfold Work.crcOctets
  rw [h]

/-- Lanes in their ranges, with a line of the same spool, settings and frame and no new pending slot. -/
theorem Work.Ranged.congr {w v : Work} (h : w.Ranged) (lanes : ∀ n, (v.laneOf n).Ranged)
    (spool : v.line.spool = w.line.spool) (settings : v.line.settings = w.line.settings)
    (frame : v.line.frame = w.line.frame) (pending : ∀ p ∈ v.line.pendingSlots, p ∈ w.line.pendingSlots) : v.Ranged where
  lanes := lanes
  spool := by rw [spool]; exact h.spool
  frame := by rw [frame, Work.crcOctets_congr settings, Work.payloadRoom_congr spool]; exact h.frame
  pendingSlots p mem := by rw [Work.payloadRoom_congr spool]; exact h.pendingSlots p (pending p mem)

theorem Work.Ranged.line {w v : Work} (h : w.Ranged) (lanes : ∀ n, (v.laneOf n).Ranged) (line : v.line = w.line) :
    v.Ranged :=
  h.congr lanes (by rw [line]) (by rw [line]) (by rw [line]) (by rw [line]; exact fun _ => id)

theorem Work.Ranged.bus {w v : Work} (h : w.Ranged) (only : Work.BusOnly w v) : v.Ranged :=
  h.line (fun n => by rw [only.laneOf]; exact h.lanes n) only.line

theorem Work.Ranged.modLane {w : Work} (h : w.Ranged) (n : LaneNo) (f : Lane → Lane) (legal : (f (w.laneOf n)).Ranged) :
    (w.modLane n f).Ranged := by
  refine h.line (fun m => ?_) rfl
  rw [Work.laneOf_modLane]
  split
  · exact legal
  · exact h.lanes m

theorem Work.Ranged.released {w : Work} (h : w.Ranged) (n : LaneNo) : (w.release n).Ranged :=
  h.line (fun m => by rw [Work.laneOf_release]; exact h.lanes m) (by simp)

theorem Work.Ranged.leaveBlock {w : Work} (h : w.Ranged) (n : LaneNo) {st : LaneState} (holds : st.holdsBlock = false)
    (a : Addr) : (w.leaveBlock n st a).Ranged := by
  rw [leaveBlock_eq]
  exact (h.modLane n _ ((h.lanes n).without holds a)).released n

theorem Work.Ranged.takeNextSlot {w : Work} (h : w.Ranged) : (takeNextSlot w).Ranged := by
  refine h.line (fun m => ?_) (by simp)
  rw [Work.laneOf_takeNextSlot]
  split
  · split
    · next p head =>
      obtain ⟨_, fits⟩ := h.pendingSlots p (List.mem_of_mem_head? head)
      exact (h.lanes 3).tookSlot _ (fits.trans h.room)
    · exact (h.lanes 3).without rfl 0
  · exact h.lanes m

theorem Work.Ranged.slotFreed {w : Work} (h : w.Ranged) (p : PendingSlot) : (w.slotFreed p).Ranged :=
  h.congr h.lanes rfl rfl rfl fun _ mem => List.mem_of_mem_tail mem

theorem Work.Ranged.queuedCleared {w : Work} (h : w.Ranged) : w.queuedCleared.Ranged := by
  refine h.congr (fun n => by rw [queuedCleared_laneOf]; exact h.lanes n) ?_ ?_ ?_ ?_ <;> rw [queuedCleared_line]
  exact fun p mem => (List.mem_filter.mp mem).1

section

variable {A : Prop}

theorem Work.Move.ranged {w v : Work} (m : Work.Move A w v) (h : w.Ranged) : v.Ranged := by
  cases m with
  | bus only => exact h.bus only
  | flags n f w only =>
    obtain ⟨state, context, progress⟩ := only (w.laneOf n)
    exact h.modLane n f ((h.lanes n).congr state context progress)
  | leave n st a w host without => exact h.leaveBlock n without a
  | fetch n a w1 w2 w host => exact (h.modLane n _ ((h.lanes n).fetched a w1 w2)).released n
  | suspend n w active => exact (h.modLane n _ ((h.lanes n).goesOn LaneState.going_ready rfl rfl)).released n
  | activate n w ready free running =>
    have modded := h.modLane n (fun l => { l with state := .active }) ((h.lanes n).goesOn LaneState.going_active rfl rfl)
    exact modded.line modded.lanes rfl
  | complete n w waits => exact h.modLane n _ ((h.lanes n).waited waits)
  | count n w wait limit =>
    refine h.modLane n _ ((h.lanes n).countTick (fun e => ?_) fun k e some => ?_)
    · simpa [Work.waitRunsOut, e] using wait
    · simpa [Work.limitRunsOut, e, some] using limit
  | stopped w stopping free => exact h.line h.lanes rfl
  | slotRuns p w held queued => exact h.congr h.lanes rfl rfl rfl fun _ => id
  | slotRetires p w v held freed => exact ((h.slotFreed p).bus freed).takeNextSlot
  | slotLost p a w v held freed => exact ((h.slotFreed p).bus freed).leaveBlock 3 rfl a
  | faulted a w none => exact h.leaveBlock 3 rfl a
  | stray w none => exact h.takeNextSlot
  | queuedFreed w v begun freed => exact h.queuedCleared.bus freed
  | queuedFreedIdle w v why freed => exact (h.queuedCleared.bus freed).leaveBlock 3 rfl 0
  | purgeAsked w => exact h.congr h.lanes rfl rfl rfl fun _ => id

end

/-! ## The acts of the receiver inside a frame -/

/-- Counts, the expected sequence and the marks that no invariant reads: the rest of the receiver is as it was. -/
structure LineReceiver.Aside (l m : LineReceiver) : Prop where
  state : m.state = l.state
  window : m.window = l.window
  zeros : m.zeros = l.zeros
  octetBits : m.octetBits = l.octetBits
  buffer : m.buffer = l.buffer
  frame : m.frame = l.frame
  slots : m.slots = l.slots
  pendingSlots : m.pendingSlots = l.pendingSlots
  spool : m.spool = l.spool
  settings : m.settings = l.settings
  breakFlag : m.breakFlag = l.breakFlag

/-- Slot `k` is QUEUED and the last pending one (R78, R151). -/
def Work.slotPended (k : SlotNo) (octets : Nat) (w : Work) : Work :=
  { w.setSlot k .queued with line :=
    { (w.setSlot k .queued).line with pendingSlots := w.line.pendingSlots ++ [{ slot := k, octets := octets }] } }

/-- Lane 3 takes the next pending slot at once if it is IDLE (R79). -/
def Work.slotOffered (w : Work) : Work := if (w.laneOf 3).state = .idle then takeNextSlot w else w

/-- One act of the receiver or the lane unit while the line state stays; the FILLING slot is the first argument before it and
the third after it. -/
inductive Work.Act (A : Prop) : Option SlotNo → Work → Option SlotNo → Work → Prop
  | move {w v : Work} (g : Option SlotNo) (m : Work.Move A w v) : Act A g w g v
  | aside (g : Option SlotNo) (w : Work) (l : LineReceiver) (only : LineReceiver.Aside w.line l) :
    Act A g w g { w with line := l }
  | skipped (g : Option SlotNo) (w : Work) : Act A g w g (skipFrame w)
  | octet (g : Option SlotNo) (w : Work) (f f' : Frame) (frame : w.line.frame = some f) (slot : f'.slot = f.slot)
    (legal : w.Ranged → f.slot.isSome → f'.Legal w.crcOctets w.payloadRoom) :
    Act A g w g (w.withFrame f')
  | taken (k : SlotNo) (w : Work) (free : w.slotOf k = .free) : Act A none w (some k) (w.setSlot k .filling)
  | returned (g : Option SlotNo) (k : SlotNo) (w : Work) (passed : w.slotOf k = .passed) : Act A g w g (w.setSlot k .free)
  | dropped (k : SlotNo) (w : Work) : Act A (some k) w none (w.setSlot k .free)
  | passed (k : SlotNo) (w : Work) : Act A (some k) w none (w.setSlot k .passed)
  | queued (k : SlotNo) (octets : Nat) (w v : Work) (pended : Work.BusOnly (w.slotPended k octets) v) (even : octets % 2 = 0)
    (fits : w.Ranged → octets ≤ w.payloadRoom) : Act A (some k) w none v.slotOffered

/-- A run of acts. -/
inductive Work.Acts (A : Prop) : Option SlotNo → Work → Option SlotNo → Work → Prop
  | refl (g : Option SlotNo) (w : Work) : Acts A g w g w
  | tail {g h i : Option SlotNo} {w u v : Work} (first : Acts A g w h u) (last : Work.Act A h u i v) : Acts A g w i v

section

variable {A : Prop}

theorem Work.Act.acts {g h : Option SlotNo} {w v : Work} (a : Work.Act A g w h v) : Work.Acts A g w h v := .tail (.refl g w) a

theorem Work.Acts.trans {g h i : Option SlotNo} {w u v : Work} (first : Work.Acts A g w h u) (last : Work.Acts A h u i v) :
    Work.Acts A g w i v := by
  induction last with
  | refl => exact first
  | tail _ act ih => exact .tail (ih first) act

theorem Work.Moves.acts {w v : Work} (m : Work.Moves A w v) (g : Option SlotNo) : Work.Acts A g w g v := by
  induction m with
  | refl => exact .refl g w
  | tail _ last ih => exact .tail ih (.move g last)

theorem Work.BusOnly.acts {w v : Work} (h : Work.BusOnly w v) (g : Option SlotNo) : Work.Acts A g w g v := h.moves.acts g

/-- What every act keeps, a run of acts keeps. -/
theorem Work.Acts.keeps {J : Option SlotNo → Work → Prop}
    (keep : ∀ g w h v, Work.Act A g w h v → J g w → J h v) {g h : Option SlotNo} {w v : Work} (acts : Work.Acts A g w h v)
    (j : J g w) : J h v := by
  induction acts with
  | refl => exact j
  | tail _ last ih => exact keep _ _ _ _ last (ih j)

theorem Work.slotOffered_lineStays (w : Work) : Work.LineStays w w.slotOffered := by
  unfold Work.slotOffered
  split
  · exact w.takeNextSlot_lineStays
  · exact .refl w

theorem Work.Act.lineStays {g h : Option SlotNo} {w v : Work} (a : Work.Act A g w h v) : Work.LineStays w v := by
  cases a with
  | move g m => exact m.lineStays
  | aside g w l only =>
    exact ⟨only.state, congrArg Option.isSome only.frame, only.breakFlag, only.window, only.octetBits, only.buffer, only.zeros,
      only.settings, only.spool, rfl, .inl rfl⟩
  | skipped g w => exact ⟨rfl, by simp [skipFrame], rfl, rfl, rfl, rfl, rfl, rfl, rfl, rfl, .inl rfl⟩
  | octet g w f f' frame slot legal => exact ⟨rfl, by simp [frame], rfl, rfl, rfl, rfl, rfl, rfl, rfl, rfl, .inl rfl⟩
  | taken k w free => exact w.setSlot_lineStays k _
  | returned g k w passed => exact w.setSlot_lineStays k _
  | dropped k w => exact w.setSlot_lineStays k _
  | passed k w => exact w.setSlot_lineStays k _
  | queued k octets w v pended even fits =>
    have queued : Work.LineStays w (w.slotPended k octets) := .ofLine _ _ _ rfl rfl
    exact (queued.trans pended.lineStays).trans v.slotOffered_lineStays

theorem Work.OneActive.slotOffered {w : Work} (h : w.OneActive) : w.slotOffered.OneActive := by
  unfold Work.slotOffered
  split
  · exact h.takeNextSlot
  · exact h

theorem Work.Act.oneActive {g h : Option SlotNo} {w v : Work} (a : Work.Act A g w h v) (one : w.OneActive) : v.OneActive := by
  cases a with
  | move g m => exact m.oneActive one
  | aside g w l only => exact one.congr rfl rfl
  | skipped g w => exact one.congr rfl rfl
  | octet g w f f' frame slot legal => exact one.congr rfl rfl
  | taken k w free => exact one.congr rfl rfl
  | returned g k w passed => exact one.congr rfl rfl
  | dropped k w => exact one.congr rfl rfl
  | passed k w => exact one.congr rfl rfl
  | queued k octets w v pended even fits =>
    exact (one.congr pended.lanes (congrArg Port.engine pended.port)).slotOffered

/-- A lane that waits in a DRAIN after an act did so before. -/
theorem Work.Act.draining {g h : Option SlotNo} {w v : Work} (a : Work.Act A g w h v) (n : LaneNo)
    (e : (v.laneOf n).state = .draining) : (w.laneOf n).state = .draining := by
  cases a with
  | move g m => exact m.draining n e
  | aside g w l only => exact e
  | skipped g w => exact e
  | octet g w f f' frame slot legal => exact e
  | taken k w free => exact e
  | returned g k w passed => exact e
  | dropped k w => exact e
  | passed k w => exact e
  | queued k octets w v pended even fits =>
    have was : (v.laneOf n).state = .draining := by
      unfold Work.slotOffered at e
      split at e
      · rw [Work.laneOf_takeNextSlot] at e
        split at e
        · split at e <;> simp [Lane.tookSlot, Lane.without] at e
        · exact e
      · exact e
    rw [pended.laneOf] at was
    exact was

/-- The FILLING slot takes another state that is not in the pending list. -/
theorem Work.SpoolOpen.slotLeft {k : SlotNo} {w : Work} (h : w.SpoolOpen (some k)) {st : SlotState}
    (aside : st ≠ .filling ∧ st ≠ .queued ∧ st ≠ .running) : (w.setSlot k st).SpoolOpen none := by
  have filling := (h.filling k).mpr rfl
  obtain ⟨notFilling, notQueued, notRunning⟩ := aside
  refine ⟨⟨fun j => ?_, fun j => ?_, h.nodup⟩, fun j e => ?_, h.idle, h.holding, h.laneThree⟩
  · rw [Work.slotOf_setSlot]
    split
    · simp [notFilling]
    · next ne => rw [h.filling]; simpa using Ne.symm ne
  · rw [Work.slotOf_setSlot]
    refine Iff.trans ?_ (h.pending j)
    split
    · next e => simp [e, filling, notQueued, notRunning]
    · rfl
  · rw [Work.slotOf_setSlot] at e
    split at e
    · exact absurd e notRunning
    · exact h.running j e

/-- A FREE slot becomes the FILLING one (R141). -/
theorem Work.SpoolOpen.slotTaken {k : SlotNo} {w : Work} (h : w.SpoolOpen none) (free : w.slotOf k = .free) :
    (w.setSlot k .filling).SpoolOpen (some k) := by
  refine ⟨⟨fun j => ?_, fun j => ?_, h.nodup⟩, fun j e => ?_, h.idle, h.holding, h.laneThree⟩
  · rw [Work.slotOf_setSlot]
    split
    · next e => simp [e]
    · next ne => rw [h.filling]; simpa using Ne.symm ne
  · rw [Work.slotOf_setSlot]
    refine Iff.trans ?_ (h.pending j)
    split
    · next e => simp [e, free]
    · rfl
  · rw [Work.slotOf_setSlot] at e
    split at e
    · cases e
    · exact h.running j e

/-- A PASSED slot becomes FREE (R152). -/
theorem Work.SpoolOpen.slotReturned {g : Option SlotNo} {k : SlotNo} {w : Work} (h : w.SpoolOpen g)
    (passed : w.slotOf k = .passed) : (w.setSlot k .free).SpoolOpen g := by
  refine ⟨⟨fun j => ?_, fun j => ?_, h.nodup⟩, fun j e => ?_, h.idle, h.holding, h.laneThree⟩
  · rw [Work.slotOf_setSlot]
    refine Iff.trans ?_ (h.filling j)
    split
    · next e => simp [e, passed]
    · rfl
  · rw [Work.slotOf_setSlot]
    refine Iff.trans ?_ (h.pending j)
    split
    · next e => simp [e, passed]
    · rfl
  · rw [Work.slotOf_setSlot] at e
    split at e
    · cases e
    · exact h.running j e

/-- The FILLING slot becomes QUEUED and the last pending one, and lane 3 takes the next slot if it is IDLE (R79, R151). -/
theorem Work.SpoolOpen.slotQueued {k : SlotNo} {octets : Nat} {w v : Work} (h : w.SpoolOpen (some k))
    (pended : Work.BusOnly (w.slotPended k octets) v) : v.slotOffered.SpoolOpen none := by
  have filling := (h.filling k).mpr rfl
  have slot (j : SlotNo) : v.slotOf j = if j = k then .queued else w.slotOf j :=
    (pended.slotOf j).trans (w.slotOf_setSlot k j .queued)
  have lane : v.laneOf 3 = w.laneOf 3 := pended.laneOf 3
  have list : v.line.pendingSlots = w.line.pendingSlots ++ [{ slot := k, octets := octets }] := by rw [pended.line]; rfl
  have notPending : k ∉ w.line.pendingSlots.map PendingSlot.slot := by
    rw [← h.pending k, filling]
    simp
  have agree : v.SlotsAgree none := by
    refine ⟨fun j => ?_, fun j => ?_, ?_⟩
    · rw [slot]
      split
      · simp
      · next ne => rw [h.filling]; simpa using Ne.symm ne
    · rw [slot, list]
      by_cases e : j = k
      · simp [e]
      · rw [if_neg e, h.pending]
        simp [e]
    · rw [list, List.map_append]
      exact h.nodup.append (List.nodup_singleton _) (by simpa [List.Disjoint] using notPending)
  have running (j : SlotNo) (e : v.slotOf j = .running) :
      w.line.pendingSlots.head?.map PendingSlot.slot = some j ∧ (w.laneOf 3).state.holdsBlock = true := by
    rw [slot] at e
    split at e
    · cases e
    · exact h.running j e
  unfold Work.slotOffered
  split
  · next idle =>
    refine agree.takeNextSlot fun j e => ?_
    obtain ⟨_, holds⟩ := running j e
    rw [← lane, idle] at holds
    cases holds
  · next busy =>
    refine ⟨agree, fun j e => ?_, fun e => absurd e busy, fun _ empty => by simp [list] at empty, lane ▸ h.laneThree⟩
    obtain ⟨first, holds⟩ := running j e
    obtain ⟨p, first, same⟩ := Option.map_eq_some_iff.mp first
    rw [lane, list, List.head?_append, first]
    exact ⟨by simp [same], holds⟩

theorem Work.Act.spoolOpen {g h : Option SlotNo} {w v : Work} (a : Work.Act A g w h v) (ok : A) (spool : w.SpoolOpen g) :
    v.SpoolOpen h := by
  cases a with
  | move g m => exact m.spoolOpen ok spool
  | aside g w l only => exact spool.congr only.slots only.pendingSlots (.ofEq rfl)
  | skipped g w => exact spool.congr rfl rfl (.ofEq rfl)
  | octet g w f f' frame slot legal => exact spool.congr rfl rfl (.ofEq rfl)
  | taken k w free => exact spool.slotTaken free
  | returned g k w passed => exact spool.slotReturned passed
  | dropped k w => exact spool.slotLeft (by simp)
  | passed k w => exact spool.slotLeft (by simp)
  | queued k octets w v pended even fits => exact spool.slotQueued pended

theorem Work.Ranged.slotOffered {w : Work} (h : w.Ranged) : w.slotOffered.Ranged := by
  unfold Work.slotOffered
  split
  · exact h.takeNextSlot
  · exact h

theorem Work.Act.ranged {g h : Option SlotNo} {w v : Work} (a : Work.Act A g w h v) (ranged : w.Ranged) : v.Ranged := by
  cases a with
  | move g m => exact m.ranged ranged
  | aside g w l only =>
    exact ranged.congr ranged.lanes only.spool only.settings only.frame (by rw [only.pendingSlots]; exact fun _ => id)
  | skipped g w =>
    refine ⟨ranged.lanes, ranged.spool, fun f e some => ?_, ranged.pendingSlots⟩
    obtain ⟨f0, _, rfl⟩ := Option.map_eq_some_iff.mp e
    cases some
  | octet g w f f' frame slot legal =>
    refine ⟨ranged.lanes, ranged.spool, fun x e some => ?_, ranged.pendingSlots⟩
    obtain rfl := Option.some.inj e
    rw [slot] at some
    exact legal ranged some
  | taken k w free => exact ranged.congr ranged.lanes rfl rfl rfl fun _ => id
  | returned g k w passed => exact ranged.congr ranged.lanes rfl rfl rfl fun _ => id
  | dropped k w => exact ranged.congr ranged.lanes rfl rfl rfl fun _ => id
  | passed k w => exact ranged.congr ranged.lanes rfl rfl rfl fun _ => id
  | queued k octets w v pended even fits =>
    have room : (w.slotPended k octets).payloadRoom = w.payloadRoom := Work.payloadRoom_congr rfl
    have slot : (w.slotPended k octets).Ranged := ⟨ranged.lanes, ranged.spool, ranged.frame, fun p mem => ?_⟩
    · exact (slot.bus pended).slotOffered
    rw [room]
    rcases List.mem_append.mp mem with mem | mem
    · exact ranged.pendingSlots p mem
    · obtain rfl := List.mem_singleton.mp mem
      exact ⟨even, fits ranged⟩

end

end Sys2Proof.Machine

/-! What the operations of the line receiver do, as runs of acts inside a frame and as changes of the line state between them; and
that each keeps the invariants of the lanes, the line and the ranges. -/

namespace Sys2Proof.Machine

/-! ## Keeping the invariants -/

/-- `v` meets every invariant of this half that `w` met. -/
structure Work.Evolves (w v : Work) : Prop where
  oneActive : w.OneActive → v.OneActive
  lineSound : w.LineSound → v.LineSound
  spool : w.OneActive → w.LineSound → w.SpoolSound → v.SpoolSound
  ranged : w.OneActive → w.LineSound → w.Ranged → v.Ranged

/-- `v` meets every invariant that `w` met, and no lane has begun a DRAIN. -/
structure Work.Follows (w v : Work) : Prop extends Work.Evolves w v where
  draining : ∀ n, (v.laneOf n).state = .draining → (w.laneOf n).state = .draining

theorem Work.Evolves.refl (w : Work) : Work.Evolves w w := ⟨id, id, fun _ _ => id, fun _ _ => id⟩

theorem Work.Evolves.trans {a b c : Work} (h : Work.Evolves a b) (k : Work.Evolves b c) : Work.Evolves a c where
  oneActive one := k.oneActive (h.oneActive one)
  lineSound line := k.lineSound (h.lineSound line)
  spool one line spool := k.spool (h.oneActive one) (h.lineSound line) (h.spool one line spool)
  ranged one line ranged := k.ranged (h.oneActive one) (h.lineSound line) (h.ranged one line ranged)

theorem Work.Follows.refl (w : Work) : Work.Follows w w := ⟨.refl w, fun _ => id⟩

theorem Work.Follows.trans {a b c : Work} (h : Work.Follows a b) (k : Work.Follows b c) : Work.Follows a c :=
  ⟨h.toEvolves.trans k.toEvolves, fun n e => h.draining n (k.draining n e)⟩

/-- Both branches of a choice. -/
theorem Work.Follows.ite {c : Prop} [Decidable c] {w a b : Work} (h : c → Work.Follows w a) (k : ¬c → Work.Follows w b) :
    Work.Follows w (if c then a else b) := by
  split
  · exact h ‹_›
  · exact k ‹_›

theorem Work.Follows.noneDraining {w v : Work} (h : Work.Follows w v) (none : w.noneDraining) : v.noneDraining :=
  fun n e => none n (h.draining n e)

/-- The line state, the frame and the bits change, with the slots, the pending list and the settings as they were; the slot of the
frame is then `g`. -/
structure Work.Restated (g : Option SlotNo) (w v : Work) : Prop where
  lanes : v.lanes = w.lanes
  engine : v.port.engine = w.port.engine
  slots : v.line.slots = w.line.slots
  pendingSlots : v.line.pendingSlots = w.line.pendingSlots
  spool : v.line.spool = w.line.spool
  settings : v.line.settings = w.line.settings
  frameSlot : v.frameSlot = g
  frame : w.Ranged → ∀ f, v.line.frame = some f → f.slot.isSome → f.Legal w.crcOctets w.payloadRoom

theorem Work.Restated.laneOf {g : Option SlotNo} {w v : Work} (r : Work.Restated g w v) (n : LaneNo) : v.laneOf n = w.laneOf n := by
  unfold Work.laneOf
  rw [r.lanes]

theorem Work.Restated.ranged {g : Option SlotNo} {w v : Work} (r : Work.Restated g w v) (h : w.Ranged) : v.Ranged where
  lanes n := by rw [r.laneOf]; exact h.lanes n
  spool := by rw [r.spool]; exact h.spool
  frame := by rw [Work.crcOctets_congr r.settings, Work.payloadRoom_congr r.spool]; exact r.frame h
  pendingSlots := by rw [r.pendingSlots, Work.payloadRoom_congr r.spool]; exact h.pendingSlots

section

variable {A : Prop}

theorem Work.Acts.lineStays {g h : Option SlotNo} {w v : Work} (acts : Work.Acts A g w h v) : Work.LineStays w v := by
  induction acts with
  | refl => exact .refl _
  | tail _ last ih => exact ih.trans last.lineStays

theorem Work.Acts.oneActive {g h : Option SlotNo} {w v : Work} (acts : Work.Acts A g w h v) (one : w.OneActive) : v.OneActive :=
  acts.keeps (J := fun _ w => w.OneActive) (fun _ _ _ _ a => a.oneActive) one

theorem Work.Acts.spoolOpen {g h : Option SlotNo} {w v : Work} (acts : Work.Acts A g w h v) (ok : A) (spool : w.SpoolOpen g) :
    v.SpoolOpen h :=
  acts.keeps (J := fun g w => w.SpoolOpen g) (fun _ _ _ _ a => a.spoolOpen ok) spool

theorem Work.Acts.ranged {g h : Option SlotNo} {w v : Work} (acts : Work.Acts A g w h v) (ranged : w.Ranged) : v.Ranged :=
  acts.keeps (J := fun _ w => w.Ranged) (fun _ _ _ _ a => a.ranged) ranged

theorem Work.Acts.draining {g h : Option SlotNo} {w v : Work} (acts : Work.Acts A g w h v) (n : LaneNo)
    (e : (v.laneOf n).state = .draining) : (w.laneOf n).state = .draining := by
  by_contra ne
  exact acts.keeps (J := fun _ w => (w.laneOf n).state ≠ .draining) (fun _ _ _ _ a ne e => ne (a.draining n e)) ne e

end

/-- A run of acts that begins with the frame's slot as the FILLING one, and then a change of the line state. -/
theorem Work.Acts.restated {g h : Option SlotNo} {w u v : Work} (acts : Work.Acts w.OneActive g w h u)
    (start : w.LineSound → w.frameSlot = g) (r : Work.Restated h u v) (sound : w.LineSound → u.LineSound → v.LineSound) :
    Work.Follows w v where
  oneActive one := (acts.oneActive one).congr r.lanes r.engine
  lineSound line := sound line (acts.lineStays.lineSound line)
  spool one line spool := by
    rw [Work.spoolSound_iff, start line] at spool
    rw [Work.spoolSound_iff, r.frameSlot]
    exact (acts.spoolOpen one spool).congr r.slots r.pendingSlots (.ofEq (by rw [r.laneOf]))
  ranged one line ranged := r.ranged (acts.ranged ranged)
  draining n e := acts.draining n (by rw [← r.laneOf]; exact e)

/-- A run of acts that leaves the frame's slot as the FILLING one. -/
theorem Work.Acts.follows {g h : Option SlotNo} {w v : Work} (acts : Work.Acts w.OneActive g w h v)
    (start : w.LineSound → w.frameSlot = g) (finish : v.frameSlot = h) : Work.Follows w v :=
  acts.restated start ⟨rfl, rfl, rfl, rfl, rfl, rfl, finish, fun h => h.frame⟩ fun _ => id

theorem Work.Moves.frame {A : Prop} {w v : Work} (m : Work.Moves A w v) : v.line.frame = w.line.frame :=
  m.keeps (J := fun u => u.line.frame = w.line.frame) (fun _ _ m e => m.frame.trans e) rfl

theorem Work.Moves.follows {w v : Work} (m : Work.Moves w.OneActive w v) : Work.Follows w v :=
  (m.acts w.frameSlot).follows (fun _ => rfl) (by unfold Work.frameSlot; rw [m.frame])

theorem Work.BusOnly.follows {w v : Work} (h : Work.BusOnly w v) : Work.Follows w v := h.moves.follows

/-- After what keeps the invariants, a change of the line state. -/
theorem Work.Follows.restated {w u v : Work} (h : Work.Follows w u) (r : Work.Restated u.frameSlot u v)
    (sound : w.LineSound → u.LineSound → v.LineSound) : Work.Follows w v where
  oneActive one := (h.oneActive one).congr r.lanes r.engine
  lineSound line := sound line (h.lineSound line)
  spool one line spool := by
    have open' := (Work.spoolSound_iff u).mp (h.spool one line spool)
    rw [Work.spoolSound_iff, r.frameSlot]
    exact open'.congr r.slots r.pendingSlots (.ofEq (by rw [r.laneOf]))
  ranged one line ranged := r.ranged (h.ranged one line ranged)
  draining n e := h.draining n (by rw [← r.laneOf]; exact e)

/-! ## Losses and slots -/

theorem writeLineStatus_busOnly (w : Work) : Work.BusOnly w (writeLineStatus w) := writeStationList_busOnly _ _ _ _

theorem noteFirstLoss_busOnly (reason : LossReason) (w : Work) : Work.BusOnly w (noteFirstLoss reason w) := by
  have h := readStation_busOnly .line none (w.exchange 0x4A) w
  unfold noteFirstLoss
  split <;> rename_i e <;> rw [e] at h
  · split
    · exact h.trans (writeStation_busOnly _ _ _ _ _)
    · exact h
  · exact h

section

variable {A : Prop}

theorem changeSlot_free_acts (k : SlotNo) (w : Work) : Work.Acts A (some k) w none (changeSlot k .free w) :=
  (Work.Act.dropped k w).acts.trans ((changeSlot_busOnly k .free w).acts none)

theorem reportLoss_busOnly (reason : LossReason) (w : Work) :
    Work.BusOnly (w.modLine fun l => { l with losses := saturate16 l.losses 1 }) (reportLoss reason w) :=
  ((noteFirstLoss_busOnly reason _).trans (writeLineStatus_busOnly _)).trans (setCause_busOnly _ _)

theorem reportLoss_acts (g : Option SlotNo) (reason : LossReason) (w : Work) : Work.Acts A g w g (reportLoss reason w) :=
  (Work.Act.aside g w { w.line with losses := saturate16 w.line.losses 1 }
    ⟨rfl, rfl, rfl, rfl, rfl, rfl, rfl, rfl, rfl, rfl, rfl⟩).acts.trans ((reportLoss_busOnly reason w).acts g)

theorem discardSlot_acts (k : SlotNo) (reason : LossReason) (w : Work) : Work.Acts A (some k) w none (discardSlot k reason w) :=
  (changeSlot_free_acts k w).trans (reportLoss_acts none reason _)

theorem reportLoss_frame (reason : LossReason) (w : Work) : (reportLoss reason w).line.frame = w.line.frame := by
  rw [(reportLoss_busOnly reason w).line]; rfl

theorem discardSlot_frame (k : SlotNo) (reason : LossReason) (w : Work) :
    (discardSlot k reason w).line.frame = w.line.frame := by
  unfold discardSlot
  rw [reportLoss_frame, (changeSlot_busOnly k .free w).line]; rfl

theorem skipFrame_frameSlot (w : Work) : (skipFrame w).frameSlot = none := by
  unfold Work.frameSlot skipFrame
  cases e : w.line.frame <;> simp [e]

/-! ## The octets of a frame -/

theorem LineSettings.crcOctets_bounds (t : LineSettings) : 1 ≤ t.crcOctets ∧ t.crcOctets ≤ 4 := by
  unfold LineSettings.crcOctets
  split <;> simp

theorem Work.crcOctets_bounds (w : Work) : 1 ≤ w.crcOctets ∧ w.crcOctets ≤ 4 := by
  unfold Work.crcOctets
  split
  · exact LineSettings.crcOctets_bounds _
  · simp

theorem Frame.enterDelay_slot (c : Nat) (o : Byte) (f : Frame) : (f.enterDelay c o).2.slot = f.slot := by
  unfold Frame.enterDelay
  dsimp only
  split
  · split <;> rfl
  · rfl

theorem Frame.absorb_slot (c room : Nat) (o : Byte) (f : Frame) : (f.absorb c room o).1.slot = f.slot := by
  unfold Frame.absorb
  dsimp only
  split
  · rfl
  · split
    · rfl
    · split
      · rfl
      · split <;> rfl

/-- An octet that enters a delay which is not full: the delay is one octet longer (R142). -/
theorem Frame.enterDelay_none {c room : Nat} {o : Byte} {f : Frame} (h : f.Legal c room) (octets : 1 ≤ c ∧ c ≤ 4)
    (small : room ≤ 1008) (none : (f.enterDelay c o).1 = none) : (f.enterDelay c o).2.Legal c room := by
  obtain ⟨head, delay, stored, counted⟩ := h
  unfold Frame.enterDelay at none ⊢
  dsimp only at none ⊢
  split
  · next first rest e =>
    simp only [e] at none
    split
    · next full => rw [if_pos (e ▸ full)] at none; cases none
    · next room =>
      refine ⟨head, by simp [e] at room ⊢; omega, stored, fun short => ?_⟩
      have := counted short
      simp only [e, saturate16, List.length_append, List.length_cons, List.length_nil] at *
      omega
  · next e =>
    refine ⟨head, by simpa using octets.1, stored, fun short => ?_⟩
    have := counted short
    simp only [e, saturate16, List.length_cons, List.length_nil] at *
    omega

/-- An octet that enters a full delay: the delay is as long as it was, and one octet more is counted (R142). -/
theorem Frame.enterDelay_some {c : Nat} {o first : Byte} {f : Frame} (some : (f.enterDelay c o).1 = some first) :
    ∃ delay, delay.length = f.delay.length ∧ (f.enterDelay c o).2 = { f with octets := saturate16 f.octets 1, delay := delay } := by
  unfold Frame.enterDelay at some ⊢
  dsimp only at some ⊢
  split
  · next x rest e =>
    split
    · exact ⟨rest ++ [o], by simp [e], rfl⟩
    · next notFull => simp only [e] at some; rw [if_neg (e ▸ notFull)] at some; cases some
  · next e => simp [e] at some

/-- The octet that leaves the delay goes into the head or the payload, or the frame is long (R142). -/
theorem Frame.absorb_legal {c room : Nat} {first : Byte} {f : Frame} {delay : List Byte} (h : f.Legal c room) (octets : c ≤ 4)
    (small : room ≤ 1008) (length : delay.length = f.delay.length) :
    (Frame.absorb c room first { f with octets := saturate16 f.octets 1, delay := delay }).1.Legal c room := by
  obtain ⟨head, full, stored, counted⟩ := h
  unfold Frame.absorb
  dsimp only
  split
  · next long => exact ⟨head, by simpa [length] using full, stored, fun short => by simp [long] at short⟩
  · next short =>
    have count := counted (by simpa using short)
    split
    · next three =>
      refine ⟨by simp; omega, by simpa [length] using full, stored, fun _ => ?_⟩
      simp only [saturate16, List.length_append, List.length_cons, List.length_nil, length]
      omega
    · split
      · exact ⟨head, by simpa [length] using full, stored, nofun⟩
      · next three roomLeft =>
        have taken (half : Option Byte) (crc : BitVec 32) : Frame.Legal c room
            { f with octets := saturate16 f.octets 1, delay := delay, stored := f.stored + 1, half := half, crc := crc } := by
          refine ⟨head, by simpa [length] using full, by dsimp only; omega, fun _ => ?_⟩
          simp only [saturate16, length]
          omega
        split
        · exact taken _ _
        · exact taken _ _

/-- An octet is taken into the frame that holds slot `k` (R142). -/
theorem frameOctetInSlot_acts {k : SlotNo} {o : Byte} {f : Frame} {w : Work} (frame : w.line.frame = some f)
    (slot : f.slot = some k) :
    Work.Acts A w.frameSlot w (frameOctetInSlot k o f w).frameSlot (frameOctetInSlot k o f w) := by
  have start : w.frameSlot = some k := by unfold Work.frameSlot; rw [frame]; exact slot
  have kept (f' : Frame) (same : f'.slot = f.slot) : (w.withFrame f').frameSlot = some k := same.trans slot
  have legal (ranged : w.Ranged) (some : f.slot.isSome) := ranged.frame f frame some
  have octets := w.crcOctets_bounds
  unfold frameOctetInSlot
  dsimp only
  cases leaving : (f.enterDelay w.crcOctets o).1 with
  | none =>
    dsimp only
    have same := f.enterDelay_slot w.crcOctets o
    rw [kept _ same, start]
    exact (Work.Act.octet _ w f _ frame same fun ranged some =>
      Frame.enterDelay_none (legal ranged some) octets ranged.room leaving).acts
  | some first =>
    dsimp only
    obtain ⟨delay, length, entered⟩ := Frame.enterDelay_some leaving
    rw [entered]
    generalize e : Frame.absorb w.crcOctets w.payloadRoom first
      { f with octets := saturate16 f.octets 1, delay := delay } = absorbed
    have same : absorbed.1.slot = f.slot := by rw [← e, Frame.absorb_slot]
    have taken : Work.Acts A (some k) w (some k) (w.withFrame absorbed.1) :=
      (Work.Act.octet _ w f _ frame same fun ranged some => e ▸
        Frame.absorb_legal (legal ranged some) octets.2 ranged.room length).acts
    rw [start]
    cases absorbed.2 with
    | none =>
      dsimp only
      rw [kept _ same]
      exact taken
    | some word =>
      dsimp only
      have write := writeStation_busOnly .line none (w.payloadAddress k word.1) word.2 (w.withFrame absorbed.1)
      split <;> rename_i stored <;> rw [stored] at write
      · rename_i w1
        have slot' : w1.frameSlot = some k := by unfold Work.frameSlot; rw [write.line]; exact kept _ same
        rw [slot']
        exact taken.trans (write.acts _)
      · rename_i w1
        have none : (discardSlot k .memory (skipFrame w1)).frameSlot = none := by
          unfold Work.frameSlot
          rw [discardSlot_frame]
          exact skipFrame_frameSlot w1
        rw [none]
        exact ((taken.trans (write.acts _)).trans (Work.Act.skipped _ w1).acts).trans (discardSlot_acts k .memory _)

theorem takeFrameOctet_acts (o : Byte) (w : Work) :
    Work.Acts A w.frameSlot w (takeFrameOctet o w).frameSlot (takeFrameOctet o w) := by
  unfold takeFrameOctet
  cases frame : w.line.frame with
  | none => exact .refl _ w
  | some f =>
    dsimp only
    cases slot : f.slot with
    | some k => exact frameOctetInSlot_acts frame slot
    | none =>
      have start : w.frameSlot = none := by unfold Work.frameSlot; rw [frame]; exact slot
      have skipped (x : Frame) (none : x.slot = none) : (w.withFrame x).frameSlot = Option.none := none
      dsimp only
      rw [start, skipped _ rfl]
      exact (Work.Act.octet _ w f _ frame slot.symm fun _ some => by rw [slot] at some; cases some).acts

end

end Sys2Proof.Machine

/-! The line receiver bit by bit: each of its operations keeps the invariants of the lanes, the line and the ranges. -/

namespace Sys2Proof.Machine

/-! ## The close of a frame -/

section

variable {A : Prop}

/-- The marks and counts of the receiver change, and then only the bus is at work. -/
theorem aside_acts (g : Option SlotNo) {w v : Work} {f : LineReceiver → LineReceiver} (only : LineReceiver.Aside w.line (f w.line))
    (bus : Work.BusOnly (w.modLine f) v) : Work.Acts A g w g v :=
  (Work.Act.aside g w (f w.line) only).acts.trans (bus.acts g)

/-- The sequence check writes marks, counts and the line status record (R148). -/
theorem checkSequence_aside (received : Byte) (w : Work) :
    ∃ f, LineReceiver.Aside w.line (f w.line) ∧ Work.BusOnly (w.modLine f) (checkSequence received w) := by
  unfold checkSequence
  split
  · refine ⟨_, ?_, writeLineStatus_busOnly _⟩
    exact ⟨rfl, rfl, rfl, rfl, rfl, rfl, rfl, rfl, rfl, rfl, rfl⟩
  · split
    · refine ⟨_, ?_, writeLineStatus_busOnly _⟩
      exact ⟨rfl, rfl, rfl, rfl, rfl, rfl, rfl, rfl, rfl, rfl, rfl⟩
    · refine ⟨_, ?_, (writeLineStatus_busOnly (w.modLine _)).trans (setCause_busOnly .lineGap _)⟩
      exact ⟨rfl, rfl, rfl, rfl, rfl, rfl, rfl, rfl, rfl, rfl, rfl⟩

/-- A DRAW slot joins the pending list (R151). -/
theorem queueSlot_acts (k : SlotNo) {octets : Nat} {w : Work} (even : octets % 2 = 0)
    (fits : w.Ranged → octets ≤ w.payloadRoom) : Work.Acts A (some k) w none (queueSlot k octets w) := by
  have changed := changeSlot_busOnly k .queued w
  have pended : Work.BusOnly (w.slotPended k octets) { changeSlot k .queued w with line :=
      { (changeSlot k .queued w).line with
        pendingSlots := (changeSlot k .queued w).line.pendingSlots ++ [{ slot := k, octets := octets }] } } :=
    ⟨changed.port, changed.time, changed.lanes, by dsimp only; rw [changed.line]; rfl, changed.wf⟩
  have queued := (Work.Act.queued (A := A) k octets w _ pended even fits).acts
  unfold Work.slotOffered at queued
  unfold queueSlot
  dsimp only
  split
  · next idle =>
    rw [if_pos idle] at queued
    exact queued.trans ((writeLaneRecord_moves 3 0 _).acts none)
  · next busy =>
    rw [if_neg busy] at queued
    exact queued

theorem changeSlot_passed_acts (k : SlotNo) (w : Work) : Work.Acts A (some k) w none (changeSlot k .passed w) :=
  (Work.Act.passed k w).acts.trans ((changeSlot_busOnly k .passed w).acts none)

theorem frameAction_acts (kind : FrameKind) (k : SlotNo) {octets : Nat} {w : Work} (even : kind = .draw → octets % 2 = 0)
    (fits : w.Ranged → octets ≤ w.payloadRoom) : Work.Acts A (some k) w none (frameAction kind k octets w) := by
  cases kind with
  | draw => exact queueSlot_acts k (even rfl) fits
  | pass => exact (changeSlot_passed_acts k w).trans ((setCause_busOnly _ _).acts none)
  | purge => exact ((purgeLane3_moves w).acts (some k)).trans (changeSlot_free_acts k _)

/-- The payload of a frame that is not long lies in its slot (R142, R145). -/
theorem Frame.payload_fits {c room : Nat} {f : Frame} (h : f.Legal c room) (short : f.long = false) : f.payloadOctets c ≤ room := by
  obtain ⟨head, delay, stored, counted⟩ := h
  have := counted short
  unfold Frame.payloadOctets
  omega

theorem Frame.format_draw {c : Nat} {f : Frame} (h : f.format c = some .draw) : f.payloadOctets c % 2 = 0 := by
  unfold Frame.format at h
  split at h
  · split at h
    · assumption
    · cases h
  · next notDraw => exact absurd h notDraw

theorem Frame.short_of_passes {c : Nat} {f : Frame} (h : f.failedCheck c = none) : f.long = false := by
  unfold Frame.failedCheck at h
  split at h
  · cases h
  · split at h
    · cases h
    · split at h
      · cases h
      · next short => simpa using short

theorem acceptFrame_acts {kind : FrameKind} {k : SlotNo} {f : Frame} {w : Work} (frame : w.line.frame = some f)
    (slot : f.slot = some k) (short : f.long = false) (format : f.format w.crcOctets = some kind) :
    Work.Acts A (some k) w none (acceptFrame kind k f w) := by
  have write := writeStationList_busOnly .line none (w.acceptWords k f) w
  unfold acceptFrame
  split <;> rename_i e <;> rw [e] at write
  · rename_i w1
    have counted : Work.Acts A (some k) w (some k)
        (w1.modLine fun l => { l with accepted := l.accepted + 1, lastArrival := w1.stamp }) :=
      (write.acts _).trans (aside_acts _ (by constructor <;> rfl) (.refl _))
    have crc : (w1.modLine fun l => { l with accepted := l.accepted + 1, lastArrival := w1.stamp }).crcOctets = w.crcOctets :=
      Work.crcOctets_congr (by rw [Work.modLine_line, write.line])
    refine (counted.trans (frameAction_acts kind k (fun draw => ?_) fun ranged => ?_)).trans
      ((writeLineStatus_busOnly _).acts none)
    · subst draw
      rw [crc]
      exact Frame.format_draw format
    · refine Frame.payload_fits (ranged.frame f ?_ (by simp [slot])) short
      rw [Work.modLine_line, write.line]
      exact frame
  · exact (write.acts _).trans (discardSlot_acts k .memory _)

theorem formatAndAddress_acts {k : SlotNo} {f : Frame} {w : Work} (frame : w.line.frame = some f) (slot : f.slot = some k)
    (short : f.long = false) : Work.Acts A (some k) w none (formatAndAddress k f w) := by
  unfold formatAndAddress
  cases format : f.format w.crcOctets with
  | none => exact discardSlot_acts k .format w
  | some kind =>
    dsimp only
    split
    · exact acceptFrame_acts frame slot short format
    · exact changeSlot_free_acts k w

theorem closeChecks_acts {k : SlotNo} {f : Frame} {w : Work} (frame : w.line.frame = some f) (slot : f.slot = some k) :
    Work.Acts A (some k) w none (closeChecks k f w) := by
  unfold closeChecks
  cases check : f.failedCheck w.crcOctets with
  | some reason => exact discardSlot_acts k reason w
  | none =>
    obtain ⟨l, only, bus⟩ := checkSequence_aside (f.headOctet 2) w
    have still : (checkSequence (f.headOctet 2) w).line.frame = some f := by
      rw [bus.line]
      exact only.frame.trans frame
    exact (aside_acts (some k) only bus).trans (formatAndAddress_acts still slot (Frame.short_of_passes check))

end

/-- The end of a frame in which no slot is FILLING any more (R143). -/
theorem endFrame_follows {g : Option SlotNo} {w u : Work} (flagSeen : Bool) (acts : Work.Acts w.OneActive g w none u)
    (start : w.LineSound → w.frameSlot = g) (inFrame : w.line.state = .frame) : Work.Follows w (endFrame flagSeen u) := by
  have state : u.line.state = .frame := acts.lineStays.state.trans inFrame
  refine (acts.restated start (v := u.modLine fun l =>
    { l with state := .hunt, flagSeen := flagSeen, frame := none, octetBits := [], zeros := 0 })
    ⟨rfl, rfl, rfl, rfl, rfl, rfl, rfl, nofun⟩ fun _ sound => ?_).trans (writeLineStatus_busOnly _).follows
  have on := sound.offUnless (by rw [state]; simp)
  have noBreak := sound.breakFlag
  rw [state] at noBreak
  exact ⟨sound.inForce, fun _ => on, by simp, by simpa using noBreak, sound.window, by simp, sound.buffer, nofun, by simp⟩

/-- The frame's slot, where the frame gives it. -/
theorem Work.frameSlot_of {w : Work} {f : Frame} (frame : w.line.frame = some f) : w.frameSlot = f.slot := by
  unfold Work.frameSlot
  rw [frame]
  rfl

/-- A frame ends by what is done with the slot it holds, if it holds one. -/
theorem frameSlotDone_acts {A : Prop} {w : Work} {f : SlotNo → Frame → Work → Work}
    (h : ∀ k x, w.line.frame = some x → x.slot = some k → Work.Acts A (some k) w none (f k x w)) :
    Work.Acts A w.frameSlot w none
      (match w.line.frame with
      | some x =>
        match x.slot with
        | some k => f k x w
        | none => w
      | none => w) := by
  cases frame : w.line.frame with
  | none =>
    have start : w.frameSlot = none := by unfold Work.frameSlot; rw [frame]; rfl
    rw [start]
    exact .refl none w
  | some x =>
    rw [Work.frameSlot_of frame]
    dsimp only
    cases slot : x.slot with
    | none => exact .refl none w
    | some k => exact h k x frame slot

theorem closeFrame_follows {w : Work} (inFrame : w.line.state = .frame) : Work.Follows w (closeFrame w) :=
  endFrame_follows true (frameSlotDone_acts fun _ _ frame slot => closeChecks_acts frame slot) (fun _ => rfl) inFrame

theorem abortFrame_follows {w : Work} (inFrame : w.line.state = .frame) : Work.Follows w (abortFrame w) :=
  endFrame_follows false (frameSlotDone_acts (f := fun k _ => discardSlot k .abort) fun k _ _ _ => discardSlot_acts k .abort w)
    (fun _ => rfl) inFrame

/-! ## The open of a frame -/

/-- The line enters FRAME with this frame slot. -/
def Work.frameOpened (slot : Option SlotNo) (w : Work) : Work :=
  (w.modLine fun l => { l with state := .frame }).withFrame (Frame.opened w.crcOctets slot)

theorem Frame.opened_legal (c room : Nat) (slot : Option SlotNo) : (Frame.opened c slot).Legal c room :=
  ⟨by simp [Frame.opened], by simp [Frame.opened], by simp [Frame.opened], fun _ => by simp [Frame.opened]⟩

theorem Work.frameOpened_restated (slot : Option SlotNo) (w : Work) : Work.Restated slot w (w.frameOpened slot) where
  lanes := rfl
  engine := rfl
  slots := rfl
  pendingSlots := rfl
  spool := rfl
  settings := rfl
  frameSlot := rfl
  frame _ f e _ := by
    obtain rfl := Option.some.inj e
    exact Frame.opened_legal _ _ _

theorem Work.LineSound.frameOpened {w : Work} (h : w.LineSound) (hunt : w.line.state = .hunt) (slot : Option SlotNo) :
    (w.frameOpened slot).LineSound := by
  have on := h.offUnless (by rw [hunt]; simp)
  have noBreak := h.breakFlag
  rw [hunt] at noBreak
  refine ⟨h.inForce, fun _ => on, ?_, by simpa [Work.frameOpened] using noBreak, h.window, h.octet, h.buffer, nofun, nofun⟩
  simp [Work.frameOpened]

theorem Work.LineSound.no_frame {w : Work} (h : w.LineSound) (outside : w.line.state ≠ .frame) : w.frameSlot = none := by
  have none : w.line.frame = none := by
    cases e : w.line.frame with
    | none => rfl
    | some f => exact absurd (h.frame.mpr (by simp [e])) outside
  unfold Work.frameSlot
  rw [none]
  rfl

/-- What the open of a frame with slot `k` does after the frame is open (R141). -/
theorem openSlot_acts {A : Prop} (k : SlotNo) (w : Work) :
    Work.Acts A (some k) ((w.frameOpened (some k)).setSlot k .filling) (openSlot k w).frameSlot (openSlot k w) := by
  have write := writeSlotWord_busOnly k .filling ((w.frameOpened (some k)).setSlot k .filling)
  have opened : openSlot k w = match writeSlotWord k .filling ((w.frameOpened (some k)).setSlot k .filling) with
    | (true, w1) => writeLineStatus w1
    | (false, w1) => writeLineStatus (discardSlot k .memory (skipFrame w1)) := rfl
  rw [opened]
  split <;> rename_i w1 e <;> rw [e] at write
  · have slot : (writeLineStatus w1).frameSlot = some k := by
      unfold Work.frameSlot
      rw [(writeLineStatus_busOnly _).line, write.line]
      rfl
    rw [slot]
    exact (write.acts _).trans ((writeLineStatus_busOnly _).acts _)
  · have slot : (writeLineStatus (discardSlot k .memory (skipFrame w1))).frameSlot = none := by
      unfold Work.frameSlot
      rw [(writeLineStatus_busOnly _).line, discardSlot_frame]
      exact skipFrame_frameSlot w1
    rw [slot]
    exact (((write.acts _).trans (Work.Act.skipped _ w1).acts).trans (discardSlot_acts k .memory _)).trans
      ((writeLineStatus_busOnly _).acts _)

theorem openSlot_follows {k : SlotNo} {w : Work} (hunt : w.line.state = .hunt) (free : w.slotOf k = .free) :
    Work.Follows w (openSlot k w) := by
  have taken : Work.Acts w.OneActive none w (some k) (w.setSlot k .filling) := (Work.Act.taken k w free).acts
  exact (taken.restated (fun sound => sound.no_frame (by rw [hunt]; simp)) ((w.setSlot k .filling).frameOpened_restated (some k))
    fun _ sound => sound.frameOpened hunt (some k)).trans ((openSlot_acts k w).follows (fun _ => rfl) rfl)

theorem openSkipped_follows {w : Work} (hunt : w.line.state = .hunt) : Work.Follows w (openSkipped w) := by
  have start : Work.Acts w.OneActive none w none w := .refl none w
  refine (start.restated (fun sound => sound.no_frame (by rw [hunt]; simp)) (w.frameOpened_restated none)
    fun _ sound => sound.frameOpened hunt none).trans ?_
  refine (reportLoss_acts none .full _).trans ((writeLineStatus_busOnly _).acts none) |>.follows (fun _ => rfl) ?_
  unfold Work.frameSlot
  rw [(writeLineStatus_busOnly _).line, reportLoss_frame]
  rfl

theorem Work.lowestFree_free {w : Work} {k : SlotNo} (h : w.lowestFree = some k) : w.slotOf k = .free := by
  unfold Work.lowestFree at h
  split at h
  · have := List.find?_some h
    simp only [Bool.and_eq_true, decide_eq_true_eq] at this
    exact this.2
  · cases h

theorem takeFrameOctet_follows (o : Byte) (w : Work) : Work.Follows w (takeFrameOctet o w) :=
  (takeFrameOctet_acts o w).follows (fun _ => rfl) rfl

theorem openFrame_follows (o : Byte) {w : Work} (hunt : w.line.state = .hunt) : Work.Follows w (openFrame o w) := by
  refine Work.Follows.trans ?_ (takeFrameOctet_follows o _)
  split
  · next k free => exact openSlot_follows hunt (Work.lowestFree_free free)
  · exact openSkipped_follows hunt

theorem takeFrameOctet_window (o : Byte) (w : Work) : (takeFrameOctet o w).line.window = w.line.window :=
  (takeFrameOctet_acts (A := True) o w).lineStays.window

theorem openFrame_window (o : Byte) (w : Work) : (openFrame o w).line.window = w.line.window := by
  unfold openFrame
  rw [takeFrameOctet_window]
  split
  · next k _ =>
    exact (openSlot_acts (A := True) k w).lineStays.window
  · exact ((reportLoss_acts (A := True) none .full (w.frameOpened none)).trans
      ((writeLineStatus_busOnly _).acts none)).lineStays.window

/-! ## Bits -/

/-- The bits of the receiver and its marks change; the frame counts a bit or is as it was. -/
structure LineReceiver.BitsOnly (l m : LineReceiver) : Prop where
  state : m.state = l.state
  breakFlag : m.breakFlag = l.breakFlag
  slots : m.slots = l.slots
  pendingSlots : m.pendingSlots = l.pendingSlots
  spool : m.spool = l.spool
  settings : m.settings = l.settings
  frame : m.frame = l.frame ∨ m.frame = l.frame.map fun f => { f with bits := f.bits + 1 }

theorem LineReceiver.BitsOnly.frame_isSome {l m : LineReceiver} (h : LineReceiver.BitsOnly l m) :
    m.frame.isSome = l.frame.isSome := by
  rcases h.frame with e | e <;> simp [e]

theorem LineReceiver.BitsOnly.restated {w : Work} {m : LineReceiver} (h : LineReceiver.BitsOnly w.line m) :
    Work.Restated w.frameSlot w { w with line := m } := by
  refine ⟨rfl, rfl, h.slots, h.pendingSlots, h.spool, h.settings, ?_, fun ranged f e some => ?_⟩
  · unfold Work.frameSlot
    dsimp only
    rcases h.frame with e | e
    · rw [e]
    · rw [e]
      cases w.line.frame <;> rfl
  · dsimp only at e
    rcases h.frame with same | bits
    · exact ranged.frame f (same ▸ e) some
    · rw [bits] at e
      obtain ⟨f0, was, rfl⟩ := Option.map_eq_some_iff.mp e
      exact ranged.frame f0 was some

/-- The bits stay in their bounds. -/
structure LineReceiver.BitsBound (l m : LineReceiver) : Prop where
  window : l.window.length ≤ 8 → m.window.length ≤ 8
  octet : l.octetBits.length < 8 → m.octetBits.length < 8
  buffer : l.buffer.length ≤ 64 → m.buffer.length ≤ 64
  bufferOff : l.state = .off → l.buffer = [] → m.buffer = []
  zeros : l.state = .hunt → l.zeros < 32 → m.zeros < 32

theorem LineReceiver.BitsOnly.lineSound {w : Work} {m : LineReceiver} (h : LineReceiver.BitsOnly w.line m)
    (bound : LineReceiver.BitsBound w.line m) (sound : w.LineSound) : ({ w with line := m } : Work).LineSound where
  inForce := by rw [h.settings, h.spool]; exact sound.inForce
  offUnless := by rw [h.state]; exact sound.offUnless
  frame := by rw [h.state, h.frame_isSome]; exact sound.frame
  breakFlag := by rw [h.state, h.breakFlag]; exact sound.breakFlag
  window := bound.window sound.window
  octet := bound.octet sound.octet
  buffer := bound.buffer sound.buffer
  bufferOff := by
    rw [h.state]
    exact fun off => bound.bufferOff off (sound.bufferOff off)
  zeros := by
    rw [h.state]
    exact fun hunt => bound.zeros hunt (sound.zeros hunt)

theorem LineReceiver.BitsOnly.follows {w : Work} {m : LineReceiver} (h : LineReceiver.BitsOnly w.line m)
    (bound : LineReceiver.BitsBound w.line m) : Work.Follows w { w with line := m } :=
  (Work.Follows.refl w).restated h.restated fun _ => h.lineSound bound

theorem takeDataBit_follows (b : Bool) (w : Work)
    (on : w.line.state = .frame ∨ w.line.state = .hunt) : Work.Follows w (takeDataBit b w).1 := by
  have taken (bits : List Bool) (short : w.line.octetBits.length < 8 → bits.length < 8) : Work.Follows w (w.modLine fun l =>
      { l with
        ones := if b then l.ones + 1 else 0
        octetBits := bits
        frame := l.frame.map fun f => { f with bits := f.bits + 1 } }) :=
    LineReceiver.BitsOnly.follows ⟨rfl, rfl, rfl, rfl, rfl, rfl, .inr rfl⟩ ⟨id, short, id, fun _ => id, fun _ => id⟩
  unfold takeDataBit
  dsimp only
  split
  · have octet := taken [] fun _ => by simp
    split
    · exact octet.trans (takeFrameOctet_follows _ _)
    · next notFrame => exact octet.trans (openFrame_follows _ (on.resolve_left notFrame))
  · next more =>
    refine taken _ fun few => ?_
    simp only [List.length_append, List.length_cons, List.length_nil] at more ⊢
    omega

theorem takeDataBit_window (b : Bool) (w : Work) : (takeDataBit b w).1.line.window = w.line.window := by
  unfold takeDataBit
  dsimp only
  split
  · split
    · exact takeFrameOctet_window _ _
    · exact openFrame_window _ _
  · rfl

theorem offerBit_follows (b : Bool) (w : Work) : Work.Follows w (offerBit b w).1 := by
  unfold offerBit
  split
  · next on =>
    split
    · exact LineReceiver.BitsOnly.follows ⟨rfl, rfl, rfl, rfl, rfl, rfl, .inl rfl⟩ ⟨id, id, id, fun _ => id, fun _ => id⟩
    · exact takeDataBit_follows b w (on.imp id And.left)
  · exact .refl w

theorem offerBit_window (b : Bool) (w : Work) : (offerBit b w).1.line.window = w.line.window := by
  unfold offerBit
  split
  · split
    · rfl
    · exact takeDataBit_window b w
  · rfl

/-- The oldest bit leaves a full window: what is left takes one bit more (R137). -/
theorem leaveWindow_window (w : Work) (full : w.line.window.length ≤ 8) : (leaveWindow w).1.line.window.length < 8 := by
  unfold leaveWindow
  split
  · next oldest rest e =>
    rw [e, List.length_cons] at full
    split
    · split
      · simp only [Work.modLine_line]; omega
      · rw [offerBit_window]; simp only [Work.modLine_line]; omega
    · next room => exact Nat.lt_of_not_le room
  · next e => simp [e]

theorem leaveWindow_follows (w : Work) : Work.Follows w (leaveWindow w).1 := by
  unfold leaveWindow
  split
  · next oldest rest e =>
    have shifted : Work.Follows w (w.modLine fun l => { l with window := rest }) :=
      LineReceiver.BitsOnly.follows ⟨rfl, rfl, rfl, rfl, rfl, rfl, .inl rfl⟩
        ⟨fun full => by rw [e, List.length_cons] at full; dsimp only; omega, id, id, fun _ => id, fun _ => id⟩
    split
    · split
      · exact shifted
      · exact shifted.trans (offerBit_follows _ _)
    · exact .refl w
  · exact .refl w

/-- A bit passes the window: the oldest one leaves a full window before the new one enters (R137). -/
theorem enterWindow_leaveWindow_follows (b : Bool) (w : Work) : Work.Follows w (enterWindow b (leaveWindow w).1) := by
  have left := leaveWindow_follows w
  have bits : LineReceiver.BitsOnly (leaveWindow w).1.line
      { (leaveWindow w).1.line with window := (leaveWindow w).1.line.window ++ [{ bit := b, flagEnd := false }] } :=
    ⟨rfl, rfl, rfl, rfl, rfl, rfl, .inl rfl⟩
  refine left.restated bits.restated fun before sound => ?_
  have room := leaveWindow_window w before.window
  exact bits.lineSound ⟨fun _ => by simp only [List.length_append, List.length_cons, List.length_nil]; omega, id, id,
    fun _ => id, fun _ => id⟩ sound

theorem takeFlag_follows (w : Work) : Work.Follows w (takeFlag w).1 := by
  have marked : Work.Follows w (w.modLine fun l => { l with window := [{ bit := false, flagEnd := true }], ones := 0 }) :=
    LineReceiver.BitsOnly.follows ⟨rfl, rfl, rfl, rfl, rfl, rfl, .inl rfl⟩ ⟨fun _ => by simp, id, id, fun _ => id, fun _ => id⟩
  unfold takeFlag
  dsimp only
  split
  · exact marked.trans (LineReceiver.BitsOnly.follows ⟨rfl, rfl, rfl, rfl, rfl, rfl, .inl rfl⟩
      ⟨id, fun _ => by simp, id, fun _ => id, fun _ => id⟩)
  · next inFrame => exact marked.trans (closeFrame_follows inFrame)
  · exact marked
  · exact marked

theorem takeAbort_follows (w : Work) : Work.Follows w (takeAbort w).1 := by
  have emptied : Work.Follows w (w.modLine fun l => { l with window := [], ones := 0 }) :=
    LineReceiver.BitsOnly.follows ⟨rfl, rfl, rfl, rfl, rfl, rfl, .inl rfl⟩ ⟨fun _ => by simp, id, id, fun _ => id, fun _ => id⟩
  unfold takeAbort
  dsimp only
  split
  · exact emptied.trans (LineReceiver.BitsOnly.follows ⟨rfl, rfl, rfl, rfl, rfl, rfl, .inl rfl⟩
      ⟨id, fun _ => by simp, id, fun _ => id, fun _ => id⟩)
  · next inFrame => exact emptied.trans (abortFrame_follows inFrame)
  · exact emptied
  · exact emptied

theorem examineWindow_follows (w : Work) : Work.Follows w (examineWindow w).1 := by
  unfold examineWindow
  split
  · exact takeFlag_follows w
  · split
    · exact takeAbort_follows w
    · exact .refl w

/-! ## Breaks -/

theorem breakPurge_follows (w : Work) : Work.Follows w (breakPurge w) := by
  refine (purgeLane3_moves w).follows.trans ?_
  have acts (A : Prop) (g : Option SlotNo) : Work.Acts A g (purgeLane3 w) g (breakPurge w) :=
    aside_acts g (by constructor <;> rfl) (writeLineStatus_busOnly _)
  refine (acts _ _).follows (fun _ => rfl) ?_
  unfold breakPurge
  unfold Work.frameSlot
  rw [(writeLineStatus_busOnly _).line]
  rfl

/-- The line state changes outside a frame, with the frame as it was. -/
theorem Work.sameFrame_restated {w : Work} {m : LineReceiver} (slots : m.slots = w.line.slots)
    (pendingSlots : m.pendingSlots = w.line.pendingSlots) (spool : m.spool = w.line.spool)
    (settings : m.settings = w.line.settings) (frame : m.frame = w.line.frame) :
    Work.Restated w.frameSlot w { w with line := m } :=
  ⟨rfl, rfl, slots, pendingSlots, spool, settings, by unfold Work.frameSlot; rw [frame],
    fun ranged f e => ranged.frame f (frame ▸ e)⟩

/-- The break begins at the 32nd decoded 0; `w` is the line before that bit, in HUNT (R139). -/
theorem enterBreak_follows {w : Work} (hunt : w.line.state = .hunt) (zeros : Nat) :
    Work.Follows w (enterBreak (w.modLine fun l => { l with zeros := zeros })) := by
  have broken : Work.Follows w (w.modLine fun l => { l with zeros := zeros, state := .inBreak, breakFlag := true }) := by
    refine (Work.Follows.refl w).restated (Work.sameFrame_restated rfl rfl rfl rfl rfl) fun _ sound => ?_
    have on := sound.offUnless (by rw [hunt]; simp)
    have frame := sound.frame
    rw [hunt] at frame
    exact ⟨sound.inForce, fun _ => on, by simpa using frame, by simp, sound.window, sound.octet, sound.buffer, nofun, nofun⟩
  have reported := broken.trans ((writeLineStatus_busOnly _).trans (setCause_busOnly .lineBreak _)).follows
  unfold enterBreak
  dsimp only
  split
  · exact .ite (fun _ => reported.trans (breakPurge_follows _)) fun _ => reported
  · exact reported

theorem endBreak_follows {w : Work} (inBreak : w.line.state = .inBreak) : Work.Follows w (endBreak w) := by
  refine Work.Follows.trans ?_ ((writeLineStatus_busOnly _).trans (setCause_busOnly _ _)).follows
  refine (Work.Follows.refl w).restated (Work.sameFrame_restated rfl rfl rfl rfl rfl) fun _ sound => ?_
  have on := sound.offUnless (by rw [inBreak]; simp)
  have frame := sound.frame
  rw [inBreak] at frame
  exact ⟨sound.inForce, fun _ => on, by simpa using frame, by simp, by simp, sound.octet, sound.buffer, nofun, by simp⟩

theorem countBreak_follows (b : Bool) (w : Work) : Work.Follows w (countBreak b w).1 := by
  unfold countBreak
  split
  · next hunt =>
    dsimp only
    by_cases last : (if b then 0 else w.line.zeros + 1) = breakLength
    · rw [if_pos last]
      exact enterBreak_follows hunt _
    · rw [if_neg last]
      refine LineReceiver.BitsOnly.follows ⟨rfl, rfl, rfl, rfl, rfl, rfl, .inl rfl⟩ ⟨id, id, id, fun _ => id, fun _ few => ?_⟩
      dsimp only
      unfold breakLength at last
      split
      · omega
      · next zero => rw [if_neg zero] at last; omega
  · next inBreak =>
    split
    · exact endBreak_follows inBreak
    · exact .refl w
  · exact .refl w
  · exact .refl w

/-! ## Edges -/

theorem takeBit_follows (b : Bool) (w : Work) : Work.Follows w (takeBit b w).1 :=
  ((((countBreak_follows b w).trans (enterWindow_leaveWindow_follows b _)).trans (examineWindow_follows _))).trans
    (settleLanes_moves _).follows

theorem takeBits_follows (bits : List Bool) (w : Work) : Work.Follows w (takeBits bits w).1 := by
  induction bits generalizing w with
  | nil => exact .refl w
  | cons b rest ih => exact (takeBit_follows b w).trans (ih _)

theorem passBuffered_follows (w : Work) : Work.Follows w (passBuffered w).1 := by
  refine Work.Follows.trans ?_ (takeBits_follows _ _)
  exact LineReceiver.BitsOnly.follows ⟨rfl, rfl, rfl, rfl, rfl, rfl, .inl rfl⟩
    ⟨id, id, fun _ => by simp, fun _ _ => rfl, fun _ => id⟩

theorem decodeSample_follows (ldat : Bool) (w : Work) : Work.Follows w (decodeSample ldat w).2 := by
  unfold decodeSample
  split
  · exact LineReceiver.BitsOnly.follows ⟨rfl, rfl, rfl, rfl, rfl, rfl, .inl rfl⟩ ⟨id, id, id, fun _ => id, fun _ => id⟩
  · exact .refl w

theorem decodeSample_state (ldat : Bool) (w : Work) : (decodeSample ldat w).2.line.state = w.line.state := by
  unfold decodeSample
  split <;> rfl

theorem freeEdge_follows (ldat : Bool) (w : Work) : Work.Follows w (freeEdge ldat w).1 := by
  unfold freeEdge
  split
  · exact .refl w
  · exact ((decodeSample_follows ldat w).trans (passBuffered_follows _)).trans (takeBits_follows _ _)

theorem busyEdge_follows (ldat : Bool) (w : Work) : Work.Follows w (busyEdge ldat w) := by
  unfold busyEdge
  split
  · exact .refl w
  · next on =>
    have sampled := decodeSample_follows ldat w
    have state := decodeSample_state ldat w
    generalize decodeSample ldat w = decoded at sampled state
    obtain ⟨bit, w1⟩ := decoded
    refine sampled.trans ?_
    refine LineReceiver.BitsOnly.follows ⟨rfl, rfl, rfl, rfl, rfl, rfl, .inl rfl⟩
      ⟨id, id, fun few => ?_, fun off => absurd (state.symm.trans off) on, fun _ => id⟩
    dsimp only
    split
    · next room =>
      unfold bufferRoom at room
      rw [List.length_append]
      have one : bit.toList.length ≤ 1 := by cases bit <;> simp
      omega
    · exact few

theorem edgeWith_follows (e : LineEvent) (ldat : Bool) (w : Work) : Work.Follows w (edgeWith e ldat w) :=
  .ite (fun _ => freeEdge_follows ldat w) fun _ => .refl w

/-! ## On and off -/

theorem lineHunt_follows {w u : Work} (before : Work.Follows w u) (off : w.LineSound → u.line.state = .off)
    (on : u.port.lineOn = true) (running : u.port.engine = .running) : Work.Follows w (lineHunt u) := by
  refine Work.Follows.trans ?_ (writeLineStatus_busOnly _).follows
  refine before.restated (Work.sameFrame_restated rfl rfl rfl rfl rfl) fun was sound => ?_
  have frame := sound.frame
  have noBreak := sound.breakFlag
  rw [off was] at frame noBreak
  exact ⟨sound.inForce, fun _ => ⟨on, running⟩, by simpa using frame, by simpa using noBreak, by simp, by simp, sound.buffer, nofun,
    by simp⟩

end Sys2Proof.Machine

/-! The line's stop, LINE_ON, RUN and the end of a start: each keeps the invariants of the lanes, the line and the ranges. -/

namespace Sys2Proof.Machine

/-! ## The port changes -/

/-- Neither RUNNING nor STOPPING: no lane is ACTIVE and the line is OFF. -/
def EngineState.Rests (e : EngineState) : Prop := e ≠ .running ∧ e ≠ .stopping

theorem Work.LineSound.off_of_rests {w : Work} (h : w.LineSound) (rests : w.port.engine.Rests) : w.line.state = .off := by
  by_contra on
  exact rests.1 (h.offUnless on).2

theorem Work.LineSound.frame_none {w : Work} (h : w.LineSound) (off : w.line.state = .off) : w.line.frame = none := by
  have frame := h.frame
  rw [off] at frame
  simpa using frame

theorem Work.SpoolSound.samePort {w : Work} (h : w.SpoolSound) (p : Port) : ({ w with port := p } : Work).SpoolSound :=
  ⟨h.filling, h.pending, h.nodup, h.running, h.idle, h.holding, h.laneThree⟩

/-- The port changes in what no lane and no frame reads. -/
theorem Work.withPort_follows {w : Work} (p : Port)
    (one : w.OneActive → w.lanes.activeValid = true → p.engine = .running ∨ p.engine = .stopping)
    (line : w.LineSound → ({ w with port := p } : Work).LineSound) : Work.Follows w { w with port := p } where
  oneActive h := ⟨h.active, one h⟩
  lineSound := line
  spool _ _ h := h.samePort p
  ranged _ _ h := h.line h.lanes rfl
  draining _ := id

/-- The engine state and the fence stay as they were, and LINE_ON is 1 if it was (R172). -/
theorem Work.samePort_follows {w : Work} {p : Port} (engine : p.engine = w.port.engine) (fence : p.fence = w.port.fence)
    (lineOn : w.port.lineOn = true → p.lineOn = true) : Work.Follows w { w with port := p } := by
  refine w.withPort_follows p (fun h valid => by rw [engine]; exact h.engine valid) fun h => ?_
  refine ⟨by dsimp only; rw [engine, fence]; exact h.inForce, fun on => ?_, h.frame, h.breakFlag, h.window, h.octet, h.buffer,
    h.bufferOff, h.zeros⟩
  obtain ⟨on, running⟩ := h.offUnless on
  exact ⟨lineOn on, engine.trans running⟩

/-- The engine goes from one state of rest to another (R174, R177, R178). -/
theorem Work.resting_follows {w : Work} {p : Port} (was : w.port.engine.Rests) (rests : p.engine.Rests) :
    Work.Follows w { w with port := p } := by
  refine w.withPort_follows p (fun h valid => absurd (h.engine valid) (by simp [was.1, was.2])) fun h => ?_
  have off := h.off_of_rests was
  exact ⟨fun on => absurd on (by simp [rests.1, rests.2]), fun on => absurd off on, h.frame, h.breakFlag, h.window, h.octet,
    h.buffer, h.bufferOff, h.zeros⟩

/-! ## The line stops -/

/-- The line becomes OFF, with the frame, the bits and the break forgotten (R135). -/
def LineReceiver.stopped (l : LineReceiver) : LineReceiver :=
  { l with state := .off, frame := none, breakFlag := false, octetBits := [], buffer := [] }

theorem LineReceiver.stopped_restated (w : Work) : Work.Restated none w (w.modLine LineReceiver.stopped) :=
  ⟨rfl, rfl, rfl, rfl, rfl, rfl, rfl, nofun⟩

/-- The line stops as the port changes LINE_ON to 0 or the engine enters STOPPING (R135, R178). -/
theorem lineOff_follows {w : Work} {p : Port}
    (engine : p.engine = .running ∨ p.engine = .stopping ↔ w.port.engine = .running ∨ w.port.engine = .stopping)
    (fence : p.fence = w.port.fence) : Work.Follows w (lineOff { w with port := p }) := by
  have one (h : w.OneActive) : ({ w with port := p } : Work).OneActive := ⟨h.active, fun valid => engine.mpr (h.engine valid)⟩
  have inForce (h : w.LineSound) (e : p.engine = .running ∨ p.engine = .stopping) :
      w.line.settings.isSome ∧ w.line.spool.isSome ∧ p.fence.isSome := by
    rw [fence]
    exact h.inForce (engine.mp e)
  unfold lineOff
  dsimp only
  split
  · next off =>
    refine w.withPort_follows p (fun h valid => engine.mpr (h.engine valid)) fun h => ?_
    exact ⟨inForce h, fun on => absurd off on, h.frame, h.breakFlag, h.window, h.octet, h.buffer, h.bufferOff, h.zeros⟩
  · refine Work.Follows.trans ?_ (writeLineStatus_busOnly _).follows
    have acts (A : Prop) : Work.Acts A w.frameSlot { w with port := p } none (dropFrame { w with port := p }) :=
      frameSlotDone_acts (w := { w with port := p }) (f := fun k _ => changeSlot k .free) fun k _ _ _ => changeSlot_free_acts k _
    have stopped := LineReceiver.stopped_restated (dropFrame { w with port := p })
    exact {
      oneActive := fun h => ((acts True).oneActive (one h)).congr rfl rfl
      lineSound := fun h => by
        have stays := (acts True).lineStays
        refine ⟨fun e => ?_, nofun, by simp, by simp, by simpa [stays.window] using h.window, by simp, by simp, fun _ => rfl, nofun⟩
        have same : (dropFrame { w with port := p }).port.engine = p.engine := by
          rcases stays.engine with same | ⟨_, ends⟩
          · exact same
          · exact absurd e (by simp [ends.1, ends.2])
        have := inForce h (same ▸ e)
        rw [← stays.settings, ← stays.spool] at this
        refine ⟨this.1, this.2.1, ?_⟩
        show (dropFrame { w with port := p }).port.fence.isSome
        rw [stays.port]
        exact this.2.2
      spool := fun h _ spool => by
        rw [Work.spoolSound_iff] at spool ⊢
        have dropped := (acts w.OneActive).spoolOpen h (spool.congr (v := { w with port := p }) rfl rfl (.ofEq rfl))
        exact dropped.congr rfl rfl (.ofEq rfl)
      ranged := fun _ _ h => stopped.ranged ((acts True).ranged (h.line (v := { w with port := p }) h.lanes rfl))
      draining := fun n e => (acts True).draining n e }

theorem actOnLineOn_follows (value : Bool) (w : Work) :
    Work.Follows w (actOnLineOn value { w with port := { w.port with lineOn := value } }) := by
  cases value with
  | true =>
    have on : Work.Follows w { w with port := { w.port with lineOn := true } } := Work.samePort_follows rfl rfl fun _ => rfl
    unfold actOnLineOn
    rw [if_pos rfl]
    split
    · next may => exact lineHunt_follows on (fun _ => may.1) rfl may.2
    · exact on
  | false => exact lineOff_follows Iff.rfl rfl

/-! ## RUN -/

theorem actOnRun_follows (value : Bool) (w : Work) : Work.Follows w (actOnRun value w) := by
  have kept : Work.Follows w (w.modPort fun p => { p with run := value }) := Work.samePort_follows rfl rfl id
  unfold actOnRun
  dsimp only
  split
  · next e => exact Work.resting_follows (by rw [e]; exact ⟨nofun, nofun⟩) ⟨nofun, nofun⟩
  · next e =>
    refine Work.Follows.trans ?_ (settleLanes_moves _).follows
    exact lineOff_follows (p := { w.port with run := false, engine := .stopping }) (by simp [e]) rfl
  all_goals exact kept

/-! ## A reset -/

theorem laneOf_reset {w : Work} (h : w.lanes = LaneUnit.reset) (n : LaneNo) : w.laneOf n = Lane.reset := by
  unfold Work.laneOf
  rw [h]
  simp [LaneUnit.reset]

theorem slotOf_reset {w : Work} (h : w.line = LineReceiver.reset) (k : SlotNo) : w.slotOf k = .free := by
  unfold Work.slotOf
  rw [h]
  simp [LineReceiver.reset]

/-- The lanes, the line and the engine are as a reset leaves them (R185). -/
structure Work.AtReset (w : Work) : Prop where
  lanes : w.lanes = LaneUnit.reset
  line : w.line = LineReceiver.reset
  engine : w.port.engine = .halted

theorem Lane.reset_ranged : Lane.reset.Ranged :=
  .begins Context.defaults_legal ⟨nofun, nofun⟩ (by simp [Lane.reset, Progress.none]) rfl rfl rfl rfl

theorem Work.AtReset.oneActive {w : Work} (h : w.AtReset) : w.OneActive := by
  constructor
  · intro n
    rw [laneOf_reset h.lanes]
    simp [Work.activeLane, h.lanes, LaneUnit.reset, Lane.reset]
  · rw [h.lanes]
    nofun

theorem Work.AtReset.lineSound {w : Work} (h : w.AtReset) : w.LineSound := by
  constructor <;> simp [h.line, h.engine, LineReceiver.reset]

theorem Work.AtReset.spoolSound {w : Work} (h : w.AtReset) : w.SpoolSound := by
  constructor <;> simp only [slotOf_reset h.line, laneOf_reset h.lanes, h.line] <;>
    simp [LineReceiver.reset, Lane.reset, LaneState.holdsBlock]

theorem Work.AtReset.ranged {w : Work} (h : w.AtReset) : w.Ranged := by
  refine ⟨fun n => by rw [laneOf_reset h.lanes]; exact Lane.reset_ranged, ?_, ?_, ?_⟩ <;> simp [h.line, LineReceiver.reset]

theorem Work.AtReset.noneDraining {w : Work} (h : w.AtReset) : w.noneDraining := fun n => by
  rw [laneOf_reset h.lanes]
  nofun

theorem Work.AtReset.follows {w v : Work} (h : v.AtReset) : Work.Follows w v :=
  ⟨⟨fun _ => h.oneActive, fun _ => h.lineSound, fun _ _ _ => h.spoolSound, fun _ _ _ => h.ranged⟩,
    fun n e => absurd e (h.noneDraining n)⟩

/-! ## The spool reset -/

/-- Every slot is FREE and none is pending (R156). -/
structure Work.SpoolEmpty (w : Work) : Prop where
  free : ∀ k, w.slotOf k = .free
  pending : w.line.pendingSlots = []

theorem Work.SpoolEmpty.congr {w v : Work} (h : w.SpoolEmpty) (slots : v.line.slots = w.line.slots)
    (pending : v.line.pendingSlots = w.line.pendingSlots) : v.SpoolEmpty :=
  ⟨fun k => by unfold Work.slotOf; rw [slots]; exact h.free k, pending.trans h.pending⟩

theorem Work.SpoolEmpty.sameLine {w v : Work} (h : w.SpoolEmpty) (line : v.line = w.line) : v.SpoolEmpty :=
  h.congr (by rw [line]) (by rw [line])

theorem Work.SpoolEmpty.agree {w : Work} (h : w.SpoolEmpty) : w.SlotsAgree none :=
  ⟨fun k => by simp [h.free k], fun k => by simp [h.free k, h.pending], by simp [h.pending]⟩

theorem Work.SpoolEmpty.none_held {w : Work} (h : w.SpoolEmpty) : w.heldSlot = none := by
  unfold Work.heldSlot
  rw [h.pending]
  split <;> rfl

theorem Work.SpoolEmpty.queuedCleared {w : Work} (h : w.SpoolEmpty) : w.queuedCleared.SpoolEmpty :=
  ⟨fun k => by rw [Work.slotOf_queuedCleared h.agree]; simp [h.free k], by rw [queuedCleared_line]; simp [h.pending]⟩

theorem Work.Move.spoolEmpty {A : Prop} {w v : Work} (m : Work.Move A w v) (h : w.SpoolEmpty) : v.SpoolEmpty := by
  have notHeld {w : Work} {p : PendingSlot} (h : w.SpoolEmpty) (held : w.heldSlot = some p) : False := by
    rw [h.none_held] at held
    cases held
  cases m with
  | bus only => exact h.sameLine only.line
  | flags n f w only => exact h.sameLine rfl
  | leave n st a w host without => exact h.sameLine (by simp)
  | fetch n a w1 w2 w host => exact h.sameLine (by rw [Work.release_line]; rfl)
  | suspend n w active => exact h.sameLine (by rw [Work.release_line]; rfl)
  | activate n w ready free running => exact h.sameLine rfl
  | complete n w waits => exact h.sameLine rfl
  | count n w wait limit => exact h.sameLine rfl
  | stopped w stopping free => exact h.sameLine rfl
  | slotRuns p w held queued => exact (notHeld h held).elim
  | slotRetires p w v held freed => exact (notHeld h held).elim
  | slotLost p a w v held freed => exact (notHeld h held).elim
  | faulted a w none => exact h.sameLine (by simp)
  | stray w none => exact h.sameLine (by simp)
  | queuedFreed w v begun freed => exact h.queuedCleared.sameLine freed.line
  | queuedFreedIdle w v why freed => exact (h.queuedCleared.sameLine freed.line).sameLine (by simp)
  | purgeAsked w => exact h.congr rfl rfl

theorem Work.Moves.spoolEmpty {A : Prop} {w v : Work} (m : Work.Moves A w v) (h : w.SpoolEmpty) : v.SpoolEmpty :=
  m.keeps (fun _ _ m => m.spoolEmpty) h

theorem Work.Moves.lineStays {A : Prop} {w v : Work} (m : Work.Moves A w v) : Work.LineStays w v := (m.acts none).lineStays

theorem Work.LineStays.engine_eq {w v : Work} (h : Work.LineStays w v) (going : w.port.engine ≠ .stopping) :
    v.port.engine = w.port.engine := h.engine.resolve_right fun ends => going ends.1

/-- The slots are discarded (R156). -/
def LineReceiver.discarded (l : LineReceiver) : LineReceiver :=
  { l with slots := Vector.replicate 32 .free, pendingSlots := [], purgeRequested := false }

theorem Work.discarded_empty (w : Work) : (w.modLine LineReceiver.discarded).SpoolEmpty :=
  ⟨fun k => by simp [Work.slotOf, Work.modLine, LineReceiver.discarded], rfl⟩

/-- Lane 3 after the slots are discarded: FAULTED as it was, or IDLE (R156; log 28). -/
def Work.slotsDiscarded (w : Work) : Work :=
  if (w.laneOf 3).state = .faulted then w.modLine LineReceiver.discarded
  else (w.modLine LineReceiver.discarded).leaveBlock 3 .idle 0

theorem Work.slotsDiscarded_empty (w : Work) : w.slotsDiscarded.SpoolEmpty := by
  unfold Work.slotsDiscarded
  split
  · exact w.discarded_empty
  · exact w.discarded_empty.sameLine (by simp)

theorem Work.slotsDiscarded_spoolOpen (w : Work) : w.slotsDiscarded.SpoolOpen none := by
  have empty := w.discarded_empty
  have free (k : SlotNo) : (w.modLine LineReceiver.discarded).slotOf k ≠ .running := by simp [empty.free k]
  unfold Work.slotsDiscarded
  split
  · next faulted =>
    have lane : ((w.modLine LineReceiver.discarded).laneOf 3).state = .faulted := faulted
    exact ⟨empty.agree, fun k e => absurd e (free k), fun _ => rfl, fun e => by simp [lane, LaneState.holdsBlock] at e,
      by rw [lane]; simp⟩
  · exact empty.agree.leaveBlock free 0 (.inr ⟨rfl, rfl⟩)

/-- The slots are discarded while the line is OFF (R156). -/
theorem Work.slotsDiscarded_follows {w : Work} (rests : w.port.engine.Rests) : Work.Follows w w.slotsDiscarded := by
  have sound (h : w.LineSound) : w.slotsDiscarded.LineSound := by
    refine Work.LineStays.lineSound (w := w) ?_ h
    have discarded : Work.LineStays w (w.modLine LineReceiver.discarded) := .ofLine _ _ _ rfl rfl
    unfold Work.slotsDiscarded
    split
    · exact discarded
    · exact discarded.trans (Work.leaveBlock_lineStays _ _ _ _)
  have one (h : w.OneActive) : (w.modLine LineReceiver.discarded).OneActive := h.congr rfl rfl
  have ranged (h : w.Ranged) : (w.modLine LineReceiver.discarded).Ranged := h.congr h.lanes rfl rfl rfl nofun
  refine ⟨⟨fun h => ?_, sound, fun _ line _ => ?_, fun _ _ h => ?_⟩, fun n e => ?_⟩
  · unfold Work.slotsDiscarded
    split
    · exact one h
    · exact (one h).leaveBlock 3 (by simp) 0
  · have frame : w.slotsDiscarded.line.frame = none := by
      have none := line.frame_none (line.off_of_rests rests)
      unfold Work.slotsDiscarded
      split
      · exact none
      · rw [Work.leaveBlock_line]
        exact none
    rw [Work.spoolSound_iff]
    unfold Work.frameSlot
    rw [frame]
    exact w.slotsDiscarded_spoolOpen
  · unfold Work.slotsDiscarded
    split
    · exact ranged h
    · exact (ranged h).leaveBlock 3 rfl 0
  · unfold Work.slotsDiscarded at e
    split at e
    · exact e
    · rw [Work.laneOf_leaveBlock] at e
      split at e
      · cases e
      · exact e

/-- Lane 3's RUNNING slot has retired CANCELLED, if it had one (R156). -/
def Work.runningCancelled (w : Work) : Work := if w.lane3Running then retireSlot .cancelled w else w

section

variable {A : Prop}

theorem Work.runningCancelled_moves (w : Work) : Work.Moves A w w.runningCancelled :=
  .ite (fun _ => retireSlot_moves _ w) fun _ => .refl w

theorem discardOldSpool_moves (w : Work) : Work.Moves A w.runningCancelled.slotsDiscarded (discardOldSpool w) := by
  have same : discardOldSpool w = if (w.runningCancelled.laneOf 3).state = .faulted
      then w.runningCancelled.modLine LineReceiver.discarded
      else idleLane3 (w.runningCancelled.modLine LineReceiver.discarded) := rfl
  rw [same]
  unfold Work.slotsDiscarded
  split
  · exact .refl _
  · exact writeLaneRecord_moves 3 0 _

end

theorem discardOldSpool_empty (w : Work) : (discardOldSpool w).SpoolEmpty :=
  (discardOldSpool_moves (A := True) w).spoolEmpty (Work.slotsDiscarded_empty _)

theorem Work.slotsDiscarded_lineStays (w : Work) : Work.LineStays w w.slotsDiscarded := by
  have discarded : Work.LineStays w (w.modLine LineReceiver.discarded) := .ofLine _ _ _ rfl rfl
  unfold Work.slotsDiscarded
  split
  · exact discarded
  · exact discarded.trans (Work.leaveBlock_lineStays _ _ _ _)

theorem discardOldSpool_lineStays (w : Work) : Work.LineStays w (discardOldSpool w) :=
  (((w.runningCancelled_moves (A := True)).lineStays).trans (Work.slotsDiscarded_lineStays _)).trans
    (discardOldSpool_moves (A := True) w).lineStays

theorem Work.LineStays.rests {w v : Work} (h : Work.LineStays w v) (rests : w.port.engine.Rests) : v.port.engine.Rests := by
  rw [h.engine_eq rests.2]
  exact rests

theorem discardOldSpool_follows {w : Work} (rests : w.port.engine.Rests) : Work.Follows w (discardOldSpool w) :=
  (w.runningCancelled_moves.follows.trans
    (Work.slotsDiscarded_follows ((w.runningCancelled_moves (A := True)).lineStays.rests rests))).trans
      (discardOldSpool_moves w).follows

/-! ## The end of a start -/

/-- A FREE slot that becomes FREE again is as it was: only the bus is at work. -/
theorem changeSlot_free_busOnly {k : SlotNo} {w : Work} (free : w.slotOf k = .free) : Work.BusOnly w (changeSlot k .free w) := by
  have same : w.setSlot k .free = w := by
    have slots : w.line.slots.set k.val .free = w.line.slots := by
      rw [← free]
      exact Vector.set_getElem_self k.isLt
    unfold Work.setSlot
    rw [slots]
  have changed := changeSlot_busOnly k .free w
  rw [same] at changed
  exact changed

theorem freeAll_busOnly (l : List SlotNo) {w : Work} (free : ∀ k, w.slotOf k = .free) :
    Work.BusOnly w (l.foldl (fun w k => changeSlot k .free w) w) := by
  induction l generalizing w with
  | nil => exact .refl w
  | cons k rest ih =>
    have changed := changeSlot_free_busOnly (free k)
    exact changed.trans (ih fun j => by rw [changed.slotOf]; exact free j)

/-- The geometry comes into force with the spool empty and the line OFF (R156). -/
theorem freshSpool_follows {sp : Spool} {w : Work} (empty : w.SpoolEmpty) (legal : sp.Legal) (rests : w.port.engine.Rests) :
    Work.Follows w (freshSpool sp w) := by
  have inForce : Work.Follows w (w.modLine fun l => { l with spool := some sp }) := by
    refine ⟨⟨fun h => h.congr rfl rfl, fun h => ?_, fun _ _ h => ?_, fun _ line h => ?_⟩, fun _ => id⟩
    · exact ⟨fun e => absurd e (by simp [rests.1, rests.2]), h.offUnless, h.frame, h.breakFlag, h.window, h.octet, h.buffer,
        h.bufferOff, h.zeros⟩
    · exact ⟨h.filling, h.pending, h.nodup, h.running, h.idle, h.holding, h.laneThree⟩
    · have none := line.frame_none (line.off_of_rests rests)
      refine ⟨h.lanes, fun x e => Option.some.inj e ▸ legal, fun f e => ?_, fun p mem => ?_⟩
      · exact absurd (none.symm.trans e) nofun
      · rw [Work.modLine_line, empty.pending] at mem
        cases mem
  have freed := freeAll_busOnly sp.slots (w := w.modLine fun l => { l with spool := some sp }) empty.free
  have last (u : Work) : Work.Follows u (u.modLine fun l => { l with expected := none }) :=
    (aside_acts u.frameSlot (by constructor <;> rfl) (.refl _)).follows (fun _ => rfl) rfl
  exact (inForce.trans freed.follows).trans (last _)

theorem freshSpool_spool (sp : Spool) {w : Work} (empty : w.SpoolEmpty) : (freshSpool sp w).line.spool = some sp := by
  have freed := freeAll_busOnly sp.slots (w := w.modLine fun l => { l with spool := some sp }) empty.free
  exact congrArg LineReceiver.spool freed.line

theorem freshSpool_same (sp : Spool) {w : Work} (empty : w.SpoolEmpty) :
    (freshSpool sp w).line.settings = w.line.settings ∧ (freshSpool sp w).port = w.port := by
  have freed := freeAll_busOnly sp.slots (w := w.modLine fun l => { l with spool := some sp }) empty.free
  have settings := congrArg LineReceiver.settings freed.line
  exact ⟨settings, freed.port⟩

/-- What a start has brought into force before the engine is RUNNING (R176). -/
structure Work.Started (w : Work) : Prop where
  rests : w.port.engine.Rests
  settings : w.line.settings.isSome
  spool : w.line.spool.isSome
  fence : w.port.fence.isSome

theorem takeGeometry_follows {sp : Spool} {w : Work} (legal : sp.Legal) (rests : w.port.engine.Rests) :
    Work.Follows w (takeGeometry sp w) :=
  .ite (fun _ => .refl w) fun _ => (discardOldSpool_follows rests).trans
    (freshSpool_follows (discardOldSpool_empty w) legal ((discardOldSpool_lineStays w).rests rests))

theorem takeGeometry_started {sp : Spool} {w : Work} (rests : w.port.engine.Rests) (settings : w.line.settings.isSome)
    (fence : w.port.fence.isSome) : (takeGeometry sp w).Started := by
  unfold takeGeometry
  split
  · next same => exact ⟨rests, settings, by rw [same]; rfl, fence⟩
  · have empty := discardOldSpool_empty w
    have stays := discardOldSpool_lineStays w
    obtain ⟨sameSettings, samePort⟩ := freshSpool_same sp empty
    refine ⟨by rw [samePort]; exact stays.rests rests, by rw [sameSettings, stays.settings]; exact settings,
      by rw [freshSpool_spool sp empty]; rfl, ?_⟩
    rw [samePort, stays.port]
    exact fence

theorem Work.Started.bus {w v : Work} (h : w.Started) (only : Work.BusOnly w v) : v.Started :=
  ⟨by rw [only.port]; exact h.rests, by rw [only.line]; exact h.settings, by rw [only.line]; exact h.spool,
    by rw [only.port]; exact h.fence⟩

/-- Entry into RUNNING (R176). -/
theorem enterRunning_follows {w : Work} (started : w.Started) : Work.Follows w (enterRunning w) := by
  have entered : Work.Follows w (w.modPort fun p => { p with engine := .running }) := by
    refine w.withPort_follows _ (fun _ _ => .inl rfl) fun h => ?_
    have off := h.off_of_rests started.rests
    exact ⟨fun _ => ⟨started.settings, started.spool, started.fence⟩, fun on => absurd off on, h.frame, h.breakFlag, h.window,
      h.octet, h.buffer, h.bufferOff, h.zeros⟩
  have acted {A : Prop} := actOnAllPending_moves (A := A) (w.modPort fun p => { p with engine := .running })
  have running : (actOnAllPending (w.modPort fun p => { p with engine := .running })).port.engine = .running :=
    (acted (A := True)).lineStays.engine_eq (by simp)
  have before := entered.trans acted.follows
  unfold enterRunning
  dsimp only
  refine Work.Follows.trans ?_ (settleLanes_moves _).follows
  split
  · next on =>
    refine lineHunt_follows before (fun h => ?_) on running
    rw [(acted (A := True)).lineStays.state]
    exact h.off_of_rests started.rests
  · exact before

theorem Settings.failedCheck_none {t : Settings} (h : t.failedCheck = none) : t.spool.Legal := by
  unfold Settings.failedCheck at h
  split at h
  · cases h
  · split at h
    · cases h
    · split at h
      · cases h
      · next ok =>
        simp only [Settings.spoolOk, Bool.not_eq_false, Bool.and_eq_true, decide_eq_true_eq] at ok
        obtain ⟨⟨⟨⟨⟨⟨⟨two, most⟩, whole⟩, least⟩, size⟩, base⟩, _⟩, _⟩ := ok
        exact ⟨two, most, whole, least, size, base⟩

/-- The fence and the line settings come into force with the line OFF (R176). -/
theorem settingsInForce_follows (t : Settings) {w : Work} (rests : w.port.engine.Rests) :
    Work.Follows w ((w.modPort fun p => { p with fence := some { low := t.fenceLow, high := t.fenceHigh } }).modLine
      fun l => { l with settings := some t.line }) := by
  refine ⟨⟨fun h => h.congr rfl rfl, fun h => ?_, fun _ _ h => ?_, fun _ line h => ?_⟩, fun _ => id⟩
  · exact ⟨fun e => absurd e (by simp [rests.1, rests.2]), h.offUnless, h.frame, h.breakFlag, h.window, h.octet, h.buffer,
      h.bufferOff, h.zeros⟩
  · exact ⟨h.filling, h.pending, h.nodup, h.running, h.idle, h.holding, h.laneThree⟩
  · have none := line.frame_none (line.off_of_rests rests)
    exact ⟨h.lanes, h.spool, fun f e => absurd (none.symm.trans e) nofun, h.pendingSlots⟩

theorem completeStart_follows {t : Settings} (late : Option Bool) {w : Work} (legal : t.spool.Legal)
    (rests : w.port.engine.Rests) : Work.Follows w (completeStart t late w) := by
  have inForce := settingsInForce_follows t rests
  have geometry := inForce.trans (takeGeometry_follows legal rests)
  have started := takeGeometry_started (sp := t.spool) (w := (w.modPort fun p =>
    { p with fence := some { low := t.fenceLow, high := t.fenceHigh } }).modLine fun l => { l with settings := some t.line })
    rests rfl rfl
  have header (u : Work) : Work.BusOnly u (writeLineStatus (writeHeader .none u)) :=
    (writeStationList_busOnly _ _ _ _).trans (writeLineStatus_busOnly _)
  have written := geometry.trans (header _).follows
  replace started := started.bus (header _)
  unfold completeStart
  dsimp only
  generalize writeLineStatus (writeHeader .none (takeGeometry t.spool _)) = u at written started
  have looked : Work.Follows w (u.modPort fun p => { p with run := late.getD p.run }) :=
    written.trans (Work.resting_follows started.rests started.rests)
  split
  · exact looked.trans (enterRunning_follows ⟨started.rests, started.settings, started.spool, started.fence⟩)
  · exact looked.trans (Work.resting_follows started.rests ⟨nofun, nofun⟩)

theorem failStart_follows (reason : SetupReason) {w : Work} (rests : w.port.engine.Rests) :
    Work.Follows w (failStart reason w) := by
  have header : Work.BusOnly w (writeHeader reason w) := writeStationList_busOnly _ _ _ _
  refine header.follows.trans ((Work.resting_follows (p := { (writeHeader reason w).port with run := false, engine := .halted })
    (by rw [header.port]; exact rests) ⟨nofun, nofun⟩).trans ?_)
  exact (setCause_busOnly .setup _).follows

theorem endSettingsRead_follows (late : Option Bool) {s : State} (starting : s.work.port.engine = .starting) :
    Work.Follows s.work (endSettingsRead late s).work := by
  have read := readStationList_busOnly .engine none (wordRun (s.work.exchange 0x20) 16) s.work
  unfold endSettingsRead
  split
  next result w1 e =>
  rw [e] at read
  have rests : w1.port.engine.Rests := by rw [read.port, starting]; exact ⟨nofun, nofun⟩
  split
  · exact read.follows.trans (Work.resting_follows rests ⟨nofun, nofun⟩)
  · split
    · exact read.follows.trans (failStart_follows .memory rests)
    · unfold checkSettings
      split
      · exact read.follows.trans (failStart_follows _ rests)
      · next pass => exact read.follows.trans (completeStart_follows late (Settings.failedCheck_none pass) rests)

end Sys2Proof.Machine

/-! The panel's events and the records at the lanes and the line: each event keeps the invariants of this half; with it the steps keep
at most one lane ACTIVE and the line, the slots and lane 3 in agreement. -/

namespace Sys2Proof.Machine

/-! ## What an entry into settled does to the lanes -/

theorem enterFaulted_laneOf_other {n m : LaneNo} (ne : m ≠ n) (r : LaneFaultReason) (a : Addr) (b : Bool) (w : Work) :
    (enterFaulted n r a b w).laneOf m = w.laneOf m := by
  have freed : (if n = 3 then freeHeldSlot w else w).laneOf m = w.laneOf m := by
    split
    · cases held : w.heldSlot with
      | none => rw [freeHeldSlot_of_none held]
      | some p => exact (freeHeldSlot_of_held held).laneOf m
    · rfl
  rw [(enterFaulted_busOnly n r a b w).laneOf, Work.laneOf_leaveBlock, if_neg ne, freed]

theorem writeLaneRecord_laneOf_other {n m : LaneNo} (ne : m ≠ n) (retired : Addr) (w : Work) :
    (writeLaneRecord n retired w).laneOf m = w.laneOf m := by
  obtain only | ⟨v, a, only, e⟩ := writeLaneRecord_cases n retired w
  · exact only.laneOf m
  · rw [e, enterFaulted_laneOf_other ne]
    exact only.laneOf m

theorem completeDrain_laneOf {n m : LaneNo} {w : Work} (going : (w.laneOf m).state ≠ .draining) :
    (completeDrain n w).laneOf m = w.laneOf m := by
  unfold completeDrain
  split
  · next drains =>
    have ne : m ≠ n := by rintro rfl; exact going drains
    unfold completeWaiting
    rw [writeLaneRecord_laneOf_other ne, Work.laneOf_modLane_other _ _ _ _ ne]
  · rfl

theorem completeDrains_laneOf {m : LaneNo} {w : Work} (going : (w.laneOf m).state ≠ .draining) :
    (completeDrains w).laneOf m = w.laneOf m := by
  have fold : ∀ (l : List LaneNo) (v : Work), (v.laneOf m).state ≠ .draining →
      (l.foldl (fun w n => completeDrain n w) v).laneOf m = v.laneOf m := by
    intro l
    induction l with
    | nil => exact fun _ _ => rfl
    | cons n rest ih =>
      intro v going
      have first := completeDrain_laneOf (n := n) going
      rw [List.foldl_cons, ih _ (by rw [first]; exact going), first]
  exact fold _ _ going

/-- The lane unit made moves, and every lane that waits in no DRAIN is as it was. -/
structure Work.Drained (w v : Work) : Prop where
  moves : ∀ A, Work.Moves A w v
  others : ∀ n, (w.laneOf n).state ≠ .draining → v.laneOf n = w.laneOf n

theorem Work.Drained.refl (w : Work) : Work.Drained w w := ⟨fun _ => .refl w, fun _ _ => rfl⟩

theorem Work.Drained.trans {a b c : Work} (h : Work.Drained a b) (k : Work.Drained b c) : Work.Drained a c :=
  ⟨fun A => (h.moves A).trans (k.moves A), fun n going => by
    have same := h.others n going
    rw [← same]
    exact k.others n (by rw [same]; exact going)⟩

theorem Work.BusOnly.drained {w v : Work} (h : Work.BusOnly w v) : Work.Drained w v :=
  ⟨fun _ => h.moves, fun n _ => h.laneOf n⟩

theorem Work.Drained.follows {w v : Work} (h : Work.Drained w v) : Work.Follows w v := (h.moves _).follows

theorem completeDrains_drained (w : Work) : Work.Drained w (completeDrains w) :=
  ⟨fun _ => completeDrains_moves w, fun _ going => completeDrains_laneOf going⟩

theorem settledEntry_drained (s : State) : Work.Drained s.work (settledEntry s).work := by
  rw [settledEntry, State.onWork_work]
  exact (setCause_busOnly .settled s.work).drained.trans (completeDrains_drained (setCause .settled s.work))

theorem noteSettled_drained (s : State) : Work.Drained s.work (noteSettled s).work := by
  unfold noteSettled
  dsimp only
  split
  · exact settledEntry_drained _
  · exact .refl s.work

theorem changePanel_drained (f : Panel → Panel) (s : State) : Work.Drained s.work (changePanel f s).work :=
  noteSettled_drained (s.onPanel f)

theorem startTest_drained (s : State) : Work.Drained s.work (startTest s).work := changePanel_drained _ s

theorem changeTarget_drained (f : Panel → Panel) (s : State) : Work.Drained s.work (changeTarget f s).work := by
  unfold changeTarget
  dsimp only
  split
  · exact (changePanel_drained f s).trans (startTest_drained _)
  · exact changePanel_drained f s

/-! ## The panel's events -/

theorem endPanelEvent_follows (s : State) : Work.Follows s.work (endPanelEvent s).work := (settleLanes_moves _).follows

theorem reportDriveFault_busOnly (kind : DriveFaultKind) (row : Nat) (pulse : Pulse) (w : Work) :
    Work.BusOnly w (reportDriveFault kind row pulse w) := by
  have read := readStation_busOnly .engine none (w.exchange 0x60) w
  unfold reportDriveFault
  split <;> rename_i e <;> rw [e] at read
  · refine Work.BusOnly.trans ?_ (setCause_busOnly _ _)
    split
    · exact read.trans (writeStationList_busOnly _ _ _ _)
    · exact read
  · exact read.trans (setCause_busOnly _ _)

theorem faultRowPulse_drained (kind : DriveFaultKind) (pulse : Pulse) (r : Row) (s : State) :
    Work.Drained s.work (faultRowPulse kind pulse r s).work :=
  (changePanel_drained _ s).trans (reportDriveFault_busOnly kind r.val pulse _).drained

theorem faultBulkPulse_drained (kind : DriveFaultKind) (pulse : Pulse) (s : State) :
    Work.Drained s.work (faultBulkPulse kind pulse s).work := by
  rw [faultBulkPulse, State.onWork_work]
  exact (changePanel_drained Panel.faultBulk s).trans (reportDriveFault_busOnly kind 0 pulse _).drained

theorem resumeDriver_drained (s : State) : Work.Drained s.work (resumeDriver s).work := by
  unfold resumeDriver
  split
  · exact startTest_drained (s.onPanel _)
  · exact .refl _

theorem supplyFailed_drained (s : State) : Work.Drained s.work (supplyFailed s).work :=
  (changePanel_drained _ s).trans (setCause_busOnly _ _).drained

theorem supplyReady_drained (s : State) : Work.Drained s.work (supplyReady s).work := (setCause_busOnly .supply s.work).drained

theorem supplyOff_follows (s : State) : Work.Follows s.work (supplyOff s).work :=
  (changePanel_drained _ s).follows.trans (endPanelEvent_follows _)

theorem actOnPanelOn_follows (value : Bool) (s : State) : Work.Follows s.work (actOnPanelOn value s).work := by
  by_cases off : s.panel.supply.state = .off <;> cases value
  · rw [actOnPanelOn_false_of_off off]; exact .refl _
  · rw [actOnPanelOn_true_of_off off]; exact .refl _
  · rw [actOnPanelOn_false_of_ne_off off]; exact supplyOff_follows s
  · rw [actOnPanelOn_true_of_ne_off off]; exact .refl _

theorem riseSupok_follows (s : State) : Work.Follows s.work (riseSupok s).work := by
  unfold riseSupok
  dsimp only
  split
  · exact ((supplyReady_drained (s.onPanel (Panel.setSupok true))).trans (startTest_drained _)).follows.trans
      (endPanelEvent_follows _)
  · exact .refl _

theorem fallSupok_follows (s : State) : Work.Follows s.work (fallSupok s).work := by
  unfold fallSupok
  dsimp only
  split
  · exact (supplyFailed_drained (s.onPanel (Panel.setSupok false))).follows.trans (endPanelEvent_follows _)
  · exact .refl _

/-! ## Ticks -/

theorem tickSupply_follows (s : State) : Work.Follows s.work (tickSupply s).work := by
  unfold tickSupply
  split
  · exact (supplyReady_drained s).follows
  · split
    · exact (supplyFailed_drained s).follows
    · exact .refl _

theorem tickDriver_follows (s : State) : Work.Follows s.work (tickDriver s).work := by
  unfold tickDriver
  split
  · split
    · exact (faultRowPulse_drained _ _ _ s).follows
    · exact .refl _
  · split
    · exact (faultBulkPulse_drained _ _ s).follows
    · exact .refl _
  · exact .refl _

theorem tickMarkers_follows (s : State) : Work.Follows s.work (tickMarkers s).work := by
  unfold tickMarkers
  split
  · exact (changePanel_drained _ s).follows
  · exact .refl _

/-- A change of the timebase touches no lane and no frame. -/
theorem Work.withTime_follows (w : Work) (t : Timebase) : Work.Follows w { w with time := t } :=
  (Work.Follows.refl w).restated ⟨rfl, rfl, rfl, rfl, rfl, rfl, rfl, fun h => h.frame⟩ fun _ h =>
    ⟨h.inForce, h.offUnless, h.frame, h.breakFlag, h.window, h.octet, h.buffer, h.bufferOff, h.zeros⟩

theorem takeTick_follows (b : TickBlock) (s : State) : Work.Follows s.work (takeTick b s).work := by
  cases b with
  | clock => exact s.work.withTime_follows _
  | lanes => exact (tickLanes_moves _).follows
  | markers => exact tickMarkers_follows s
  | driver => exact tickDriver_follows s
  | supply => exact tickSupply_follows s
  | hold => exact Work.samePort_follows rfl rfl id

theorem finishTick_follows (before : State) (rest : List TickBlock) (s : State) :
    Work.Follows s.work (finishTick before rest s).work := by
  have fold : ∀ (l : List TickBlock) (t : State), Work.Follows t.work (l.foldl (fun t b => takeTick b t) t).work := by
    intro l
    induction l with
    | nil => exact fun t => .refl _
    | cons b rest ih => exact fun t => (takeTick_follows b t).trans (ih _)
  unfold finishTick
  dsimp only
  refine (fold rest s).trans (Work.Follows.trans ?_ (endPanelEvent_follows _))
  split
  · exact (startTest_drained _).follows
  · exact .refl _

theorem tickAll_follows (s : State) : Work.Follows s.work (tickAll s).work := finishTick_follows _ _ _

theorem expiry_follows (comes : State → Bool) (b : TickBlock) (s : State) : Work.Follows s.work (expiry comes b s).work := by
  unfold expiry
  split
  · exact finishTick_follows _ _ _
  · exact .refl _

theorem referenceEdge_follows (s : State) : Work.Follows s.work (referenceEdge s).work := by
  unfold referenceEdge
  split
  · exact s.work.withTime_follows _
  · split
    · exact s.work.withTime_follows _
    · exact tickAll_follows s

theorem idle_follows (s : State) : Work.Follows s.work (idle s).work := by
  unfold idle
  split
  · exact .refl _
  · exact ((passBuffered_follows s.work).trans (settleLanes_moves _).follows).trans
      (referenceEdge_follows (s.onWork fun w => settleLanes (passBuffered w).1))

/-! ## A record under way -/

/-- The lanes, the line and the ranges are sound. -/
structure Work.Fit (w : Work) : Prop where
  oneActive : w.OneActive
  lineSound : w.LineSound
  ranged : w.Ranged

theorem Work.Evolves.fit {w v : Work} (h : Work.Evolves w v) (fit : w.Fit) : v.Fit :=
  ⟨h.oneActive fit.oneActive, h.lineSound fit.lineSound, h.ranged fit.oneActive fit.lineSound fit.ranged⟩

/-- Moves under what the event began with. -/
theorem Work.Evolves.moves {w u v : Work} (h : Work.Evolves w u) (m : Work.Moves w.OneActive u v) : Work.Evolves w v where
  oneActive one := (m.acts none).oneActive (h.oneActive one)
  lineSound line := m.lineStays.lineSound (h.lineSound line)
  spool one line spool := by
    have before := (Work.spoolSound_iff u).mp (h.spool one line spool)
    rw [Work.spoolSound_iff]
    have same : v.frameSlot = u.frameSlot := by unfold Work.frameSlot; rw [m.frame]
    rw [same]
    exact (m.acts u.frameSlot).spoolOpen one before
  ranged one line ranged := (m.acts none).ranged (h.ranged one line ranged)

/-- A lane changes, but not its state. -/
theorem Work.Evolves.modLane {w u : Work} (h : Work.Evolves w u) (n : LaneNo) (f : Lane → Lane)
    (state : (f (u.laneOf n)).state = (u.laneOf n).state) (ranged : w.Fit → (f (u.laneOf n)).Ranged) :
    Work.Evolves w (u.modLane n f) where
  oneActive one := (h.oneActive one).modLane n f (by rw [state])
  lineSound line := (Work.LineStays.sameLine (w := u) (v := u.modLane n f) rfl rfl).lineSound (h.lineSound line)
  spool one line spool := by
    have before := (Work.spoolSound_iff u).mp (h.spool one line spool)
    rw [Work.spoolSound_iff]
    exact before.modLane n f fun e => .ofEq (by subst e; exact state)
  ranged one line fit := (h.ranged one line fit).modLane n f (ranged ⟨one, line, fit⟩)

/-- The engine carries out a record of lane `n` in an event that began with `w`: the lane is ACTIVE, its words are read, and `hand` is
the record it has in hand. -/
structure Work.OnRecord (w : Work) (n : LaneNo) (hand : Option RecordInHand) (u : Work) : Prop where
  evolves : Work.Evolves w u
  active : w.OneActive → (u.laneOf n).state = .active
  hand : w.Fit → (u.laneOf n).progress.inHand = hand
  taken : w.Fit → (u.laneOf n).progress.ordinal < (u.laneOf n).progress.nextWord

section

variable {w u v : Work} {n : LaneNo} {hand : Option RecordInHand}

/-- Where the lane's block stays as it was, the record goes on. -/
theorem Work.OnRecord.step (on : w.OnRecord n hand u) (evolves : Work.Evolves w v)
    (state : w.OneActive → (v.laneOf n).state = (u.laneOf n).state)
    (inHand : w.Fit → (v.laneOf n).progress.inHand = (u.laneOf n).progress.inHand)
    (words : w.Fit → (v.laneOf n).progress.ordinal = (u.laneOf n).progress.ordinal ∧
      (v.laneOf n).progress.nextWord = (u.laneOf n).progress.nextWord) : w.OnRecord n hand v where
  evolves := evolves
  active one := (state one).trans (on.active one)
  hand fit := (inHand fit).trans (on.hand fit)
  taken fit := by
    obtain ⟨ordinal, nextWord⟩ := words fit
    rw [ordinal, nextWord]
    exact on.taken fit

theorem Work.OnRecord.drained (on : w.OnRecord n hand u) (drained : Work.Drained u v) : w.OnRecord n hand v := by
  have same (one : w.OneActive) : v.laneOf n = u.laneOf n := drained.others n (by rw [on.active one]; nofun)
  exact on.step (on.evolves.moves (drained.moves _)) (fun one => by rw [same one]) (fun fit => by rw [same fit.oneActive])
    fun fit => by rw [same fit.oneActive]; exact ⟨rfl, rfl⟩

/-- The context of the lane takes values of its ranges. -/
theorem Work.OnRecord.context (on : w.OnRecord n hand u) (f : Context → Context) (legal : ∀ c : Context, c.Legal → (f c).Legal) :
    w.OnRecord n hand (u.modLane n fun l => { l with context := f l.context }) := by
  have evolves := on.evolves.modLane n (fun l => { l with context := f l.context }) rfl fun fit => by
    have before := (on.evolves.fit fit).ranged.lanes n
    exact ⟨legal _ before.context, before.inHand, before.waits, before.limits, before.progress.cells, before.progress.body,
      before.progress.nextWord, before.progress.ordinal, before.progress.stopped⟩
  refine on.step evolves ?_ ?_ ?_ <;> simp

/-- Cells changed are counted (R89). -/
theorem Work.OnRecord.counted (on : w.OnRecord n hand u) (cells : Nat) :
    w.OnRecord n hand (u.modLane n fun l => { l with progress := { l.progress with cells := saturate16 l.progress.cells cells } }) := by
  have evolves := on.evolves.modLane n
    (fun l => { l with progress := { l.progress with cells := saturate16 l.progress.cells cells } }) rfl fun fit => by
    have before := (on.evolves.fit fit).ranged.lanes n
    exact ⟨before.context, before.inHand, before.waits, before.limits, by simp [saturate16], before.progress.body,
      before.progress.nextWord, before.progress.ordinal, before.progress.stopped⟩
  refine on.step evolves ?_ ?_ ?_ <;> simp

/-- The block ends at this record (R88). -/
theorem Work.OnRecord.ends (on : w.OnRecord n hand u) (o : BlockOutcome) : Work.Evolves w (settleLanes (retire n o u)) :=
  on.evolves.moves ((retire_moves n o u).trans (settleLanes_moves _))

/-- The point after what a record has done (R69). -/
theorem Work.Evolves.point (h : Work.Evolves w u) (active : w.OneActive → (u.laneOf n).state = .active) :
    Work.Evolves w (settleLanes (preemptionPoint n u)) :=
  h.moves ((preemptionPoint_moves active).trans (settleLanes_moves _))

/-- The record is complete, and the point after it is taken (R69, R87). -/
theorem Work.OnRecord.completes (on : w.OnRecord n hand u) : Work.Evolves w (settleLanes (preemptionPoint n
    (u.modLane n fun l => { l with progress := { l.progress with ordinal := l.progress.ordinal + 1, inHand := none } }))) := by
  have evolves := on.evolves.modLane n
    (fun l => { l with progress := { l.progress with ordinal := l.progress.ordinal + 1, inHand := none } }) rfl fun fit => by
    have before := (on.evolves.fit fit).ranged.lanes n
    have active := on.active fit.oneActive
    have taken := on.taken fit
    refine ⟨before.context, nofun, before.waits, before.limits, before.progress.cells, before.progress.body,
      before.progress.nextWord, ?_, fun _ => rfl⟩
    simp only [active, Option.isSome_none, Bool.false_eq_true, reduceCtorEq, or_self, if_false]
    omega
  exact evolves.point fun one => by rw [Work.laneOf_modLane_same]; exact on.active one

/-- The record goes on at its next row or octet, with what is kept in hand (R69, R74). -/
theorem Work.OnRecord.suspends (on : w.OnRecord n hand u) (r : RecordInHand) (legal : w.Fit → r.Legal) :
    Work.Evolves w (settleLanes (preemptionPoint n
      (u.modLane n fun l => { l with progress := { l.progress with inHand := some r } }))) := by
  have evolves := on.evolves.modLane n (fun l => { l with progress := { l.progress with inHand := some r } }) rfl fun fit => by
    have before := (on.evolves.fit fit).ranged.lanes n
    have active := on.active fit.oneActive
    have taken := on.taken fit
    refine ⟨before.context, fun x e => Option.some.inj e ▸ legal fit, before.waits, before.limits, before.progress.cells,
      before.progress.body, before.progress.nextWord, ?_, fun e => ?_⟩
    · simp only [Option.isSome_some, true_or, if_true]
      omega
    · dsimp only at e
      rw [active] at e
      exact absurd e (by simp)
  exact evolves.point fun one => by rw [Work.laneOf_modLane_same]; exact on.active one

/-- The lane stops at its WAIT or DRAIN and gives the engine back (R64, R65). -/
theorem Work.OnRecord.stops (on : w.OnRecord n none u) {st : LaneState} {f : Progress → Progress}
    (waits : st = .waiting ∨ st = .draining)
    (same : ∀ p : Progress, (f p).cells = p.cells ∧ (f p).bodyLength = p.bodyLength ∧ (f p).nextWord = p.nextWord ∧
      (f p).ordinal = p.ordinal ∧ (f p).inHand = p.inHand)
    (count : ∀ p : Progress, st = .waiting → 1 ≤ (f p).waitCount ∧ (f p).waitCount ≤ 65535)
    (limit : ∀ (p : Progress) (k : Nat), st = .draining → (f p).limit = some k → 1 ≤ k ∧ k ≤ 65535) :
    Work.Evolves w (settleLanes (writeLaneRecord n 0
      ((u.modLane n fun l => { l with state := st, progress := f l.progress }).release n))) := by
  refine Work.Evolves.moves ?_ ((writeLaneRecord_moves n 0 _).trans (settleLanes_moves _))
  have holds : st.holdsBlock = true := by rcases waits with rfl | rfl <;> rfl
  obtain ⟨cells, body, nextWord, ordinal, inHand⟩ := same (u.laneOf n).progress
  refine ⟨fun one => ?_, fun line => ?_, fun one line spool => ?_, fun one line ranged => ?_⟩
  · exact (on.evolves.oneActive one).givenBack n _ (by rcases waits with rfl | rfl <;> nofun)
  · exact (Work.LineStays.sameLine (w := u) (by rw [Work.release_line]; rfl) (by rw [Work.release_port]; rfl)).lineSound
      (on.evolves.lineSound line)
  · have before := (Work.spoolSound_iff u).mp (on.evolves.spool one line spool)
    have slot : ((u.modLane n fun l => { l with state := st, progress := f l.progress }).release n).frameSlot = u.frameSlot := by
      unfold Work.frameSlot; rw [Work.release_line]; rfl
    rw [Work.spoolSound_iff, slot]
    exact (before.modLane n _ fun e => .ofHolds (by subst e; rw [on.active one]; rfl) holds).released n
  · have fit : w.Fit := ⟨one, line, ranged⟩
    have before := (on.evolves.fit fit).ranged
    have lane := before.lanes n
    have none := on.hand fit
    have taken := on.taken fit
    refine (before.modLane n _ ⟨lane.context, fun r e => ?_, count _, limit _, ?_⟩).released n
    · dsimp only at e
      rw [inHand, none] at e
      cases e
    · refine ⟨by dsimp only; rw [cells]; exact lane.progress.cells, by dsimp only; rw [body]; exact lane.progress.body,
        by dsimp only; rw [nextWord, body]; exact lane.progress.nextWord, ?_, fun _ => by dsimp only; rw [inHand, none]⟩
      dsimp only
      rw [nextWord, ordinal]
      split <;> omega

end

end Sys2Proof.Machine

/-! The sixteen records at the lanes and the line, every command and every step; with it at most one lane ACTIVE, and the line, the
slots and lane 3 in agreement. -/

namespace Sys2Proof.Machine

section

variable {w : Work} {n : LaneNo} {hand : Option RecordInHand}

/-! ## What the records share -/

theorem changeTarget_onRecord {s : State} (on : w.OnRecord n hand s.work) (f : Panel → Panel) :
    w.OnRecord n hand (changeTarget f s).work := on.drained (changeTarget_drained f s)

theorem drawRows_onRecord {s : State} (on : w.OnRecord n hand s.work) (rows : List PaintedRow) :
    w.OnRecord n hand (drawRows n rows s).work := (changeTarget_onRecord on _).counted _

theorem modContext_onRecord {s : State} (on : w.OnRecord n hand s.work) {f : Context → Context}
    (legal : ∀ c : Context, c.Legal → (f c).Legal) : w.OnRecord n hand (modContext n f s).work := on.context f legal

theorem completeRecord_evolves {s : State} (on : w.OnRecord n hand s.work) : Work.Evolves w (completeRecord n s).work :=
  on.completes

theorem endBlock_evolves {s : State} (on : w.OnRecord n hand s.work) (o : BlockOutcome) :
    Work.Evolves w (endBlock n o s).work := on.ends o

/-- After row or octet `k` the record is complete, or goes on with what is kept in hand. -/
theorem afterRow_evolves {s : State} (on : w.OnRecord n hand s.work) {h k : Nat} {next : Nat → RecordInHand}
    (legal : w.Fit → k + 1 < h → (next (k + 1)).Legal) : Work.Evolves w (afterRow n h k next s).work := by
  unfold afterRow
  split
  · exact completeRecord_evolves on
  · next more => exact on.suspends _ fun fit => legal fit (by omega)

/-- A record that passes its check is carried out, and another ends its block. -/
theorem checked_evolves {ok : Bool} {act : State → State} {s : State} (on : w.OnRecord n hand s.work)
    (h : ok = true → Work.Evolves w (act s).work) : Work.Evolves w (checked ok n act s).work := by
  unfold checked
  split
  · exact h ‹_›
  · exact endBlock_evolves on .badRecord

/-- Words of a record are read or written by the bus. -/
theorem Work.OnRecord.bus {u v : Work} (on : w.OnRecord n hand u) (only : Work.BusOnly u v) : w.OnRecord n hand v :=
  on.drained only.drained

theorem Context.withPen_legal (x y : Word) (c : Context) (h : c.Legal) : (c.withPen x y).Legal := h

/-! ## The records that are carried out at once -/

section

variable {s : State}

theorem moveAct_evolves (r : RecordWords) (on : w.OnRecord n hand s.work) : Work.Evolves w (moveAct n r s).work :=
  completeRecord_evolves (modContext_onRecord on (Context.withPen_legal _ _))

theorem pointAct_evolves (r : RecordWords) (on : w.OnRecord n hand s.work) : Work.Evolves w (pointAct n r s).work :=
  completeRecord_evolves (modContext_onRecord (drawRows_onRecord on _) (Context.withPen_legal _ _))

theorem vectorAct_evolves (r : RecordWords) (on : w.OnRecord n hand s.work) : Work.Evolves w (vectorAct n r s).work :=
  completeRecord_evolves (modContext_onRecord (drawRows_onRecord on _) (Context.withPen_legal _ _))

theorem clearallAct_evolves (r : RecordWords) (on : w.OnRecord n hand s.work) : Work.Evolves w (clearallAct n r s).work :=
  completeRecord_evolves (s := startTest (changePanel Panel.clearAll (countCells n (Plane.litCells s.panel.drawn) s)))
    ((on.counted _).drained ((changePanel_drained Panel.clearAll (countCells n _ s)).trans (startTest_drained _)))

theorem setmodeAct_evolves (r : RecordWords) (on : w.OnRecord n hand s.work) : Work.Evolves w (setmodeAct n r s).work :=
  checked_evolves on fun _ => completeRecord_evolves (modContext_onRecord on fun _ h => h)

/-- The bounds of one axis of a clip window that passes its check (R106). -/
theorem clipOk_bounds {low high : Int} (h : clipOk low high = true) : low.toNat ≤ high.toNat ∧ high.toNat ≤ 511 := by
  simp only [clipOk, Bool.and_eq_true, decide_eq_true_eq] at h
  omega

theorem setclipAct_evolves (r : RecordWords) (on : w.OnRecord n hand s.work) : Work.Evolves w (setclipAct n r s).work := by
  unfold setclipAct
  dsimp only
  refine checked_evolves on fun ok => ?_
  refine completeRecord_evolves (modContext_onRecord on fun c h => ?_)
  obtain ⟨okX, okY⟩ := Bool.and_eq_true_iff.mp ok
  obtain ⟨orderX, topX⟩ := clipOk_bounds okX
  obtain ⟨orderY, topY⟩ := clipOk_bounds okY
  obtain ⟨_, _, _, _, scale⟩ := h
  exact ⟨orderX, topX, orderY, topY, scale⟩

theorem settextAct_evolves (r : RecordWords) (on : w.OnRecord n hand s.work) : Work.Evolves w (settextAct n r s).work := by
  unfold settextAct
  dsimp only
  refine checked_evolves on fun ok => ?_
  refine completeRecord_evolves (modContext_onRecord on fun c h => ?_)
  obtain ⟨orderX, topX, orderY, topY, _⟩ := h
  exact ⟨orderX, topX, orderY, topY, by simpa [Context.withText] using ok⟩

theorem storeGlyph_work (set code : Nat) (g : Glyph) (s : State) : (storeGlyph set code g s).work = s.work := by
  unfold storeGlyph
  split <;> rfl

theorem loadGlyphs_busOnly (set count code : Nat) (source : Addr) (s : State) :
    Work.BusOnly s.work (loadGlyphs n set count code source s).2.work := by
  induction count generalizing code source s with
  | zero => exact .refl _
  | succ count ih =>
    have read := readStationList_busOnly .engine (some n) (wordRun source 8) s.work
    unfold loadGlyphs
    split <;> rename_i e <;> rw [e] at read
    · refine read.trans (Work.BusOnly.trans ?_ (ih _ _ _))
      rw [storeGlyph_work]
      exact .refl _
    · exact read

theorem glyphloadAct_evolves (r : RecordWords) (on : w.OnRecord n hand s.work) : Work.Evolves w (glyphloadAct n r s).work := by
  unfold glyphloadAct
  dsimp only
  refine checked_evolves on fun _ => ?_
  have load := loadGlyphs_busOnly (n := n) (r.imm.extractLsb' 0 2).toNat (r.imm.extractLsb' 4 7).toNat (fieldNat r.words 0)
    (address20 (fieldWord r.words 1) (fieldWord r.words 2)) s
  split <;> rename_i e <;> rw [e] at load
  · exact completeRecord_evolves (on.bus load)
  · exact endBlock_evolves (on.bus load) .memory

theorem markAct_evolves (r : RecordWords) (on : w.OnRecord n hand s.work) : Work.Evolves w (markAct n r s).work :=
  checked_evolves on fun _ => completeRecord_evolves (changeTarget_onRecord on _)

theorem unmarkAct_evolves (r : RecordWords) (on : w.OnRecord n hand s.work) : Work.Evolves w (unmarkAct n r s).work :=
  checked_evolves on fun _ => completeRecord_evolves (changeTarget_onRecord on _)

theorem fieldNat_le (ws : List Word) (i : Nat) : fieldNat ws i ≤ 65535 := by
  have := (fieldWord ws i).isLt
  unfold fieldNat
  omega

theorem waitAct_evolves (r : RecordWords) (on : w.OnRecord n none s.work) : Work.Evolves w (waitAct n r s).work := by
  unfold waitAct
  dsimp only
  split
  · exact completeRecord_evolves on
  · next some =>
    split
    · exact endBlock_evolves on .cancelled
    · rw [stopLane, State.onWork_work]
      exact on.stops (f := fun p => { p with waitCount := fieldNat r.words 0 }) (.inl rfl) (fun _ => ⟨rfl, rfl, rfl, rfl, rfl⟩)
        (fun _ _ => ⟨by dsimp only; omega, fieldNat_le r.words 0⟩) nofun

theorem drainAct_evolves (r : RecordWords) (on : w.OnRecord n none s.work) : Work.Evolves w (drainAct n r s).work := by
  unfold drainAct
  dsimp only
  split
  · exact completeRecord_evolves on
  · split
    · exact endBlock_evolves on .cancelled
    · rw [stopLane, State.onWork_work]
      refine on.stops (f := fun p => { p with limit := if fieldNat r.words 0 = 0 then none else some (fieldNat r.words 0) })
        (.inr rfl) (fun _ => ⟨rfl, rfl, rfl, rfl, rfl⟩) nofun fun _ k _ e => ?_
      dsimp only at e
      split at e
      · cases e
      · next some =>
        obtain rfl := Option.some.inj e
        have := fieldNat_le r.words 0
        omega

/-! ## The records that are divided -/

theorem sizeOk_bounds {size : Nat} (h : sizeOk size = true) : 1 ≤ size ∧ size ≤ 512 := by
  simpa [sizeOk] using h

/-- The rows of a record in hand go on from the next one. -/
theorem areaRow_evolves {x y : Int} {wide high k : Nat} (on : w.OnRecord n hand s.work)
    (legal : w.Fit → k + 1 < high → (RecordInHand.area x y wide high (k + 1)).Legal) :
    Work.Evolves w (areaRow n x y wide high k s).work := afterRow_evolves (drawRows_onRecord on _) legal

theorem areaAct_evolves (r : RecordWords) (on : w.OnRecord n hand s.work) : Work.Evolves w (areaAct n r s).work := by
  refine checked_evolves on fun ok => areaRow_evolves on fun _ more => ?_
  obtain ⟨okW, okH⟩ := Bool.and_eq_true_iff.mp ok
  obtain ⟨one, wide⟩ := sizeOk_bounds okW
  obtain ⟨oneH, high⟩ := sizeOk_bounds okH
  exact ⟨one, wide, oneH, high, more⟩

theorem areaResume_evolves {r : RecordInHand} (on : w.OnRecord n hand s.work) (legal : w.Fit → r.Legal) :
    Work.Evolves w (areaResume n r s).work := by
  cases r
  case area x y wide high k =>
    refine areaRow_evolves on fun fit more => ?_
    obtain ⟨one, wide, oneH, high, _⟩ := legal fit
    exact ⟨one, wide, oneH, high, more⟩
  all_goals exact on.evolves

theorem imageRow_evolves {x y : Int} {wide high stride k : Nat} {source : Addr} (on : w.OnRecord n hand s.work)
    (legal : w.Fit → k + 1 < high → (RecordInHand.image x y wide high source stride (k + 1)).Legal) :
    Work.Evolves w (imageRow n x y wide high source stride k s).work := by
  have read := readStationList_busOnly .engine (some n)
    (wordRun (addressPlus source (2 * stride * k)) (rowWords wide)) s.work
  unfold imageRow
  split <;> rename_i e <;> rw [e] at read
  · exact afterRow_evolves (drawRows_onRecord (on.bus read) _) legal
  · exact endBlock_evolves (on.bus read) .memory

theorem imageAct_evolves (r : RecordWords) (on : w.OnRecord n hand s.work) : Work.Evolves w (imageAct n r s).work := by
  refine checked_evolves on fun ok => imageRow_evolves on fun _ more => ?_
  simp only [Bool.and_eq_true, decide_eq_true_eq] at ok
  obtain ⟨⟨⟨okW, okH⟩, even⟩, stride⟩ := ok
  obtain ⟨one, wide⟩ := sizeOk_bounds okW
  obtain ⟨oneH, high⟩ := sizeOk_bounds okH
  exact ⟨one, wide, oneH, high, by simpa [addressEven] using even, stride, fieldNat_le _ _, more⟩

theorem imageResume_evolves {r : RecordInHand} (on : w.OnRecord n hand s.work) (legal : w.Fit → r.Legal) :
    Work.Evolves w (imageResume n r s).work := by
  cases r
  case image x y wide high source stride k =>
    refine imageRow_evolves on fun fit more => ?_
    obtain ⟨one, wide, oneH, high, even, stride, top, _⟩ := legal fit
    exact ⟨one, wide, oneH, high, even, stride, top, more⟩
  all_goals exact on.evolves

theorem readbackRow_evolves {x y wide high stride k : Nat} {target : Addr} (on : w.OnRecord n hand s.work)
    (legal : w.Fit → k + 1 < high → (RecordInHand.readback x y wide high target stride (k + 1)).Legal) :
    Work.Evolves w (readbackRow n x y wide high target stride k s).work := by
  have write := writeStationList_busOnly .engine (some n) (readbackWords s x y wide target stride k) s.work
  unfold readbackRow
  split
  · split <;> rename_i e <;> rw [e] at write
    · exact afterRow_evolves (on.bus write) legal
    · exact endBlock_evolves (on.bus write) .memory
  · exact endBlock_evolves on .fence

theorem readbackAct_evolves (r : RecordWords) (on : w.OnRecord n hand s.work) : Work.Evolves w (readbackAct n r s).work := by
  refine checked_evolves on fun ok => readbackRow_evolves on fun _ more => ?_
  simp only [readbackOk, onPanel, Bool.and_eq_true, decide_eq_true_eq] at ok
  obtain ⟨⟨⟨⟨⟨⟨⟨⟨onX, onY⟩, okW⟩, okH⟩, fitsX⟩, fitsY⟩, even⟩, oneStride⟩, stride⟩ := ok
  obtain ⟨one, wide⟩ := sizeOk_bounds okW
  obtain ⟨oneH, high⟩ := sizeOk_bounds okH
  have top := (r.imm.extractLsb' 4 8).isLt
  exact ⟨one, by omega, oneH, by omega, by simpa [addressEven] using even, stride, by omega, more⟩

theorem readbackResume_evolves {r : RecordInHand} (on : w.OnRecord n hand s.work) (legal : w.Fit → r.Legal) :
    Work.Evolves w (readbackResume n r s).work := by
  cases r
  case readback x y wide high target stride k =>
    refine readbackRow_evolves on fun fit more => ?_
    obtain ⟨one, wide, oneH, high, even, stride, top, _⟩ := legal fit
    exact ⟨one, wide, oneH, high, even, stride, top, more⟩
  all_goals exact on.evolves

/-! ## Text -/

theorem Context.wrapped_legal (c : Context) (h : c.Legal) : c.wrapped.Legal := by
  unfold Context.wrapped
  split <;> exact h

theorem Context.controlled_legal (code : Nat) (c : Context) (h : c.Legal) : (c.controlled code).Legal := by
  unfold Context.controlled
  split
  · exact h
  · split
    · exact h
    · split <;> exact h

theorem takeOctet_onRecord (o : Byte) (on : w.OnRecord n hand s.work) : w.OnRecord n hand (takeOctet n o s).work := by
  unfold takeOctet
  split
  · exact modContext_onRecord (drawRows_onRecord (modContext_onRecord on Context.wrapped_legal) _) fun _ h => h
  · exact modContext_onRecord on (Context.controlled_legal _)

theorem textOctet_evolves {octets : List Byte} {k : Nat} (on : w.OnRecord n hand s.work)
    (short : w.Fit → octets.length ≤ 255) : Work.Evolves w (textOctet n octets k s).work :=
  afterRow_evolves (takeOctet_onRecord _ on) fun fit more => ⟨by omega, short fit, more⟩

theorem textAct_evolves (r : RecordWords) (on : w.OnRecord n hand s.work) : Work.Evolves w (textAct n r s).work := by
  refine checked_evolves on fun ok => textOctet_evolves on fun _ => ?_
  simp only [Bool.and_eq_true, decide_eq_true_eq] at ok
  exact (List.length_take_le _ _).trans ok.2

theorem textResume_evolves {r : RecordInHand} (on : w.OnRecord n hand s.work) (legal : w.Fit → r.Legal) :
    Work.Evolves w (textResume n r s).work := by
  cases r
  case text octets k => exact textOctet_evolves on fun fit => (legal fit).2.1
  all_goals exact on.evolves

end

/-! ## The way through a record -/

theorem recordLength_pos (k : RecordKind) (imm : BitVec 12) : 1 ≤ recordLength k imm := by
  cases k <;> simp [recordLength]

/-- A record is taken: its words lie within the body and are read, or the block ends. -/
theorem takeRecord_evolves {k : RecordKind} {act : LaneNo → RecordWords → State → State} {s : State}
    (evolves : Work.Evolves w s.work) (active : w.OneActive → (s.work.laneOf n).state = .active)
    (none : (s.work.laneOf n).progress.inHand = none)
    (h : ∀ r (t : State), w.OnRecord n Option.none t.work → Work.Evolves w (act n r t).work) :
    Work.Evolves w (takeRecord k n act s).work := by
  have ends {u : Work} (only : Work.BusOnly s.work u) (o : BlockOutcome) : Work.Evolves w (settleLanes (retire n o u)) :=
    evolves.moves ((only.moves.trans (retire_moves n o u)).trans (settleLanes_moves _))
  have body (head : Word) {length : Nat} {u : Work} (only : Work.BusOnly s.work u) (one : 1 ≤ length)
      (fits : (u.laneOf n).progress.nextWord + length ≤ (u.laneOf n).progress.bodyLength) :
      Work.Evolves w (readRecordBody n head length act { s with work := u }).work := by
    have read := readStationList_busOnly .engine (some n)
      (wordRun (u.bodyAddress n ((State.progressOf { s with work := u } n).nextWord + 1)) (length - 1)) u
    unfold readRecordBody
    split <;> rename_i e <;> rw [e] at read
    · rename_i ws u1
      replace read : Work.BusOnly u u1 := read
      have lane : u1.laneOf n = s.work.laneOf n := (only.trans read).laneOf n
      refine h _ _ ?_
      have before := evolves.moves (only.trans read).moves
      refine ⟨before.modLane n (fun l => { l with progress := { l.progress with nextWord := l.progress.nextWord + length } }) rfl
        fun fit => ?_, fun h => ?_, fun _ => ?_, fun fit => ?_⟩
      · have was := (before.fit fit).ranged.lanes n
        have ordinal := was.progress.ordinal
        rw [only.laneOf] at fits
        refine ⟨was.context, was.inHand, was.waits, was.limits, was.progress.cells, was.progress.body, ?_, ?_, was.progress.stopped⟩
        · dsimp only
          rw [lane]
          exact fits
        · dsimp only
          omega
      · simpa [modProgress, State.onWork, lane] using active h
      · simpa [modProgress, State.onWork, lane] using none
      · have ordinal := ((before.fit fit).ranged.lanes n).progress.ordinal
        simp only [modProgress, State.onWork]
        rw [Work.laneOf_modLane_same]
        dsimp only
        omega
    · exact ends (only.trans read) .memory
  have read := readStation_busOnly .engine (some n) (s.work.bodyAddress n (s.progressOf n).nextWord) s.work
  unfold takeRecord
  split <;> rename_i e <;> rw [e] at read
  · split
    · unfold checkLength
      dsimp only
      split
      · exact ends read .badRecord
      · next fits => exact body _ read (recordLength_pos _ _) (Nat.not_lt.mp fits)
    · exact evolves
  · exact ends read .memory

end

theorem Work.activeLane_of_served {w : Work} {n : LaneNo} (h : w.servedLane = some n) : w.activeLane = some n := by
  unfold Work.servedLane at h
  split at h
  · exact h
  · cases h

/-- The engine's step at a record keeps the invariants, if its act and its way of going on do. -/
theorem runRecord_evolves {k : RecordKind} {resume : LaneNo → RecordInHand → State → State}
    {act : LaneNo → RecordWords → State → State}
    (hr : ∀ {w : Work} {n : LaneNo} {hand : Option RecordInHand} {s : State} {r : RecordInHand},
      w.OnRecord n hand s.work → (w.Fit → r.Legal) → Work.Evolves w (resume n r s).work)
    (ha : ∀ {w : Work} {n : LaneNo} {s : State} (r : RecordWords), w.OnRecord n none s.work → Work.Evolves w (act n r s).work)
    (s : State) : Work.Evolves s.work (runRecord k resume act s).work := by
  unfold runRecord
  split
  · exact .refl _
  · next n served =>
    have active (one : s.work.OneActive) : (s.work.laneOf n).state = .active :=
      (one.active n).mpr (Work.activeLane_of_served served)
    split
    · next r inHand =>
      split
      · have lane (fit : s.work.Fit) := fit.ranged.lanes n
        refine hr (hand := some r) ⟨.refl _, active, fun _ => inHand, fun fit => ?_⟩ fun fit => (lane fit).inHand r inHand
        have ordinal := (lane fit).progress.ordinal
        have some : (s.work.laneOf n).progress.inHand.isSome = true := by
          unfold State.progressOf at inHand
          rw [inHand]
          rfl
        rw [if_pos (.inl some)] at ordinal
        omega
      · exact .refl _
    · next none =>
      split
      · exact .refl _
      · exact takeRecord_evolves (.refl _) active none fun r t on => ha r on

theorem notDivided_evolves {w : Work} {n : LaneNo} {hand : Option RecordInHand} {s : State} {r : RecordInHand}
    (on : w.OnRecord n hand s.work) (_ : w.Fit → r.Legal) : Work.Evolves w (notDivided n r s).work := on.evolves

theorem runKind_evolves (k : RecordKind) (s : State) : Work.Evolves s.work (runKind k s).work := by
  cases k
  case move => exact runRecord_evolves notDivided_evolves moveAct_evolves s
  case point => exact runRecord_evolves notDivided_evolves pointAct_evolves s
  case vector => exact runRecord_evolves notDivided_evolves vectorAct_evolves s
  case area => exact runRecord_evolves areaResume_evolves areaAct_evolves s
  case text => exact runRecord_evolves textResume_evolves textAct_evolves s
  case image => exact runRecord_evolves imageResume_evolves imageAct_evolves s
  case readback => exact runRecord_evolves readbackResume_evolves readbackAct_evolves s
  case clearall => exact runRecord_evolves notDivided_evolves clearallAct_evolves s
  case setmode => exact runRecord_evolves notDivided_evolves setmodeAct_evolves s
  case setclip => exact runRecord_evolves notDivided_evolves setclipAct_evolves s
  case settext => exact runRecord_evolves notDivided_evolves settextAct_evolves s
  case glyphload => exact runRecord_evolves notDivided_evolves glyphloadAct_evolves s
  case mark => exact runRecord_evolves notDivided_evolves markAct_evolves s
  case unmark => exact runRecord_evolves notDivided_evolves unmarkAct_evolves s
  case wait => exact runRecord_evolves notDivided_evolves waitAct_evolves s
  case drain => exact runRecord_evolves notDivided_evolves drainAct_evolves s

/-! ## Every event -/

theorem Work.returnedSlot_passed {w : Work} {slot : BitVec 5} {k : SlotNo} (h : w.returnedSlot slot = some k) :
    w.slotOf k = .passed := by
  unfold Work.returnedSlot at h
  split at h
  · split at h
    · next found => exact Option.some.inj h ▸ found.2
    · cases h
  · cases h

/-- Every event but a record begins no DRAIN and keeps the invariants of this half. -/
theorem Meaning.follows {f : State → State} (m : Meaning f) (s : State) :
    (∃ k, f = runKind k) ∨ Work.Follows s.work (f s).work := by
  cases m with
  | record k => exact .inl ⟨k, rfl⟩
  | nothing => exact .inr (.refl _)
  | nudge n host =>
    refine .inr (Work.Moves.follows ?_)
    exact postToHostLane_moves n (fun w => nudgeLane_moves host w) (by exact fun _ => ⟨rfl, rfl, rfl⟩) s.work
  | resume n host =>
    refine .inr (Work.Moves.follows ?_)
    exact postToHostLane_moves n (fun w => resumeLane_moves host w) (by exact fun _ => ⟨rfl, rfl, rfl⟩) s.work
  | cancel n => exact .inr (cancelLane_moves n s.work).follows
  | returnSlot slot =>
    refine .inr ?_
    dsimp only [State.onWork]
    cases e : s.work.returnedSlot slot with
    | none => exact .refl _
    | some k =>
      have acts (A : Prop) : Work.Acts A s.work.frameSlot s.work s.work.frameSlot (changeSlot k .free s.work) :=
        (Work.Act.returned _ k s.work (Work.returnedSlot_passed e)).acts.trans ((changeSlot_busOnly k .free s.work).acts _)
      exact (acts _).follows (fun _ => rfl) (by unfold Work.frameSlot; rw [(changeSlot_busOnly k .free s.work).line]; rfl)
  | run value => exact .inr (actOnRun_follows value s.work)
  | lineOn value => exact .inr (actOnLineOn_follows value s.work)
  | panelOn value =>
    have kept : Work.Follows s.work (s.withPanelOn value).work := Work.samePort_follows rfl rfl id
    exact .inr (kept.trans (actOnPanelOn_follows value _))
  | driveResume => exact .inr ((resumeDriver_drained s).follows.trans (endPanelEvent_follows _))
  | clear => exact .inr (Work.AtReset.follows ⟨rfl, rfl, rfl⟩)
  | reset => exact .inr (Work.AtReset.follows ⟨rfl, rfl, rfl⟩)
  | causeWrite data => exact .inr (Work.BusOnly.follows ⟨rfl, rfl, rfl, rfl, id⟩)
  | enableWrite data => exact .inr (Work.samePort_follows rfl rfl id)
  | tick => exact .inr (tickAll_follows s)
  | expires comes b => exact .inr (expiry_follows comes b s)
  | issueRow => exact .inr (.refl _)
  | issueBulk => exact .inr (.refl _)
  | rowPdone =>
    refine .inr ?_
    dsimp only
    split
    · exact ((changePanel_drained _ s).trans (startTest_drained _)).follows.trans (endPanelEvent_follows _)
    · exact .refl _
  | bulkPdone =>
    refine .inr ?_
    dsimp only
    split
    · exact ((changePanel_drained _ s).trans (startTest_drained _)).follows.trans (endPanelEvent_follows _)
    · exact .refl _
  | pfault =>
    refine .inr ?_
    dsimp only
    split
    · exact (faultRowPulse_drained _ _ _ s).follows.trans (endPanelEvent_follows _)
    · exact (faultBulkPulse_drained _ _ s).follows.trans (endPanelEvent_follows _)
    · exact .refl _
  | settingsReadEnd late =>
    refine .inr ?_
    dsimp only
    split
    · next starting => exact endSettingsRead_follows late starting
    · exact .refl _
  | edge e ldat => exact .inr (edgeWith_follows e ldat s.work)
  | anyEdge ldat busy => exact .inr (.ite (fun _ => busyEdge_follows ldat s.work) fun _ => freeEdge_follows ldat s.work)

theorem Unheld.follows {f : State → State} (m : Unheld f) (s : State) : Work.Follows s.work (f s).work := by
  cases m with
  | nothing => exact .refl _
  | readLow => dsimp only [State.onWork]; split <;> exact Work.samePort_follows rfl rfl id
  | readHigh => dsimp only [State.onWork]; split <;> exact Work.samePort_follows rfl rfl id
  | powerOn a b => exact Work.AtReset.follows ⟨rfl, rfl, rfl⟩
  | resetDeasserted =>
    dsimp only
    split
    · have latched (p : Port) : p.latchStraps.engine = p.engine ∧ p.latchStraps.fence = p.fence ∧ p.latchStraps.lineOn = p.lineOn := by
        unfold Port.latchStraps
        split <;> exact ⟨rfl, rfl, rfl⟩
      obtain ⟨engine, fence, lineOn⟩ := latched s.work.port
      exact Work.samePort_follows (p := { s.work.port.latchStraps with resetAsserted := false }) engine fence fun on =>
        lineOn.trans on
    · exact .refl _
  | supokRise =>
    dsimp only
    split
    · exact .refl _
    · exact riseSupok_follows s
  | supokFall =>
    dsimp only
    split
    · exact .refl _
    · exact fallSupok_follows s

theorem Meaning.evolves {f : State → State} (m : Meaning f) (s : State) : Work.Evolves s.work (f s).work := by
  obtain ⟨k, rfl⟩ | follows := m.follows s
  · exact runKind_evolves k s
  · exact follows.toEvolves

/-- Every step keeps the invariants of the lanes, the line and the ranges. -/
theorem step_evolves {s t : State} (e : step s = .next t) : Work.Evolves s.work t.work :=
  step_keeps (P := fun u => Work.Evolves s.work u.work) (fun _ _ h => h) (fun _ m u _ h => h.trans (m.evolves u))
    (fun _ m u h => h.trans (m.follows u).toEvolves) (fun u _ h => h.trans (idle_follows u).toEvolves) (.refl _) e

/-- Settles O57: every event is made of moves that keep at most one lane ACTIVE. -/
theorem stepKeepsOneActiveLane : Obligations.StepKeepsOneActiveLane := fun _ _ h e => (step_evolves e).oneActive h

/-- Settles O58, by the acts of the receiver with the FILLING slot told apart from the frame's slot while a frame closes. -/
theorem stepKeepsTheLineSound : Obligations.StepKeepsTheLineSound := fun _ _ h e =>
  ⟨(step_evolves e).lineSound h, fun one spool => (step_evolves e).spool one h spool⟩

end Sys2Proof.Machine

/-! What the events do to the panel, as guarded changes of the plane store, the markers, the driver and the supply; and that each of
these keeps the agreement of the planes, the queue and the pulse, and the ranges of the panel's fields. -/

namespace Sys2Proof.Machine

/-! ## The changes of the panel -/

/-- One change of the panel, with the guard under which an event makes it. -/
inductive Panel.Change : Panel → Panel → Prop
  | redrawn (p : Panel) (d : Plane) (rows : List Row) (outside : ∀ r : Row, r ∉ rows → d[r.val] = p.drawn[r.val]) :
    Change p (Panel.joinRows rows { p with drawn := d })
  | remarked (p : Panel) (n : Fin 2) (m : Marker) (rows : List Row)
    (outside : ∀ r : Row, r ∉ rows → m.rowMask r = p.markers[n.val].rowMask r)
    (legal : p.markers[n.val].Legal → (p.markers[n.val].active = true → p.markers[n.val].on = p.markers[n.val].onByCounter) →
      m.Legal ∧ (m.active = true → m.on = m.onByCounter)) :
    Change p (Panel.joinRows rows (p.setMarker n m))
  | bulkAsked (p : Panel) (ready : p.supply.state = .ready) : Change p { p with bulkRequest := true }
  | tested (p : Panel) : Change p p.startTest
  | issued (p : Panel) (pulse : Pulse) (lines : BitVec 9) (ticks : Nat) (held : p.driver.pulse = some pulse)
    (range : 1 ≤ ticks ∧ ticks ≤ 20) : Change p { p with driver := p.driver.issue pulse lines ticks }
  | rowDone (p : Panel) (pulse : Pulse) (r : Row) (firing : p.firingRow = some r) : Change p (p.completeRow pulse r)
  | bulkDone (p : Panel) : Change p p.completeBulk
  | rowFaulted (p : Panel) (pulse : Pulse) (r : Row) (firing : p.firingRow = some r) : Change p (p.faultRow pulse r)
  | bulkFaulted (p : Panel) (pulse : Pulse) (held : p.driver.pulse = some pulse) : Change p p.faultBulk
  | counted (p : Panel) (long : ∀ pulse k, p.driver.pulse = some pulse → pulse.deadline = some k → 2 ≤ k) :
    Change p { p with driver := p.driver.countTick }
  | resumed (p : Panel) (stalled : p.driver.state = .stalled) : Change p { p with driver := { p.driver with state := .idle } }
  | down (p : Panel) (st : SupplyState) (dark : st = .off ∨ st = .failed) : Change p (p.supplyDown st)
  | risen (p : Panel) : Change p { p with supply := p.supply.enter .ready }
  | ramps (p : Panel) (off : p.supply.state = .off) : Change p { p with supply := p.supply.enter .ramping }
  | supok (p : Panel) (level : Bool) : Change p (p.setSupok level)
  | rampCounted (p : Panel) (notReady : p.supply.readyNext = false) (notFailed : p.supply.failsNext = false) :
    Change p { p with supply := p.supply.countTick }
  | budget (p : Panel) (b : Nat) (range : b = 16 ∨ b = 32 ∨ b = 64 ∨ b = 128) :
    Change p { p with driver := { p.driver with budget := b } }

/-- A run of changes. -/
def Panel.Changes : Panel → Panel → Prop := Relation.ReflTransGen Panel.Change

theorem Panel.Changes.refl (p : Panel) : Panel.Changes p p := Relation.ReflTransGen.refl

theorem Panel.Change.changes {p q : Panel} (h : Panel.Change p q) : Panel.Changes p q := Relation.ReflTransGen.single h

theorem Panel.Changes.trans {p q r : Panel} (h : Panel.Changes p q) (k : Panel.Changes q r) : Panel.Changes p r :=
  Relation.ReflTransGen.trans h k

/-- Both branches of a choice. -/
theorem Panel.Changes.ite {c : Prop} [Decidable c] {p a b : Panel} (h : c → Panel.Changes p a) (k : ¬c → Panel.Changes p b) :
    Panel.Changes p (if c then a else b) := by
  split
  · exact h ‹_›
  · exact k ‹_›

/-- What every change keeps, a run of changes keeps. -/
theorem Panel.Changes.keeps {J : Panel → Prop} (h : ∀ p q, Panel.Change p q → J p → J q) {p q : Panel} (m : Panel.Changes p q)
    (j : J p) : J q := by
  induction m with
  | refl => exact j
  | tail _ last ih => exact h _ _ last ih

/-! ## The agreement of planes, queue and pulse -/

/-- What holds of planes, queue, pulse and supply all through an event; the rows `but` may still have to join. -/
structure Panel.AgreesBut (but : List Row) (p : Panel) : Prop where
  queueNodup : p.queue.Nodup
  firingNotQueued : ∀ r, p.firingRow = some r → r ∉ p.queue
  noPulse : p.driver.pulse = none ↔ p.driver.state = .idle ∨ p.driver.state = .stalled
  rowPulse : ∀ pulse, p.driver.pulse = some pulse →
    (p.driver.state = .firing ↔ pulse.row.isSome) ∧ (p.driver.state = .bulk ↔ pulse.row = none)
      ∧ (pulse.kind = .bulk ↔ pulse.row = none)
  bulkAsked : p.driver.state = .bulk → p.bulkRequest = true
  cleanAgrees : ∀ r, r ∉ but → p.rowState r = .clean → p.differs r = false
  darkUnlessReady : p.supply.state ≠ .ready →
    p.panel = Plane.dark ∧ p.doubt = Plane.dark ∧ p.driver.pulse = none ∧ p.bulkRequest = false

/-- Every row agrees. -/
abbrev Panel.Agrees (p : Panel) : Prop := p.AgreesBut []

/-- No row waits while the driver could take it (R30, R31). -/
def Panel.NothingWaits (p : Panel) : Prop :=
  p.driver.state = .idle → p.supply.state = .ready → p.queue = [] ∧ p.bulkRequest = false

theorem Panel.sound_iff (p : Panel) : p.Sound ↔ p.Agrees ∧ p.NothingWaits ∧ p.settled = p.isSettled := by
  constructor
  · exact fun h => ⟨⟨h.queueNodup, h.firingNotQueued, h.noPulse, h.rowPulse, h.bulkAsked, fun r _ => h.cleanAgrees r,
      h.darkUnlessReady⟩, h.nothingWaits, h.settledFlag⟩
  · exact fun ⟨h, waits, flag⟩ => ⟨h.queueNodup, h.firingNotQueued, h.noPulse, h.rowPulse, h.bulkAsked,
      fun r => h.cleanAgrees r (by simp), h.darkUnlessReady, waits, flag⟩

theorem Panel.firingRow_eq_some {p : Panel} {r : Row} :
    p.firingRow = some r ↔ ∃ pulse, p.driver.pulse = some pulse ∧ pulse.row = some r := by
  unfold Panel.firingRow
  split <;> simp_all

theorem Panel.firingRow_of_none {p : Panel} (h : p.driver.pulse = none) : p.firingRow = none := by
  unfold Panel.firingRow
  rw [h]

/-- With a pulse outstanding the supply is READY. -/
theorem Panel.AgreesBut.ready {p : Panel} {but : List Row} (h : p.AgreesBut but) {pulse : Pulse}
    (held : p.driver.pulse = some pulse) : p.supply.state = .ready := by
  by_contra not
  rw [(h.darkUnlessReady not).2.2.1] at held
  cases held

/-- A row joins: it has not to join any more (R10). -/
theorem Panel.AgreesBut.join {p : Panel} {r : Row} {but : List Row} (h : p.AgreesBut (r :: but)) : (p.join r).AgreesBut but := by
  unfold Panel.join
  split
  · next joins =>
    obtain ⟨clean, _⟩ := joins
    obtain ⟨notFiring, notQueued⟩ := (p.rowState_eq_clean r).mp clean
    refine ⟨?_, fun q fires mem => ?_, h.noPulse, h.rowPulse, h.bulkAsked, fun q out state => ?_, h.darkUnlessReady⟩
    · exact h.queueNodup.append (List.nodup_singleton r) (List.disjoint_singleton.mpr notQueued)
    · rcases List.mem_append.mp mem with mem | mem
      · exact h.firingNotQueued q fires mem
      · obtain rfl := List.mem_singleton.mp mem
        exact notFiring fires
    · obtain ⟨notFiring', notQueued'⟩ := (Panel.rowState_eq_clean _ q).mp state
      have outside : q ∉ p.queue ++ [r] := notQueued'
      simp only [List.mem_append, List.mem_singleton, not_or] at outside
      exact h.cleanAgrees q (by simp [outside.2, out]) ((p.rowState_eq_clean q).mpr ⟨notFiring', outside.1⟩)
  · next stays =>
    refine ⟨h.queueNodup, h.firingNotQueued, h.noPulse, h.rowPulse, h.bulkAsked, fun q out clean => ?_, h.darkUnlessReady⟩
    by_cases same : q = r
    · subst same
      by_contra differs
      exact stays ⟨clean, by simpa using differs⟩
    · exact h.cleanAgrees q (by simp [same, out]) clean

theorem Panel.AgreesBut.joinRows {rows : List Row} {p : Panel} (h : p.AgreesBut rows) : (Panel.joinRows rows p).Agrees := by
  induction rows generalizing p with
  | nil => exact h
  | cons r rest ih => exact ih h.join

/-- A row differs by its own cells of the planes and the markers' masks there. -/
theorem Panel.differs_congr {p q : Panel} {r : Row} (target : q.targetRow r = p.targetRow r) (panel : q.panel[r.val] = p.panel[r.val])
    (doubt : q.doubt[r.val] = p.doubt[r.val]) : q.differs r = p.differs r := by
  unfold Panel.differs Panel.differingCells
  rw [target, panel, doubt]

/-- Targets change on the rows that have to join, and on no other (R6). -/
theorem Panel.AgreesBut.retargeted {p q : Panel} (h : p.Agrees) (rows : List Row) (queue : q.queue = p.queue)
    (driver : q.driver = p.driver) (supply : q.supply = p.supply) (bulk : q.bulkRequest = p.bulkRequest)
    (panel : q.panel = p.panel) (doubt : q.doubt = p.doubt) (target : ∀ r, r ∉ rows → q.targetRow r = p.targetRow r) :
    q.AgreesBut rows := by
  have firing : q.firingRow = p.firingRow := by unfold Panel.firingRow; rw [driver]
  refine ⟨by rw [queue]; exact h.queueNodup, by rw [firing, queue]; exact h.firingNotQueued, by rw [driver]; exact h.noPulse,
    by rw [driver]; exact h.rowPulse, by rw [driver, bulk]; exact h.bulkAsked, fun r out clean => ?_,
    by rw [supply, panel, doubt, driver, bulk]; exact h.darkUnlessReady⟩
  rw [Panel.differs_congr (target r out) (by rw [panel]) (by rw [doubt])]
  exact h.cleanAgrees r (by simp) ((Panel.rowState_congr (by rw [driver]) queue r) ▸ clean)

theorem Panel.targetRow_setMarker {p : Panel} {n : Fin 2} {m : Marker} {r : Row}
    (same : m.rowMask r = p.markers[n.val].rowMask r) : (p.setMarker n m).targetRow r = p.targetRow r := by
  unfold Panel.targetRow Panel.overlayRow Panel.setMarker
  match n with
  | 0 => simp_all
  | 1 => simp_all

/-- The queue is rebuilt from the rows that differ: every row agrees, whatever the planes (R14). -/
theorem Panel.rebuild_agrees {p : Panel} (none : p.driver.pulse = none) (rests : p.driver.state = .idle ∨ p.driver.state = .stalled)
    (dark : p.supply.state ≠ .ready → p.panel = Plane.dark ∧ p.doubt = Plane.dark ∧ p.bulkRequest = false) :
    p.rebuild.Agrees := by
  obtain ⟨queue, filtered, e⟩ : ∃ queue, queue = allRows.filter p.differs ∧ p.rebuild = { p with queue := queue } :=
    ⟨_, rfl, by rw [Panel.rebuild]⟩
  rw [e]
  have firing : ({ p with queue := queue } : Panel).firingRow = Option.none := Panel.firingRow_of_none none
  have all : allRows.Nodup := List.nodup_finRange 512
  have nodup : queue.Nodup := by rw [filtered]; exact all.filter p.differs
  refine ⟨nodup, fun r fires => absurd (firing.symm.trans fires) nofun, ?_, fun pulse held => ?_,
    fun bulk => ?_, fun r _ clean => ?_, fun not => ?_⟩
  · exact ⟨fun _ => rests, fun _ => none⟩
  · exact absurd (none.symm.trans held) nofun
  · have state : p.driver.state = .bulk := bulk
    rw [state] at rests
    exact absurd rests (by simp)
  · obtain ⟨_, notQueued⟩ := (Panel.rowState_eq_clean _ r).mp clean
    have notQueued : r ∉ queue := notQueued
    rw [filtered, List.mem_filter, not_and] at notQueued
    exact Bool.eq_false_iff.mpr (notQueued (mem_allRows r))
  · obtain ⟨panel, doubt, bulk⟩ := dark not
    exact ⟨panel, doubt, none, bulk⟩

/-- The pulse of row `r` is over, and its cells may have changed: every other row agrees as before. -/
theorem Panel.AgreesBut.rowAnswered {p q : Panel} {r : Row} (h : p.Agrees) (firing : p.firingRow = some r) {st : DriverState}
    (rests : st = .idle ∨ st = .stalled) (driver : q.driver = p.driver.withoutPulse st) (queue : q.queue = p.queue)
    (supply : q.supply = p.supply) (drawn : q.drawn = p.drawn) (markers : q.markers = p.markers)
    (panel : ∀ s : Row, s ≠ r → q.panel[s.val] = p.panel[s.val]) (doubt : ∀ s : Row, s ≠ r → q.doubt[s.val] = p.doubt[s.val]) :
    q.AgreesBut [r] := by
  obtain ⟨pulse, held, row⟩ := Panel.firingRow_eq_some.mp firing
  have none : q.driver.pulse = none := by rw [driver]; rfl
  have state : q.driver.state = st := by rw [driver]; rfl
  refine ⟨by rw [queue]; exact h.queueNodup, fun s fires => absurd ((Panel.firingRow_of_none none).symm.trans fires) nofun,
    ⟨fun _ => state ▸ rests, fun _ => none⟩, fun pulse held => absurd (none.symm.trans held) nofun, fun bulk => ?_,
    fun s out clean => ?_, fun not => absurd (supply ▸ h.ready held) not⟩
  · rw [state] at bulk
    rw [bulk] at rests
    exact absurd rests (by simp)
  · have ne : s ≠ r := by simpa using out
    have target : q.targetRow s = p.targetRow s := by unfold Panel.targetRow Panel.overlayRow; rw [drawn, markers]
    rw [Panel.differs_congr target (panel s ne) (doubt s ne)]
    obtain ⟨_, notQueued⟩ := (q.rowState_eq_clean s).mp clean
    refine h.cleanAgrees s (by simp) ((p.rowState_eq_clean s).mpr ⟨?_, queue ▸ notQueued⟩)
    rw [firing]
    exact fun e => ne (Option.some.inj e).symm

/-- A row that is neither firing nor queued goes to the tail, and need not agree any more. -/
theorem Panel.AgreesBut.append {p : Panel} {r : Row} (h : p.AgreesBut [r]) (notFiring : p.firingRow ≠ some r)
    (notQueued : r ∉ p.queue) : (p.append r).Agrees := by
  refine ⟨?_, fun q fires mem => ?_, h.noPulse, h.rowPulse, h.bulkAsked, fun q _ clean => ?_, h.darkUnlessReady⟩
  · exact h.queueNodup.append (List.nodup_singleton r) (List.disjoint_singleton.mpr notQueued)
  · rcases List.mem_append.mp mem with mem | mem
    · exact h.firingNotQueued q fires mem
    · obtain rfl := List.mem_singleton.mp mem
      exact notFiring fires
  · obtain ⟨notFiring', notQueued'⟩ := (Panel.rowState_eq_clean _ q).mp clean
    have outside : q ∉ p.queue ++ [r] := notQueued'
    simp only [List.mem_append, List.mem_singleton, not_or] at outside
    exact h.cleanAgrees q (by simp [outside.2]) ((p.rowState_eq_clean q).mpr ⟨notFiring', outside.1⟩)

/-- What is dropped from the front of the queue agrees, and the first row that differs is taken (R11, R30). -/
theorem Panel.AgreesBut.take {p : Panel} (h : p.Agrees) (idle : p.driver.state = .idle) (ready : p.supply.state = .ready) :
    p.take.Agrees := by
  have none : p.driver.pulse = none := h.noPulse.mpr (.inl idle)
  have firing : p.firingRow = Option.none := Panel.firingRow_of_none none
  have split := List.takeWhile_append_dropWhile (p := fun r => !p.differs r) (l := p.queue)
  have dropped (r : Row) (mem : r ∈ p.queue.takeWhile fun r => !p.differs r) : p.differs r = false := by
    simpa using List.mem_takeWhile_imp mem
  have agrees (r : Row) (out : r ∉ p.queue.dropWhile fun r => !p.differs r) : p.differs r = false := by
    by_cases mem : r ∈ p.queue
    · rw [← split, List.mem_append] at mem
      exact dropped r (mem.resolve_right out)
    · exact h.cleanAgrees r (by simp) ((p.rowState_eq_clean r).mpr ⟨by rw [firing]; nofun, mem⟩)
  have nodup : (p.queue.dropWhile fun r => !p.differs r).Nodup := h.queueNodup.sublist (List.dropWhile_sublist _)
  unfold Panel.take
  split
  · next empty =>
    refine ⟨List.nodup_nil, fun _ _ => List.not_mem_nil, h.noPulse, h.rowPulse, h.bulkAsked, fun r _ _ => ?_, h.darkUnlessReady⟩
    exact agrees r (by rw [empty]; exact List.not_mem_nil)
  · next r rest found =>
    rw [found] at nodup
    obtain ⟨fresh, nodup⟩ := List.nodup_cons.mp nodup
    refine ⟨nodup, fun q fires => ?_, ⟨nofun, nofun⟩, fun pulse held => ?_, nofun, fun q _ clean => ?_,
      fun not => absurd ready not⟩
    · have same : r = q := Option.some.inj fires
      exact same ▸ fresh
    · obtain rfl := Option.some.inj held
      refine ⟨⟨fun _ => rfl, fun _ => rfl⟩, ⟨nofun, nofun⟩, ?_⟩
      simp only [Panel.formPulse]
      split <;> simp
    · obtain ⟨notFiring, notQueued⟩ := (Panel.rowState_eq_clean _ q).mp clean
      have ne : q ≠ r := by
        rintro rfl
        exact notFiring rfl
      have out : q ∉ rest := notQueued
      exact agrees q (by rw [found]; simp [ne, out])

theorem Panel.AgreesBut.startTest {p : Panel} (h : p.Agrees) : p.startTest.Agrees := by
  unfold Panel.startTest
  split
  · next both =>
    split
    · next asked =>
      have none : p.driver.pulse = none := h.noPulse.mpr (.inl both.1)
      refine ⟨h.queueNodup, nofun, ⟨nofun, nofun⟩, fun pulse held => ?_, fun _ => asked, fun r _ clean => ?_,
        fun not => absurd both.2 not⟩
      · obtain rfl := Option.some.inj held
        exact ⟨⟨nofun, nofun⟩, ⟨fun _ => rfl, fun _ => rfl⟩, ⟨fun _ => rfl, fun _ => rfl⟩⟩
      · obtain ⟨_, notQueued⟩ := (Panel.rowState_eq_clean _ r).mp clean
        exact h.cleanAgrees r (by simp) ((p.rowState_eq_clean r).mpr ⟨by rw [Panel.firingRow_of_none none]; nofun, notQueued⟩)
    · exact h.take both.1 both.2
  · exact h

/-- The planes, the queue, the bulk request and the supply are as they were, and the driver holds the same pulse for the same
row. -/
theorem Panel.AgreesBut.samePulse {p : Panel} (h : p.Agrees) {d : Driver} {f : Pulse → Pulse}
    (pulse : d.pulse = p.driver.pulse.map f) (same : ∀ x, (f x).row = x.row ∧ (f x).kind = x.kind)
    (state : d.state = p.driver.state) : ({ p with driver := d } : Panel).Agrees := by
  have firing : ({ p with driver := d } : Panel).firingRow = p.firingRow := by
    unfold Panel.firingRow
    dsimp only
    rw [pulse]
    cases p.driver.pulse with
    | none => rfl
    | some x => exact (same x).1
  refine ⟨h.queueNodup, by rw [firing]; exact h.firingNotQueued, ?_, fun x held => ?_, by dsimp only; rw [state]; exact h.bulkAsked,
    fun r _ clean => ?_, fun not => ?_⟩
  · dsimp only
    rw [pulse, state, Option.map_eq_none_iff]
    exact h.noPulse
  · dsimp only at held
    rw [pulse] at held
    obtain ⟨y, was, rfl⟩ := Option.map_eq_some_iff.mp held
    obtain ⟨row, kind⟩ := same y
    dsimp only
    rw [state, row, kind]
    exact h.rowPulse y was
  · obtain ⟨notFiring, notQueued⟩ := (Panel.rowState_eq_clean _ r).mp clean
    exact h.cleanAgrees r (by simp) ((p.rowState_eq_clean r).mpr ⟨firing ▸ notFiring, notQueued⟩)
  · obtain ⟨panel, doubt, none, bulk⟩ := h.darkUnlessReady not
    exact ⟨panel, doubt, by dsimp only; rw [pulse, none]; rfl, bulk⟩

/-- Only the supply changes. -/
theorem Panel.AgreesBut.supply {p : Panel} (h : p.Agrees) {v : Supply} (ready : v.state ≠ .ready → p.supply.state ≠ .ready) :
    ({ p with supply := v } : Panel).Agrees :=
  ⟨h.queueNodup, h.firingNotQueued, h.noPulse, h.rowPulse, h.bulkAsked, h.cleanAgrees, fun not => h.darkUnlessReady (ready not)⟩

theorem Panel.reset_agrees (supok : Bool) : (Panel.reset supok).Agrees := by
  refine ⟨List.nodup_nil, by simp [Panel.reset], by simp [Panel.reset, Driver.reset], by simp [Panel.reset, Driver.reset],
    by simp [Panel.reset, Driver.reset], fun r _ _ => ?_, fun _ => ⟨rfl, rfl, rfl, rfl⟩⟩
  rw [Panel.differs_eq_false]
  have mask : Marker.reset.rowMask r = 0 := rfl
  simp [Panel.overlayRow, Panel.reset, Plane.dark, mask]

/-- Every change keeps the agreement of planes, queue and pulse. -/
theorem Panel.Change.agrees {p q : Panel} (c : Panel.Change p q) (h : p.Agrees) : q.Agrees := by
  cases c with
  | redrawn d rows outside =>
    refine (h.retargeted (q := { p with drawn := d }) rows rfl rfl rfl rfl rfl rfl fun r out => ?_).joinRows
    unfold Panel.targetRow
    rw [show ({ p with drawn := d } : Panel).overlayRow r = p.overlayRow r from rfl, outside r out]
  | remarked n m rows outside legal =>
    exact (h.retargeted (q := p.setMarker n m) rows rfl rfl rfl rfl rfl rfl fun r out => Panel.targetRow_setMarker (outside r out)).joinRows
  | bulkAsked ready =>
    exact ⟨h.queueNodup, h.firingNotQueued, h.noPulse, h.rowPulse, fun _ => rfl, h.cleanAgrees, fun not => absurd ready not⟩
  | tested => exact h.startTest
  | issued pulse lines ticks held range =>
    exact h.samePulse (f := fun x => { x with deadline := some ticks }) (by rw [held]; rfl) (fun _ => ⟨rfl, rfl⟩) rfl
  | rowDone pulse r firing =>
    have other (x : Cols) (old : Plane) (s : Row) (ne : s ≠ r) : (old.set r.val x)[s.val] = old[s.val] :=
      Vector.getElem_set_ne r.isLt s.isLt fun e => ne (Fin.ext e.symm)
    have answered : (({ p.takeRowAnswer pulse.kind r pulse.selection with
        driver := (p.takeRowAnswer pulse.kind r pulse.selection).driver.withoutPulse .idle } : Panel)).AgreesBut [r] :=
      h.rowAnswered firing (.inl rfl) rfl rfl rfl rfl rfl (other _ _) (other _ _)
    have clean := (Panel.rowState_eq_clean { p.takeRowAnswer pulse.kind r pulse.selection with
      driver := (p.takeRowAnswer pulse.kind r pulse.selection).driver.withoutPulse .idle } r).mpr
      ⟨nofun, h.firingNotQueued r firing⟩
    have joined := answered.join
    unfold Panel.join at joined
    simp only [clean, true_and] at joined
    exact joined
  | bulkDone => exact Panel.rebuild_agrees rfl (.inl rfl) fun _ => ⟨rfl, rfl, rfl⟩
  | rowFaulted pulse r firing =>
    have answered : (({ p.doubtRow r pulse.selection with
        driver := (p.doubtRow r pulse.selection).driver.withoutPulse .stalled } : Panel)).AgreesBut [r] :=
      h.rowAnswered firing (.inr rfl) rfl rfl rfl rfl rfl (fun _ _ => rfl) fun s ne =>
        Vector.getElem_set_ne r.isLt s.isLt fun e => ne (Fin.ext e.symm)
    exact answered.append nofun (h.firingNotQueued r firing)
  | bulkFaulted pulse held => exact Panel.rebuild_agrees rfl (.inr rfl) fun not => absurd (h.ready held) not
  | counted long => exact h.samePulse rfl (fun _ => ⟨rfl, rfl⟩) rfl
  | resumed stalled =>
    have none := h.noPulse.mpr (.inr stalled)
    refine ⟨h.queueNodup, h.firingNotQueued, ⟨fun _ => .inl rfl, fun _ => none⟩, fun pulse held => ?_, nofun, h.cleanAgrees,
      h.darkUnlessReady⟩
    exact absurd (none.symm.trans held) nofun
  | down st dark =>
    refine Panel.rebuild_agrees rfl ?_ fun _ => ⟨rfl, rfl, rfl⟩
    dsimp only [Driver.withoutPulse]
    split <;> simp
  | risen => exact h.supply fun not => absurd rfl not
  | ramps off => exact h.supply fun _ => by rw [off]; nofun
  | supok level => exact h.supply id
  | rampCounted notReady notFailed =>
    refine h.supply fun not => ?_
    unfold Supply.countTick at not
    split at not <;> exact not
  | budget b range => exact h.samePulse (f := id) (by simp) (fun _ => ⟨rfl, rfl⟩) rfl

/-- No flag is in the agreement. -/
theorem Panel.AgreesBut.noted {p : Panel} (h : p.Agrees) (flag : Bool) : ({ p with settled := flag } : Panel).Agrees :=
  ⟨h.queueNodup, h.firingNotQueued, h.noPulse, h.rowPulse, h.bulkAsked, h.cleanAgrees, h.darkUnlessReady⟩

end Sys2Proof.Machine

/-! The ranges of the panel's fields under the changes, the changes that each operation of the panel makes, and what they leave of the
settled flag. -/

namespace Sys2Proof.Machine

/-! ## The ranges of the panel -/

/-- The fields of the panel are in their ranges, and the on-state of an active marker follows from its counter. -/
structure Panel.Ranged (p : Panel) : Prop where
  markers : ∀ k : Fin 2, (p.markers[k.val]).Legal
  onState : ∀ k : Fin 2, (p.markers[k.val]).active = true → (p.markers[k.val]).on = (p.markers[k.val]).onByCounter
  deadline : ∀ pulse k, p.driver.pulse = some pulse → pulse.deadline = some k → 1 ≤ k ∧ k ≤ 20
  ramp : p.supply.ramp < 50 ∧ (p.supply.state ≠ .ramping → p.supply.ramp = 0)
  budget : p.driver.budget = 16 ∨ p.driver.budget = 32 ∨ p.driver.budget = 64 ∨ p.driver.budget = 128

/-- The planes, the queue and the flags are in no range. -/
theorem Panel.Ranged.congr {p q : Panel} (h : p.Ranged) (markers : q.markers = p.markers)
    (pulse : q.driver.pulse = p.driver.pulse ∨ q.driver.pulse = none) (budget : q.driver.budget = p.driver.budget)
    (supply : q.supply = p.supply) : q.Ranged := by
  refine ⟨by rw [markers]; exact h.markers, by rw [markers]; exact h.onState, fun x k held => ?_, by rw [supply]; exact h.ramp,
    by rw [budget]; exact h.budget⟩
  rcases pulse with same | none
  · rw [same] at held
    exact h.deadline x k held
  · rw [none] at held
    cases held

theorem Panel.Ranged.joinRows {p : Panel} (h : p.Ranged) (rows : List Row) : (Panel.joinRows rows p).Ranged := by
  obtain ⟨q, e⟩ := Panel.joinRows_eq rows p
  rw [e]
  exact h.congr rfl (.inl rfl) rfl rfl

/-- Another supply, whose ramp count is in its range. -/
theorem Panel.Ranged.supply {p : Panel} (h : p.Ranged) {v : Supply} (ramp : v.ramp < 50 ∧ (v.state ≠ .ramping → v.ramp = 0)) :
    ({ p with supply := v } : Panel).Ranged := ⟨h.markers, h.onState, h.deadline, ramp, h.budget⟩

theorem Panel.Ranged.setMarker {p : Panel} (h : p.Ranged) (n : Fin 2) {m : Marker} (legal : m.Legal)
    (on : m.active = true → m.on = m.onByCounter) : (p.setMarker n m).Ranged := by
  have marker (k : Fin 2) : (p.setMarker n m).markers[k.val] = if k = n then m else p.markers[k.val] := by
    unfold Panel.setMarker
    by_cases e : k = n
    · subst e; simp
    · rw [if_neg e]
      exact Vector.getElem_set_ne n.isLt k.isLt fun x => e (Fin.ext x.symm)
  refine ⟨fun k => ?_, fun k => ?_, h.deadline, h.ramp, h.budget⟩ <;> rw [marker]
  · split
    · exact legal
    · exact h.markers k
  · split
    · exact on
    · exact h.onState k

/-- A pulse that is formed has no deadline yet. -/
theorem Panel.Ranged.pulse {p : Panel} (h : p.Ranged) (st : DriverState) {pulse : Pulse} (none : pulse.deadline = none)
    (queue : List Row) : ({ p with queue := queue, driver := p.driver.withPulse st pulse } : Panel).Ranged := by
  refine ⟨h.markers, h.onState, fun x k held some => ?_, h.ramp, h.budget⟩
  obtain rfl := Option.some.inj held
  exact absurd (none.symm.trans some) nofun

/-- Every change keeps the panel's fields in their ranges. -/
theorem Panel.Change.ranged {p q : Panel} (c : Panel.Change p q) (h : p.Ranged) : q.Ranged := by
  cases c with
  | redrawn d rows outside =>
    have drawn : ({ p with drawn := d } : Panel).Ranged := h.congr rfl (.inl rfl) rfl rfl
    exact drawn.joinRows rows
  | remarked n m rows outside legal =>
    obtain ⟨legal, on⟩ := legal (h.markers n) (h.onState n)
    exact (h.setMarker n legal on).joinRows rows
  | bulkAsked ready => exact h.congr rfl (.inl rfl) rfl rfl
  | tested =>
    unfold Panel.startTest
    split
    · split
      · exact h.pulse .bulk rfl p.queue
      · unfold Panel.take
        split
        · exact h.congr rfl (.inl rfl) rfl rfl
        · next r rest _ => exact h.pulse .firing rfl rest
    · exact h
  | issued pulse lines ticks held range =>
    refine ⟨h.markers, h.onState, fun x k e some => ?_, h.ramp, h.budget⟩
    obtain rfl := Option.some.inj e
    obtain rfl := Option.some.inj some
    exact range
  | rowDone pulse r firing =>
    unfold Panel.completeRow Panel.requeue
    dsimp only
    split
    · exact h.congr rfl (.inr rfl) rfl rfl
    · exact h.congr rfl (.inr rfl) rfl rfl
  | bulkDone => exact h.congr rfl (.inr rfl) rfl rfl
  | rowFaulted pulse r firing => exact h.congr rfl (.inr rfl) rfl rfl
  | bulkFaulted pulse held => exact h.congr rfl (.inr rfl) rfl rfl
  | counted long =>
    refine ⟨h.markers, h.onState, fun x k e some => ?_, h.ramp, h.budget⟩
    obtain ⟨y, held, rfl⟩ := Option.map_eq_some_iff.mp e
    obtain ⟨j, was, rfl⟩ := Option.map_eq_some_iff.mp some
    have := h.deadline y j held was
    have := long y j held was
    omega
  | resumed stalled => exact h.congr rfl (.inl rfl) rfl rfl
  | down st dark =>
    have off : ({ p with supply := p.supply.enter st } : Panel).Ranged := h.supply ⟨by simp [Supply.enter], fun _ => rfl⟩
    exact off.congr rfl (.inr rfl) rfl rfl
  | risen => exact h.supply ⟨by simp [Supply.enter], fun _ => rfl⟩
  | ramps off => exact h.supply ⟨by simp [Supply.enter], fun _ => rfl⟩
  | supok level => exact h.supply h.ramp
  | rampCounted notReady notFailed =>
    refine h.supply ?_
    obtain ⟨small, zero⟩ := h.ramp
    unfold Supply.countTick
    split
    · next ramping =>
      refine ⟨?_, fun not => absurd ramping not⟩
      dsimp only
      by_contra long
      have minimum : rampMinimum ≤ p.supply.ramp + 1 := by unfold rampMinimum; omega
      have limit : rampLimit ≤ p.supply.ramp + 1 := by unfold rampLimit; omega
      simp only [Supply.readyNext, ramping, minimum, decide_true, Bool.and_self, Bool.true_and] at notReady
      simp [Supply.failsNext, ramping, limit, notReady] at notFailed
    · exact ⟨small, zero⟩
  | budget b range => exact ⟨h.markers, h.onState, h.deadline, h.ramp, range⟩

theorem Panel.Changes.agrees {p q : Panel} (c : Panel.Changes p q) (h : p.Agrees) : q.Agrees :=
  c.keeps (fun _ _ m => m.agrees) h

theorem Panel.Changes.ranged {p q : Panel} (c : Panel.Changes p q) (h : p.Ranged) : q.Ranged :=
  c.keeps (fun _ _ m => m.ranged) h

/-! ## The settled flag -/

theorem Panel.joinRows_settled (rows : List Row) (p : Panel) : (Panel.joinRows rows p).settled = p.settled := by
  obtain ⟨q, e⟩ := Panel.joinRows_eq rows p
  rw [e]

/-- No change moves the settled flag, which follows after it (R18). -/
theorem Panel.Change.settled {p q : Panel} (c : Panel.Change p q) : q.settled = p.settled := by
  cases c with
  | redrawn d rows outside => exact Panel.joinRows_settled _ _
  | remarked n m rows outside legal => exact Panel.joinRows_settled _ _
  | tested => exact p.startTest_settled
  | rowDone pulse r firing =>
    unfold Panel.completeRow Panel.requeue
    dsimp only
    split <;> rfl
  | _ => rfl

theorem Panel.Changes.settled {p q : Panel} (c : Panel.Changes p q) : q.settled = p.settled :=
  c.keeps (J := fun x => x.settled = p.settled) (fun _ _ m e => m.settled.trans e) rfl

/-! ## The operations of the plane store and the markers -/

theorem Panel.paintRow_changes (c : Context) (y : Int) (ones zeros : Cols) (p : Panel) :
    Panel.Changes p (p.paintRow c y ones zeros).1 := by
  obtain ⟨e, _⟩ | ⟨r, _, _, _, e⟩ := p.paintRow_cases c y ones zeros
  · rw [e]; exact .refl p
  · rw [e]
    exact (Panel.Change.redrawn p _ [r] fun q out => Vector.getElem_set_ne r.isLt q.isLt fun e =>
      out (by simpa using Fin.ext e.symm)).changes

theorem Panel.paintRows_changes (c : Context) (rows : List PaintedRow) (p : Panel) :
    Panel.Changes p (Panel.paintRows c rows p).1 := by
  induction rows generalizing p with
  | nil => exact .refl p
  | cons row rest ih => exact (p.paintRow_changes c row.y row.ones row.zeros).trans (ih _)

theorem Panel.clearAll_changes (p : Panel) : Panel.Changes p p.clearAll := by
  have cleared : Panel.Changes p (Panel.joinRows p.litRows { p with drawn := Plane.dark }) := by
    refine (Panel.Change.redrawn p Plane.dark p.litRows fun r out => ?_).changes
    have dark : p.drawn[r.val] = 0 := by
      unfold Panel.litRows at out
      rw [List.mem_filter, not_and] at out
      simpa using out (mem_allRows r)
    rw [dark]
    simp [Plane.dark]
  unfold Panel.clearAll
  dsimp only
  split
  · next ready => exact cleared.trans (Panel.Change.bulkAsked _ ready).changes
  · exact cleared

/-- A marker that is off, or does not reach a row, inverts none of its cells. -/
theorem Marker.rowMask_of_not {m : Marker} {r : Row} (h : ¬(m.inverts = true ∧ m.reaches r = true)) : m.rowMask r = 0 := by
  unfold Marker.rowMask
  rw [if_neg (by simpa using h)]

theorem Panel.removeMarker_changes (n : Fin 2) (p : Panel) : Panel.Changes p (p.removeMarker n) := by
  have gone (r : Row) : ({ p.markers[n.val] with active := false, on := false } : Marker).rowMask r = 0 :=
    Marker.rowMask_of_not (by simp [Marker.inverts])
  have remarked (rows : List Row) (out : ∀ r : Row, r ∉ rows → p.markers[n.val].rowMask r = 0) :=
    (Panel.Change.remarked p n { p.markers[n.val] with active := false, on := false } rows
      (fun r h => (gone r).trans (out r h).symm) fun _ _ => ⟨nofun, nofun⟩).changes
  unfold Panel.removeMarker
  dsimp only
  split
  · refine remarked _ fun r out => Marker.rowMask_of_not fun both => out ((Marker.mem_rows _ r).mpr both.2)
  · next off => exact remarked [] fun r _ => Marker.rowMask_of_not fun both => off both.1

/-- The marker that was removed is inactive. -/
theorem Panel.removeMarker_inactive (n : Fin 2) (p : Panel) : ((p.removeMarker n).markers[n.val]).active = false := by
  unfold Panel.removeMarker
  dsimp only
  split
  · obtain ⟨q, e⟩ := Panel.joinRows_eq p.markers[n.val].rows
      (p.setMarker n { p.markers[n.val] with active := false, on := false })
    rw [e]
    simp [Panel.setMarker]
  · simp [Panel.setMarker]

theorem Panel.defineMarker_changes (n : Fin 2) {m : Marker} (legal : m.Legal) (on : m.active = true → m.on = m.onByCounter)
    (p : Panel) : Panel.Changes p (p.defineMarker n m) := by
  have was (r : Row) : ((p.removeMarker n).markers[n.val]).rowMask r = 0 :=
    Marker.rowMask_of_not (by simp [Marker.inverts, p.removeMarker_inactive n])
  have added (rows : List Row) (out : ∀ r : Row, r ∉ rows → m.rowMask r = 0) :=
    (Panel.Change.remarked (p.removeMarker n) n m rows (fun r h => (out r h).trans (was r).symm) fun _ _ => ⟨legal, on⟩).changes
  refine (p.removeMarker_changes n).trans ?_
  unfold Panel.defineMarker
  dsimp only
  split
  · exact added _ fun r out => Marker.rowMask_of_not fun both => out ((Marker.mem_rows m r).mpr both.2)
  · next off => exact added [] fun r _ => Marker.rowMask_of_not fun both => off (by
      have := both.1
      simp only [Marker.inverts, Bool.and_eq_true] at this
      exact this.2)

/-- The counter of a legal marker stays below its period, and the on-state follows it (R125, R126). -/
theorem Marker.advance_legal {m : Marker} (legal : m.Legal) (on : m.active = true → m.on = m.onByCounter) :
    m.advance.Legal ∧ (m.advance.active = true → m.advance.on = m.advance.onByCounter) := by
  unfold Marker.advance
  split
  · next active =>
    obtain ⟨x, y, w, w', h, h', p, p', d, c⟩ := legal active
    refine ⟨fun _ => ⟨x, y, w, w', h, h', p, p', d, ?_⟩, fun _ => rfl⟩
    dsimp only
    split <;> omega
  · exact ⟨legal, on⟩

theorem Marker.advance_rowMask {m : Marker} (still : m.advance.on = m.on) (r : Row) : m.advance.rowMask r = m.rowMask r := by
  unfold Marker.advance at still ⊢
  split
  · next active =>
    rw [if_pos active] at still
    unfold Marker.rowMask Marker.inverts Marker.reaches
    dsimp only at still ⊢
    simp only [still]
  · rfl

theorem Marker.advance_reaches (m : Marker) (r : Row) : m.advance.reaches r = m.reaches r := by
  unfold Marker.advance
  split <;> rfl

theorem Panel.tickMarker_changes (n : Fin 2) (p : Panel) : Panel.Changes p (p.tickMarker n) := by
  have ticked (rows : List Row) (out : ∀ r : Row, r ∉ rows → (p.markers[n.val]).advance.rowMask r = (p.markers[n.val]).rowMask r) :=
    (Panel.Change.remarked p n p.markers[n.val].advance rows out Marker.advance_legal).changes
  unfold Panel.tickMarker
  dsimp only
  split
  · refine ticked _ fun r out => ?_
    have far : (p.markers[n.val]).reaches r = false := by
      rw [Marker.mem_rows] at out
      simpa using out
    rw [Marker.rowMask_of_not (m := p.markers[n.val].advance) (by simp [Marker.advance_reaches, far]),
      Marker.rowMask_of_not (by simp [far])]
  · next still =>
    refine ticked [] fun r _ => Marker.advance_rowMask ?_ r
    simpa [Marker.flipsNext] using still

/-! ## What a target change leaves -/

/-- Only the drawn plane, the markers and the tail of the queue change. -/
def Panel.Retargets (p q : Panel) : Prop :=
  ∃ d markers tail, q = { p with drawn := d, markers := markers, queue := p.queue ++ tail }

theorem Panel.Retargets.refl (p : Panel) : Panel.Retargets p p := ⟨p.drawn, p.markers, [], by simp⟩

theorem Panel.Retargets.trans {p q r : Panel} (h : Panel.Retargets p q) (k : Panel.Retargets q r) : Panel.Retargets p r := by
  obtain ⟨d, m, t, rfl⟩ := h
  obtain ⟨d', m', t', rfl⟩ := k
  exact ⟨d', m', t ++ t', by simp⟩

theorem Panel.Retargets.joinRows {p q : Panel} (h : Panel.Retargets p q) (rows : List Row) :
    Panel.Retargets p (Panel.joinRows rows q) := by
  obtain ⟨t, e⟩ := Panel.joinRows_eq rows q
  exact h.trans ⟨q.drawn, q.markers, t, e⟩

theorem Panel.setMarker_retargets (n : Fin 2) (m : Marker) (p : Panel) : Panel.Retargets p (p.setMarker n m) :=
  ⟨p.drawn, p.markers.set n.val m, [], by simp [Panel.setMarker]⟩

theorem Panel.paintRows_retargets (c : Context) (rows : List PaintedRow) (p : Panel) :
    Panel.Retargets p (Panel.paintRows c rows p).1 := by
  obtain ⟨d, q, e⟩ := Panel.paintRows_eq c rows p
  exact ⟨d, p.markers, q, e⟩

theorem Panel.removeMarker_retargets (n : Fin 2) (p : Panel) : Panel.Retargets p (p.removeMarker n) := by
  unfold Panel.removeMarker
  dsimp only
  split
  · exact (p.setMarker_retargets n _).joinRows _
  · exact p.setMarker_retargets n _

theorem Panel.defineMarker_retargets (n : Fin 2) (m : Marker) (p : Panel) : Panel.Retargets p (p.defineMarker n m) := by
  have added := (p.removeMarker_retargets n).trans (Panel.setMarker_retargets n m _)
  unfold Panel.defineMarker
  dsimp only
  split
  · exact added.joinRows _
  · exact added

theorem Panel.tickMarker_retargets (n : Fin 2) (p : Panel) : Panel.Retargets p (p.tickMarker n) := by
  unfold Panel.tickMarker
  dsimp only
  split
  · exact (p.setMarker_retargets n _).joinRows _
  · exact p.setMarker_retargets n _

end Sys2Proof.Machine

/-! What each event sees to at the panel: the planes, the queue and the pulse agree, the fields stay in their ranges, the settled flag
follows, no lane is left waiting in a DRAIN, and at its end no row waits that the driver could take. -/

namespace Sys2Proof.Machine

/-! ## What an event does at the panel -/

/-- Part of an event at the panel: what holds all through it is kept. -/
structure State.Alters (s t : State) : Prop where
  agrees : s.panel.Agrees → t.panel.Agrees
  ranged : s.panel.Ranged → t.panel.Ranged
  flag : s.panel.settled = s.panel.isSettled → t.panel.settled = t.panel.isSettled
  waits : s.DrainsWait → t.DrainsWait

/-- Part of an event after which no row waits that the driver could take, if none did before it (R30, R31). -/
structure State.Sees (s t : State) : Prop extends State.Alters s t where
  rests : s.panel.NothingWaits → t.panel.NothingWaits

theorem State.Alters.refl (s : State) : State.Alters s s := ⟨id, id, id, id⟩

theorem State.Alters.trans {a b c : State} (h : State.Alters a b) (k : State.Alters b c) : State.Alters a c :=
  ⟨k.agrees ∘ h.agrees, k.ranged ∘ h.ranged, k.flag ∘ h.flag, k.waits ∘ h.waits⟩

theorem State.Sees.refl (s : State) : State.Sees s s := ⟨.refl s, id⟩

theorem State.Sees.trans {a b c : State} (h : State.Sees a b) (k : State.Sees b c) : State.Sees a c :=
  ⟨h.toAlters.trans k.toAlters, k.rests ∘ h.rests⟩

/-- Both branches of a choice. -/
theorem State.Sees.ite {c : Prop} [Decidable c] {s a b : State} (h : c → State.Sees s a) (k : ¬c → State.Sees s b) :
    State.Sees s (if c then a else b) := by
  split
  · exact h ‹_›
  · exact k ‹_›

/-- Elsewhere than at the panel, an event that begins no DRAIN leaves all of this. -/
theorem State.Sees.ofWork {s t : State} (panel : t.panel = s.panel)
    (draining : ∀ n, (t.work.laneOf n).state = .draining → (s.work.laneOf n).state = .draining) : State.Sees s t := by
  refine ⟨⟨?_, ?_, ?_, fun waits settled n drains => ?_⟩, ?_⟩
  · rw [panel]; exact id
  · rw [panel]; exact id
  · rw [panel]; exact id
  · rw [panel] at settled
    exact waits settled n (draining n drains)
  · rw [panel]; exact id

theorem State.Sees.onWork {f : Work → Work} {s : State} (h : Work.Follows s.work (f s.work)) : State.Sees s (s.onWork f) :=
  .ofWork rfl h.draining

/-- Moves of the lane unit that stand on no assumption begin no DRAIN. -/
theorem State.Sees.moves {s : State} {w : Work} (h : Work.Moves False s.work w) : State.Sees s { s with work := w } :=
  .ofWork rfl h.draining

theorem State.Sees.bus {s : State} {w : Work} (h : Work.BusOnly s.work w) : State.Sees s { s with work := w } :=
  .moves h.moves

/-- A lane changes, but not its state. -/
theorem State.Sees.lane (n : LaneNo) (f : Lane → Lane) (state : ∀ l, (f l).state = l.state) (s : State) :
    State.Sees s (s.modLane n f) := by
  refine .ofWork rfl fun m drains => ?_
  simp only [State.modLane, State.onWork, Work.laneOf_modLane] at drains
  split at drains
  · next e => rw [state, ← e] at drains; exact drains
  · exact drains

/-! ## The settled flag -/

/-- Once every DRAIN is complete, none is left. -/
theorem completeDrains_noneDraining (w : Work) : (completeDrains w).noneDraining := by
  have fold (l : List LaneNo) : ∀ (w : Work) (n : LaneNo), ((l.foldl (fun w n => completeDrain n w) w).laneOf n).state = .draining →
      n ∉ l := by
    induction l with
    | nil => exact fun _ _ _ => List.not_mem_nil
    | cons m rest ih =>
      intro w n drains
      have later := ih (completeDrain m w) n drains
      simp only [List.mem_cons, not_or]
      refine ⟨?_, later⟩
      rintro rfl
      have moves : Work.Moves False (completeDrain n w) (rest.foldl (fun w n => completeDrain n w) (completeDrain n w)) :=
        foldl_moves rest (fun m _ v => .ite (fun c => completeWaiting_moves (.inr c)) fun _ => .refl v) _
      have still := moves.draining n drains
      unfold completeDrain at still
      split at still
      · have ready := (writeLaneRecord_moves (A := False) n 0 _).draining n still
        rw [Work.laneOf_modLane_same] at ready
        cases ready
      · next not => exact not still
  exact fun n drains => fold _ w n drains (List.mem_finRange n)

/-- The flag follows, and an entry into settled completes every DRAIN (R18, R65). -/
theorem noteSettled_alters (s : State) : State.Alters s (noteSettled s) := by
  refine ⟨fun h => ?_, fun h => ?_, fun _ => ?_, fun waits settled => ?_⟩
  · rw [noteSettled_panel]
    exact h.noted _
  · rw [noteSettled_panel]
    exact h.congr rfl (.inl rfl) rfl rfl
  · rw [noteSettled_panel]
    rfl
  · rw [noteSettled_panel] at settled
    unfold noteSettled
    dsimp only
    split
    · rw [settledEntry_work]
      exact completeDrains_noneDraining _
    · next not =>
      by_cases flag : s.panel.settled = true
      · exact waits flag
      · exact absurd ⟨settled, by simpa using flag⟩ not

theorem noteSettled_flag (s : State) : (noteSettled s).panel.settled = (noteSettled s).panel.isSettled := by
  rw [noteSettled_panel]
  rfl

/-- Changes of the panel after which the flag follows. -/
theorem changePanel_alters {f : Panel → Panel} {s : State} (h : Panel.Changes s.panel (f s.panel)) :
    State.Alters s (changePanel f s) := by
  have noted := noteSettled_alters (s.onPanel f)
  refine ⟨fun k => noted.agrees (h.agrees k), fun k => noted.ranged (h.ranged k), fun _ => noteSettled_flag _, fun waits => ?_⟩
  refine noted.waits fun settled => waits ?_
  rw [← h.settled]
  exact settled

theorem startTest_alters (s : State) : State.Alters s (startTest s) := changePanel_alters (Panel.Change.tested s.panel).changes

/-- A panel whose queue, bulk request, driver state and supply are those of another. -/
theorem Panel.NothingWaits.congr {p q : Panel} (h : p.NothingWaits) (state : q.driver.state = p.driver.state)
    (supply : q.supply.state = p.supply.state) (queue : q.queue = p.queue) (bulk : q.bulkRequest = p.bulkRequest) :
    q.NothingWaits := by
  unfold Panel.NothingWaits
  rw [state, supply, queue, bulk]
  exact h

/-- A driver that is not IDLE can take nothing. -/
theorem Panel.nothingWaits_of_busy {p : Panel} (h : p.driver.state ≠ .idle) : p.NothingWaits := fun idle => absurd idle h

/-- Without READY there is nothing to take. -/
theorem Panel.nothingWaits_of_notReady {p : Panel} (h : p.supply.state ≠ .ready) : p.NothingWaits := fun _ ready => absurd ready h

/-- After a start test nothing waits (R30, R31). -/
theorem Panel.startTest_nothingWaits (p : Panel) : p.startTest.NothingWaits := by
  unfold Panel.startTest
  split
  · split
    · exact Panel.nothingWaits_of_busy nofun
    · next bulk =>
      unfold Panel.take
      split
      · exact fun _ _ => ⟨rfl, by simpa using bulk⟩
      · exact Panel.nothingWaits_of_busy nofun
  · next not => exact fun idle ready => absurd ⟨idle, ready⟩ not

theorem startTest_nothingWaits (s : State) : (startTest s).panel.NothingWaits := by
  rw [startTest, changePanel_panel]
  exact s.panel.startTest_nothingWaits.congr rfl rfl rfl rfl

/-- What alters the panel is seen to by the start test after it. -/
theorem State.Alters.startTest {s t : State} (h : State.Alters s t) : State.Sees s (startTest t) :=
  ⟨h.trans (startTest_alters t), fun _ => startTest_nothingWaits t⟩

/-- A change of the targets ends with a start test where a row joined, and otherwise leaves the queue as it was (R10, R31). -/
theorem changeTarget_sees {f : Panel → Panel} {s : State} (h : Panel.Changes s.panel (f s.panel))
    (k : Panel.Retargets s.panel (f s.panel)) : State.Sees s (changeTarget f s) := by
  have altered := changePanel_alters h
  unfold changeTarget
  dsimp only
  split
  · exact altered.startTest
  · next short =>
    refine ⟨altered, fun rests => ?_⟩
    rw [changePanel_panel] at short ⊢
    obtain ⟨d, markers, tail, e⟩ := k
    rw [e] at short ⊢
    have none : tail = [] := by
      rw [← List.length_eq_zero_iff]
      simp only [List.length_append] at short
      omega
    subst none
    exact rests.congr rfl rfl (by simp) rfl

/-- A change of the panel that leaves the settled condition alone, with no flag to follow. -/
theorem Panel.Change.alters {s : State} {f : Panel → Panel} (h : Panel.Change s.panel (f s.panel))
    (settled : (f s.panel).isSettled = s.panel.isSettled) : State.Alters s (s.onPanel f) := by
  refine ⟨h.agrees, h.ranged, fun flag => ?_, fun waits flag => waits ?_⟩
  · exact h.settled.trans (flag.trans settled.symm)
  · exact h.settled.symm.trans flag

/-! ## The lane unit's part of an event -/

section

variable {n : LaneNo} {s : State}

theorem endPanelEvent_sees (s : State) : State.Sees s (endPanelEvent s) := .moves (settleLanes_moves _)

theorem pointInside_sees (n : LaneNo) (s : State) : State.Sees s (pointInside n s) :=
  .moves ((preemptionPoint_moves nofun).trans (settleLanes_moves _))

theorem endBlock_sees (n : LaneNo) (o : BlockOutcome) (s : State) : State.Sees s (endBlock n o s) :=
  .moves ((retire_moves n o s.work).trans (settleLanes_moves _))

theorem modProgress_sees (n : LaneNo) (f : Progress → Progress) (s : State) : State.Sees s (modProgress n f s) :=
  .lane n (fun l => { l with progress := f l.progress }) (fun _ => rfl) s

theorem completeRecord_sees (n : LaneNo) (s : State) : State.Sees s (completeRecord n s) :=
  (modProgress_sees n _ s).trans (pointInside_sees n _)

theorem suspendable_sees (n : LaneNo) (r : RecordInHand) (s : State) : State.Sees s (suspendable n r s) :=
  (modProgress_sees n _ s).trans (pointInside_sees n _)

theorem afterRow_sees (n : LaneNo) (h k : Nat) (next : Nat → RecordInHand) (s : State) :
    State.Sees s (afterRow n h k next s) := .ite (fun _ => completeRecord_sees n s) fun _ => suspendable_sees n _ s

theorem modContext_sees (n : LaneNo) (f : Context → Context) (s : State) : State.Sees s (modContext n f s) :=
  .lane n (fun l => { l with context := f l.context }) (fun _ => rfl) s

theorem countCells_sees (n : LaneNo) (cells : Nat) (s : State) : State.Sees s (countCells n cells s) :=
  modProgress_sees n _ s

theorem drawRows_sees (n : LaneNo) (rows : List PaintedRow) (s : State) : State.Sees s (drawRows n rows s) :=
  (changeTarget_sees (f := fun _ => (s.panel.paintRows (s.contextOf n) rows).1) (s.panel.paintRows_changes _ rows)
    (s.panel.paintRows_retargets _ rows)).trans (countCells_sees n _ _)

theorem checked_sees {ok : Bool} {act : State → State} (h : ok = true → State.Sees s (act s)) :
    State.Sees s (checked ok n act s) := .ite h fun _ => endBlock_sees n _ s

end

end Sys2Proof.Machine

/-! The sixteen records at the panel. -/

namespace Sys2Proof.Machine

section

variable {n : LaneNo} {s : State}

/-! ## The records that are carried out at once -/

theorem moveAct_sees (r : RecordWords) (s : State) : State.Sees s (moveAct n r s) :=
  (modContext_sees n _ s).trans (completeRecord_sees n _)

theorem pointAct_sees (r : RecordWords) (s : State) : State.Sees s (pointAct n r s) :=
  ((drawRows_sees n _ s).trans (modContext_sees n _ _)).trans (completeRecord_sees n _)

theorem vectorAct_sees (r : RecordWords) (s : State) : State.Sees s (vectorAct n r s) :=
  ((drawRows_sees n _ s).trans (modContext_sees n _ _)).trans (completeRecord_sees n _)

theorem clearallAct_sees (r : RecordWords) (s : State) : State.Sees s (clearallAct n r s) := by
  have counted := countCells_sees n (Plane.litCells s.panel.drawn) s
  exact (counted.trans (changePanel_alters (Panel.clearAll_changes _)).startTest).trans (completeRecord_sees n _)

theorem setmodeAct_sees (r : RecordWords) (s : State) : State.Sees s (setmodeAct n r s) :=
  checked_sees fun _ => (modContext_sees n _ s).trans (completeRecord_sees n _)

theorem setclipAct_sees (r : RecordWords) (s : State) : State.Sees s (setclipAct n r s) := by
  unfold setclipAct
  dsimp only
  exact checked_sees fun _ => (modContext_sees n _ s).trans (completeRecord_sees n _)

theorem settextAct_sees (r : RecordWords) (s : State) : State.Sees s (settextAct n r s) := by
  unfold settextAct
  dsimp only
  exact checked_sees fun _ => (modContext_sees n _ s).trans (completeRecord_sees n _)

theorem storeGlyph_sees (set code : Nat) (g : Glyph) (s : State) : State.Sees s (storeGlyph set code g s) := by
  unfold storeGlyph
  split <;> exact .ofWork rfl fun _ => id

theorem loadGlyphs_sees (set count code : Nat) (source : Addr) (s : State) :
    State.Sees s (loadGlyphs n set count code source s).2 := by
  induction count generalizing code source s with
  | zero => exact .refl s
  | succ count ih =>
    have read := readStationList_busOnly .engine (some n) (wordRun source 8) s.work
    unfold loadGlyphs
    split <;> rename_i e <;> rw [e] at read
    · exact ((State.Sees.bus read).trans (storeGlyph_sees _ _ _ _)).trans (ih _ _ _)
    · exact .bus read

theorem glyphloadAct_sees (r : RecordWords) (s : State) : State.Sees s (glyphloadAct n r s) := by
  unfold glyphloadAct
  dsimp only
  refine checked_sees fun _ => ?_
  have load := loadGlyphs_sees (n := n) (r.imm.extractLsb' 0 2).toNat (r.imm.extractLsb' 4 7).toNat (fieldNat r.words 0)
    (address20 (fieldWord r.words 1) (fieldWord r.words 2)) s
  split <;> rename_i e <;> rw [e] at load
  · exact load.trans (completeRecord_sees n _)
  · exact load.trans (endBlock_sees n _ _)

/-- A marker that passes the checks of MARK is in its ranges (R107, R124). -/
theorem Marker.defined_legal {imm : BitVec 12} {x y : Int} {w h p d : Nat} (ok : markOk imm x y w h p d = true) (top : p ≤ 255) :
    (Marker.defined x.toNat y.toNat w h p d).Legal := by
  simp only [markOk, onPanel, markerSizeOk, Bool.and_eq_true, decide_eq_true_eq] at ok
  intro _
  simp only [Marker.defined]
  omega

theorem markAct_sees (r : RecordWords) (s : State) : State.Sees s (markAct n r s) := by
  unfold markAct
  dsimp only
  refine checked_sees fun ok => (changeTarget_sees ?_ (Panel.defineMarker_retargets _ _ _)).trans (completeRecord_sees n _)
  have top := ((fieldWord r.words 4).extractLsb' 8 8).isLt
  exact Panel.defineMarker_changes _ (Marker.defined_legal ok (by omega)) (fun _ => rfl) _

theorem unmarkAct_sees (r : RecordWords) (s : State) : State.Sees s (unmarkAct n r s) :=
  checked_sees fun _ =>
    (changeTarget_sees (Panel.removeMarker_changes _ _) (Panel.removeMarker_retargets _ _)).trans (completeRecord_sees n _)

/-- A lane stops at its record, which is no DRAIN or finds the plane store not settled (R64, R65). -/
theorem stopLane_sees {st : LaneState} (f : Progress → Progress) (waits : st = .draining → s.panel.settled = false) :
    State.Sees s (stopLane n st f s) := by
  have moves : Work.Moves False ((s.work.modLane n fun l => { l with state := st, progress := f l.progress }).release n)
      (stopLane n st f s).work := (writeLaneRecord_moves n 0 _).trans (settleLanes_moves _)
  by_cases drains : st = .draining
  · refine ⟨⟨id, id, id, fun _ settled => ?_⟩, id⟩
    exact absurd ((waits drains).symm.trans settled) nofun
  · refine .ofWork rfl fun m later => ?_
    have before := moves.draining m later
    rw [Work.laneOf_release, Work.laneOf_modLane] at before
    split at before
    · exact absurd before drains
    · exact before

theorem waitAct_sees (r : RecordWords) (s : State) : State.Sees s (waitAct n r s) :=
  .ite (fun _ => completeRecord_sees n s) fun _ =>
    .ite (fun _ => endBlock_sees n _ s) fun _ => stopLane_sees _ nofun

theorem drainAct_sees (r : RecordWords) (s : State) : State.Sees s (drainAct n r s) :=
  .ite (fun _ => completeRecord_sees n s) fun unsettled =>
    .ite (fun _ => endBlock_sees n _ s) fun _ => stopLane_sees _ fun _ => by simpa using unsettled

/-! ## The records that are divided -/

theorem areaRow_sees (x y : Int) (w h k : Nat) (s : State) : State.Sees s (areaRow n x y w h k s) :=
  (drawRows_sees n _ s).trans (afterRow_sees n _ _ _ _)

theorem areaAct_sees (r : RecordWords) (s : State) : State.Sees s (areaAct n r s) :=
  checked_sees fun _ => areaRow_sees _ _ _ _ _ s

theorem areaResume_sees (r : RecordInHand) (s : State) : State.Sees s (areaResume n r s) := by
  cases r
  case area => exact areaRow_sees _ _ _ _ _ s
  all_goals exact .refl s

theorem imageRow_sees (x y : Int) (w h : Nat) (source : Addr) (stride k : Nat) (s : State) :
    State.Sees s (imageRow n x y w h source stride k s) := by
  have read := readStationList_busOnly .engine (some n)
    (wordRun (addressPlus source (2 * stride * k)) (rowWords w)) s.work
  unfold imageRow
  split <;> rename_i e <;> rw [e] at read
  · exact ((State.Sees.bus read).trans (drawRows_sees n _ _)).trans (afterRow_sees n _ _ _ _)
  · exact (State.Sees.bus read).trans (endBlock_sees n _ _)

theorem imageAct_sees (r : RecordWords) (s : State) : State.Sees s (imageAct n r s) :=
  checked_sees fun _ => imageRow_sees _ _ _ _ _ _ _ s

theorem imageResume_sees (r : RecordInHand) (s : State) : State.Sees s (imageResume n r s) := by
  cases r
  case image => exact imageRow_sees _ _ _ _ _ _ _ s
  all_goals exact .refl s

theorem readbackRow_sees (x y w h : Nat) (target : Addr) (stride k : Nat) (s : State) :
    State.Sees s (readbackRow n x y w h target stride k s) := by
  have write := writeStationList_busOnly .engine (some n) (readbackWords s x y w target stride k) s.work
  unfold readbackRow
  refine .ite (fun _ => ?_) fun _ => endBlock_sees n _ s
  split <;> rename_i e <;> rw [e] at write
  · exact (State.Sees.bus write).trans (afterRow_sees n _ _ _ _)
  · exact (State.Sees.bus write).trans (endBlock_sees n _ _)

theorem readbackAct_sees (r : RecordWords) (s : State) : State.Sees s (readbackAct n r s) :=
  checked_sees fun _ => readbackRow_sees _ _ _ _ _ _ _ s

theorem readbackResume_sees (r : RecordInHand) (s : State) : State.Sees s (readbackResume n r s) := by
  cases r
  case readback => exact readbackRow_sees _ _ _ _ _ _ _ s
  all_goals exact .refl s

theorem takeOctet_sees (o : Byte) (s : State) : State.Sees s (takeOctet n o s) :=
  .ite (fun _ => ((modContext_sees n _ s).trans (drawRows_sees n _ _)).trans (modContext_sees n _ _)) fun _ =>
    modContext_sees n _ s

theorem textOctet_sees (octets : List Byte) (k : Nat) (s : State) : State.Sees s (textOctet n octets k s) :=
  (takeOctet_sees _ s).trans (afterRow_sees n _ _ _ _)

theorem textAct_sees (r : RecordWords) (s : State) : State.Sees s (textAct n r s) :=
  checked_sees fun _ => textOctet_sees _ _ s

theorem textResume_sees (r : RecordInHand) (s : State) : State.Sees s (textResume n r s) := by
  cases r
  case text => exact textOctet_sees _ _ s
  all_goals exact .refl s

theorem notDivided_sees (n : LaneNo) (r : RecordInHand) (s : State) : State.Sees s (notDivided n r s) := .refl s

end

/-! ## The way through a record -/

theorem takeRecord_sees {k : RecordKind} {n : LaneNo} {act : LaneNo → RecordWords → State → State}
    (h : ∀ n r s, State.Sees s (act n r s)) (s : State) : State.Sees s (takeRecord k n act s) := by
  have body (head : Word) (length : Nat) (s : State) : State.Sees s (readRecordBody n head length act s) := by
    have read := readStationList_busOnly .engine (some n)
      (wordRun (s.work.bodyAddress n ((s.progressOf n).nextWord + 1)) (length - 1)) s.work
    unfold readRecordBody
    split <;> rename_i e <;> rw [e] at read
    · exact ((State.Sees.bus read).trans (modProgress_sees n _ _)).trans (h n _ _)
    · exact (State.Sees.bus read).trans (endBlock_sees n _ _)
  have length (head : Word) (s : State) : State.Sees s (checkLength n head act s) :=
    .ite (fun _ => endBlock_sees n _ s) fun _ => body _ _ s
  have read := readStation_busOnly .engine (some n) (s.work.bodyAddress n (s.progressOf n).nextWord) s.work
  unfold takeRecord
  split <;> rename_i e <;> rw [e] at read
  · exact .ite (fun _ => (State.Sees.bus read).trans (length _ _)) fun _ => .refl s
  · exact (State.Sees.bus read).trans (endBlock_sees n _ _)

/-- The engine's step at a record sees to the panel, if its act and its way of going on do. -/
theorem runRecord_sees {k : RecordKind} {resume : LaneNo → RecordInHand → State → State}
    {act : LaneNo → RecordWords → State → State} (hr : ∀ n r s, State.Sees s (resume n r s))
    (ha : ∀ n r s, State.Sees s (act n r s)) (s : State) : State.Sees s (runRecord k resume act s) := by
  unfold runRecord
  split
  · exact .refl s
  · split
    · exact .ite (fun _ => hr _ _ s) fun _ => .refl s
    · exact .ite (fun _ => .refl s) fun _ => takeRecord_sees ha s

theorem runKind_sees (k : RecordKind) (s : State) : State.Sees s (runKind k s) := by
  cases k
  case move => exact runRecord_sees notDivided_sees (fun _ => moveAct_sees) s
  case point => exact runRecord_sees notDivided_sees (fun _ => pointAct_sees) s
  case vector => exact runRecord_sees notDivided_sees (fun _ => vectorAct_sees) s
  case area => exact runRecord_sees (fun _ => areaResume_sees) (fun _ => areaAct_sees) s
  case text => exact runRecord_sees (fun _ => textResume_sees) (fun _ => textAct_sees) s
  case image => exact runRecord_sees (fun _ => imageResume_sees) (fun _ => imageAct_sees) s
  case readback => exact runRecord_sees (fun _ => readbackResume_sees) (fun _ => readbackAct_sees) s
  case clearall => exact runRecord_sees notDivided_sees (fun _ => clearallAct_sees) s
  case setmode => exact runRecord_sees notDivided_sees (fun _ => setmodeAct_sees) s
  case setclip => exact runRecord_sees notDivided_sees (fun _ => setclipAct_sees) s
  case settext => exact runRecord_sees notDivided_sees (fun _ => settextAct_sees) s
  case glyphload => exact runRecord_sees notDivided_sees (fun _ => glyphloadAct_sees) s
  case mark => exact runRecord_sees notDivided_sees (fun _ => markAct_sees) s
  case unmark => exact runRecord_sees notDivided_sees (fun _ => unmarkAct_sees) s
  case wait => exact runRecord_sees notDivided_sees (fun _ => waitAct_sees) s
  case drain => exact runRecord_sees notDivided_sees (fun _ => drainAct_sees) s

end Sys2Proof.Machine

/-! Every event at the panel, and every step: the planes, the queue, the pulse and the settled flag stay in agreement, and no DRAIN
waits for a settled panel. -/

namespace Sys2Proof.Machine

/-! ## Pulses that PREQ stands for -/

theorem Panel.issuedRowPulse_some {p : Panel} {pulse : Pulse} {r : Row} {k : Nat} (h : p.issuedRowPulse = some (pulse, r, k)) :
    p.driver.pulse = some pulse ∧ pulse.row = some r ∧ pulse.deadline = some k ∧ p.driver.state = .firing := by
  unfold Panel.issuedRowPulse at h
  split at h
  · next held =>
    split at h
    · next row deadline =>
      split at h
      · next firing =>
        obtain ⟨rfl, rfl, rfl⟩ : _ ∧ _ ∧ _ := by simpa using h
        exact ⟨held, row, deadline, firing⟩
      · cases h
    · cases h
  · cases h

theorem Panel.issuedBulkPulse_some {p : Panel} {pulse : Pulse} {k : Nat} (h : p.issuedBulkPulse = some (pulse, k)) :
    p.driver.pulse = some pulse ∧ pulse.deadline = some k ∧ p.driver.state = .bulk := by
  unfold Panel.issuedBulkPulse at h
  split at h
  · next held =>
    split at h
    · next deadline =>
      split at h
      · next bulk =>
        obtain ⟨rfl, rfl⟩ : _ ∧ _ := by simpa using h
        exact ⟨held, deadline, bulk⟩
      · cases h
    · cases h
  · cases h

theorem Panel.issuedRowPulse_firing {p : Panel} {pulse : Pulse} {r : Row} {k : Nat} (h : p.issuedRowPulse = some (pulse, r, k)) :
    p.firingRow = some r := by
  obtain ⟨held, row, _⟩ := Panel.issuedRowPulse_some h
  exact Panel.firingRow_eq_some.mpr ⟨pulse, held, row⟩

/-- A deadline that does not run out is counted (R42). -/
theorem Panel.Change.countedDown {p : Panel} {pulse : Pulse} {k : Nat} (held : p.driver.pulse = some pulse)
    (deadline : pulse.deadline = some k) (long : ¬k ≤ 1) : Panel.Change p { p with driver := p.driver.countTick } := by
  refine .counted p fun x j was some => ?_
  rw [held] at was
  obtain rfl := Option.some.inj was
  rw [deadline] at some
  obtain rfl := Option.some.inj some
  omega

/-! ## Faults, answers and the supply -/

theorem faultRowPulse_sees {pulse : Pulse} {r : Row} {s : State} (firing : s.panel.firingRow = some r) (kind : DriveFaultKind) :
    State.Sees s (faultRowPulse kind pulse r s) := by
  have altered := changePanel_alters (s := s) (f := Panel.faultRow pulse r) (Panel.Change.rowFaulted s.panel pulse r firing).changes
  have stalled : State.Sees s (changePanel (Panel.faultRow pulse r) s) := by
    refine ⟨altered, fun _ => ?_⟩
    rw [changePanel_panel]
    exact Panel.nothingWaits_of_busy nofun
  exact stalled.trans (.bus (reportDriveFault_busOnly _ _ _ _))

theorem faultBulkPulse_sees {pulse : Pulse} {s : State} (held : s.panel.driver.pulse = some pulse) (kind : DriveFaultKind) :
    State.Sees s (faultBulkPulse kind pulse s) := by
  have altered := changePanel_alters (s := s) (f := Panel.faultBulk) (Panel.Change.bulkFaulted s.panel pulse held).changes
  have stalled : State.Sees s (changePanel Panel.faultBulk s) := by
    refine ⟨altered, fun _ => ?_⟩
    rw [changePanel_panel]
    refine Panel.nothingWaits_of_busy ?_
    dsimp only
    rw [Panel.faultBulk, Panel.rebuild_driver]
    exact nofun
  exact stalled.trans (.bus (reportDriveFault_busOnly _ _ _ _))

/-- A change of the driver or the supply alone leaves the settled condition. -/
theorem Panel.isSettled_congr {p q : Panel} (queue : q.queue = p.queue) (pulse : q.driver.pulse.isNone = p.driver.pulse.isNone)
    (bulk : q.bulkRequest = p.bulkRequest) : q.isSettled = p.isSettled := by
  unfold Panel.isSettled
  rw [queue, pulse, bulk]

theorem resumeDriver_sees (s : State) : State.Sees s (resumeDriver s) :=
  .ite (fun stalled => State.Alters.startTest ((Panel.Change.resumed s.panel stalled).alters rfl)) fun _ => .refl s

/-- Entry into OFF or FAILED at the panel (R26, R28). -/
theorem supplyDown_sees {st : SupplyState} (dark : st = .off ∨ st = .failed) (s : State) :
    State.Sees s (changePanel (Panel.supplyDown st) s) := by
  refine ⟨changePanel_alters (Panel.Change.down s.panel st dark).changes, fun _ => ?_⟩
  rw [changePanel_panel]
  refine Panel.nothingWaits_of_notReady ?_
  have state : (s.panel.supplyDown st).supply.state = st := rfl
  dsimp only
  rw [state]
  rcases dark with rfl | rfl <;> nofun

theorem supplyOff_sees (s : State) : State.Sees s (supplyOff s) :=
  (supplyDown_sees (.inl rfl) s).trans (endPanelEvent_sees _)

theorem setCause_sees (c : Cause) (s : State) : State.Sees s (s.onWork (setCause c)) := .ofWork rfl fun _ => id

theorem supplyFailed_sees (s : State) : State.Sees s (supplyFailed s) :=
  (supplyDown_sees (.inr rfl) s).trans (setCause_sees .supply _)

theorem supplyReady_alters (s : State) : State.Alters s (supplyReady s) :=
  ((Panel.Change.risen s.panel).alters (s := s) (f := fun p => { p with supply := p.supply.enter .ready }) rfl).trans
    (setCause_sees .supply _).toAlters

theorem setSupok_sees (level : Bool) (s : State) : State.Sees s (s.onPanel (Panel.setSupok level)) :=
  ⟨(Panel.Change.supok s.panel level).alters rfl, fun h => h.congr rfl rfl rfl rfl⟩

theorem riseSupok_sees (s : State) : State.Sees s (riseSupok s) :=
  .ite (fun _ => ((setSupok_sees true s).trans (supplyReady_alters _).startTest).trans (endPanelEvent_sees _)) fun _ =>
    setSupok_sees true s

theorem fallSupok_sees (s : State) : State.Sees s (fallSupok s) :=
  .ite (fun _ => ((setSupok_sees false s).trans (supplyFailed_sees _)).trans (endPanelEvent_sees _)) fun _ =>
    setSupok_sees false s

theorem actOnPanelOn_sees (value : Bool) (s : State) : State.Sees s (actOnPanelOn value s) := by
  by_cases off : s.panel.supply.state = .off <;> cases value
  · rw [actOnPanelOn_false_of_off off]
    exact .refl s
  · rw [actOnPanelOn_true_of_off off]
    exact ⟨(Panel.Change.ramps s.panel off).alters (f := fun p => { p with supply := p.supply.enter .ramping }) rfl,
      fun _ => Panel.nothingWaits_of_notReady nofun⟩
  · rw [actOnPanelOn_false_of_ne_off off]
    exact supplyOff_sees s
  · rw [actOnPanelOn_true_of_ne_off off]
    exact .refl s

/-- The column shift is complete: the same pulse is outstanding, and PREQ stands for it (R36, R37). -/
theorem issued_sees {s : State} {f : Panel → Panel} {pulse : Pulse} {lines : BitVec 9} {ticks : Nat}
    (held : s.panel.driver.pulse = some pulse) (range : 1 ≤ ticks ∧ ticks ≤ 20)
    (e : f s.panel = { s.panel with driver := s.panel.driver.issue pulse lines ticks }) : State.Sees s (s.onPanel f) := by
  have change : Panel.Change s.panel (f s.panel) := e ▸ .issued s.panel pulse lines ticks held range
  refine ⟨change.alters ?_, fun rests => ?_⟩
  · rw [e]
    exact Panel.isSettled_congr rfl (by rw [held]; rfl) rfl
  · rw [State.onPanel_panel, e]
    exact rests.congr rfl rfl rfl rfl

theorem State.onPanel_of_same {s : State} {f : Panel → Panel} (h : f s.panel = s.panel) : s.onPanel f = s := by
  unfold State.onPanel
  rw [h]

theorem issueRow_sees (s : State) : State.Sees s (s.onPanel Panel.issueRow) := by
  by_cases same : s.panel.issueRow = s.panel
  · rw [State.onPanel_of_same same]
    exact .refl s
  · have e : ∃ pulse r, s.panel.driver.pulse = some pulse ∧
        s.panel.issueRow = { s.panel with driver := s.panel.driver.issue pulse (BitVec.ofFin r) rowDeadline } := by
      unfold Panel.issueRow at same ⊢
      split at same
      · next pulse held =>
        split at same
        · next r _ _ =>
          split at same
          · next firing => exact ⟨pulse, r, held, by rw [if_pos firing]⟩
          · exact absurd rfl same
        · exact absurd rfl same
      · exact absurd rfl same
    obtain ⟨pulse, r, held, e⟩ := e
    exact issued_sees held (by decide) e

theorem issueBulk_sees (s : State) : State.Sees s (s.onPanel Panel.issueBulk) := by
  by_cases same : s.panel.issueBulk = s.panel
  · rw [State.onPanel_of_same same]
    exact .refl s
  · have e : ∃ pulse, s.panel.driver.pulse = some pulse ∧
        s.panel.issueBulk = { s.panel with driver := s.panel.driver.issue pulse 0 bulkDeadline } := by
      unfold Panel.issueBulk at same ⊢
      split at same
      · next pulse held =>
        split at same
        · split at same
          · next bulk => exact ⟨pulse, held, by rw [if_pos bulk]⟩
          · exact absurd rfl same
        · exact absurd rfl same
      · exact absurd rfl same
    obtain ⟨pulse, held, e⟩ := e
    exact issued_sees held (by decide) e

/-! ## The tick -/

/-- What a tick leaves of the driver and the supply where the supply is READY: it stays READY, and no pulse ends IDLE (R43, R166). -/
structure Panel.Ticks (p q : Panel) : Prop where
  ready : p.supply.state = .ready → q.supply.state = .ready
  idle : p.supply.state = .ready → q.driver.state = .idle → p.driver.state = .idle ∧ q.bulkRequest = p.bulkRequest

theorem Panel.Ticks.trans {p q r : Panel} (h : Panel.Ticks p q) (k : Panel.Ticks q r) : Panel.Ticks p r := by
  refine ⟨fun ready => k.ready (h.ready ready), fun ready idle => ?_⟩
  obtain ⟨was, bulk⟩ := k.idle (h.ready ready) idle
  obtain ⟨first, same⟩ := h.idle ready was
  exact ⟨first, bulk.trans same⟩

theorem Panel.Ticks.congr {p q : Panel} (supply : q.supply = p.supply) (driver : q.driver.state = p.driver.state)
    (bulk : q.bulkRequest = p.bulkRequest) : Panel.Ticks p q :=
  ⟨fun ready => by rw [supply]; exact ready, fun _ idle => ⟨driver ▸ idle, bulk⟩⟩

theorem Panel.Ticks.refl (p : Panel) : Panel.Ticks p p := .congr rfl rfl rfl

/-- Without READY there is nothing to keep. -/
theorem Panel.ticks_of_ramping {p q : Panel} (h : p.supply.state = .ramping) : Panel.Ticks p q :=
  ⟨fun ready => absurd (h.symm.trans ready) nofun, fun ready => absurd (h.symm.trans ready) nofun⟩

/-- One block's part of a tick at the panel. -/
structure State.Ticks (s t : State) : Prop extends State.Alters s t where
  ticks : Panel.Ticks s.panel t.panel

theorem State.Ticks.trans {a b c : State} (h : State.Ticks a b) (k : State.Ticks b c) : State.Ticks a c :=
  ⟨h.toAlters.trans k.toAlters, h.ticks.trans k.ticks⟩

theorem State.Ticks.ofWork {s t : State} (panel : t.panel = s.panel)
    (draining : ∀ n, (t.work.laneOf n).state = .draining → (s.work.laneOf n).state = .draining) : State.Ticks s t :=
  ⟨(State.Sees.ofWork panel draining).toAlters, by rw [panel]; exact .refl _⟩

theorem State.Ticks.refl (s : State) : State.Ticks s s := .ofWork rfl fun _ => id

/-- A pulse that runs out leaves the driver STALLED (R41, R42). -/
theorem Panel.ticks_of_stalled {p q : Panel} (supply : q.supply = p.supply) (stalled : q.driver.state = .stalled) : Panel.Ticks p q :=
  ⟨fun ready => by rw [supply]; exact ready, fun _ idle => absurd (stalled.symm.trans idle) nofun⟩

theorem tickDriver_ticks (s : State) : State.Ticks s (tickDriver s) := by
  have counted {pulse : Pulse} {k : Nat} (held : s.panel.driver.pulse = some pulse) (deadline : pulse.deadline = some k)
      (long : ¬k ≤ 1) : State.Ticks s (s.onPanel fun p => { p with driver := p.driver.countTick }) :=
    ⟨(Panel.Change.countedDown held deadline long).alters
      (f := fun p => { p with driver := p.driver.countTick }) (Panel.isSettled_congr rfl (by simp [Driver.countTick]) rfl),
      .congr rfl rfl rfl⟩
  unfold tickDriver
  split
  · next issued =>
    obtain ⟨held, _, deadline, _⟩ := Panel.issuedRowPulse_some issued
    split
    · refine ⟨(faultRowPulse_sees (Panel.issuedRowPulse_firing issued) _).toAlters, ?_⟩
      rw [faultRowPulse, State.onWork_panel, changePanel_panel]
      exact Panel.ticks_of_stalled rfl rfl
    · next long => exact counted held deadline long
  · next issued =>
    obtain ⟨held, deadline, _⟩ := Panel.issuedBulkPulse_some issued
    split
    · refine ⟨(faultBulkPulse_sees held _).toAlters, ?_⟩
      rw [faultBulkPulse, State.onWork_panel, changePanel_panel]
      exact Panel.ticks_of_stalled (by rfl) (by rfl)
    · next long => exact counted held deadline long
  · exact .refl s

theorem tickMarkers_ticks (s : State) : State.Ticks s (tickMarkers s) := by
  unfold tickMarkers
  split
  · refine ⟨changePanel_alters ((s.panel.tickMarker_changes 0).trans (Panel.tickMarker_changes 1 _)), ?_⟩
    obtain ⟨d, markers, tail, e⟩ := (s.panel.tickMarker_retargets 0).trans (Panel.tickMarker_retargets 1 _)
    rw [changePanel_panel, e]
    exact .congr rfl rfl rfl
  · exact .refl s

theorem Supply.readyNext_ramping {v : Supply} (h : v.readyNext = true) : v.state = .ramping := by
  simp only [Supply.readyNext, Bool.and_eq_true, decide_eq_true_eq] at h
  exact h.1.1

theorem Supply.failsNext_ramping {v : Supply} (h : v.failsNext = true) : v.state = .ramping := by
  simp only [Supply.failsNext, Bool.and_eq_true, decide_eq_true_eq] at h
  exact h.1.1

theorem Supply.countTick_state (v : Supply) : v.countTick.state = v.state := by
  unfold Supply.countTick
  split <;> rfl

theorem tickSupply_ticks (s : State) : State.Ticks s (tickSupply s) := by
  unfold tickSupply
  split
  · next ready => exact ⟨supplyReady_alters s, Panel.ticks_of_ramping (Supply.readyNext_ramping ready)⟩
  · next notReady =>
    split
    · next fails => exact ⟨(supplyFailed_sees s).toAlters, Panel.ticks_of_ramping (Supply.failsNext_ramping fails)⟩
    · next notFailed =>
      refine ⟨(Panel.Change.rampCounted s.panel (by simpa using notReady) (by simpa using notFailed)).alters
        (f := fun p => { p with supply := p.supply.countTick }) rfl, ?_, fun _ idle => ⟨idle, rfl⟩⟩
      rw [State.onPanel_panel]
      dsimp only
      rw [Supply.countTick_state]
      exact id

theorem takeTick_ticks (b : TickBlock) (s : State) : State.Ticks s (takeTick b s) := by
  cases b
  case clock => exact .ofWork rfl fun _ => id
  case lanes => exact .ofWork rfl (tickLanes_moves (A := False) s.work).draining
  case markers => exact tickMarkers_ticks s
  case driver => exact tickDriver_ticks s
  case supply => exact tickSupply_ticks s
  case hold => exact .ofWork rfl fun _ => id

theorem takeTicks_ticks (l : List TickBlock) (s : State) : State.Ticks s (l.foldl (fun t b => takeTick b t) s) := by
  induction l generalizing s with
  | nil => exact .refl s
  | cons b rest ih => exact (takeTick_ticks b s).trans (ih _)

/-- Where no start test is due at its end, a tick leaves nothing that the driver could take (R31). -/
theorem Panel.Ticks.nothingWaits {s t : State} (h : Panel.Ticks s.panel t.panel) (due : startTestDue s t = false)
    (rests : s.panel.NothingWaits) : t.panel.NothingWaits := by
  intro idle ready
  simp only [startTestDue, Bool.or_eq_false_iff, Bool.and_eq_false_iff, decide_eq_false_iff_not] at due
  obtain ⟨short, was⟩ := due
  have ready' : s.panel.supply.state = .ready := by
    rcases was with was | not
    · exact not_not.mp was
    · exact absurd ready not
  obtain ⟨idle', bulk⟩ := h.idle ready' idle
  obtain ⟨empty, none⟩ := rests idle' ready'
  rw [empty] at short
  refine ⟨List.length_eq_zero_iff.mp ?_, bulk.trans none⟩
  simp only [List.length_nil] at short
  omega

theorem tickInOrder_sees (order : List TickBlock) (s : State) : State.Sees s (tickInOrder order s) := by
  have taken := takeTicks_ticks order s
  unfold tickInOrder finishTick
  dsimp only
  refine State.Sees.trans ?_ (endPanelEvent_sees _)
  split
  · exact taken.toAlters.startTest
  · next due => exact ⟨taken.toAlters, taken.ticks.nothingWaits (by simpa using due)⟩

theorem tickAll_sees (s : State) : State.Sees s (tickAll s) := tickInOrder_sees _ s

theorem referenceEdge_sees (s : State) : State.Sees s (referenceEdge s) := by
  unfold referenceEdge
  split
  · exact .ofWork rfl fun _ => id
  · exact .ite (fun _ => .ofWork rfl fun _ => id) fun _ => tickAll_sees s

theorem idle_sees (s : State) : State.Sees s (idle s) := by
  unfold idle
  split
  · exact .refl s
  · exact (State.Sees.onWork ((passBuffered_follows s.work).trans (settleLanes_moves _).follows)).trans (referenceEdge_sees _)

/-! ## Resets and the settings -/

theorem Panel.reset_ranged (supok : Bool) : (Panel.reset supok).Ranged := by
  have inactive (k : Fin 2) : ((Panel.reset supok).markers[k.val]).active = false := by
    simp [Panel.reset, Marker.reset]
  refine ⟨fun k active => ?_, fun k active => ?_, fun _ _ held => ?_, ⟨Nat.zero_lt_succ 49, fun _ => rfl⟩, .inr (.inl rfl)⟩
  · exact absurd ((inactive k).symm.trans active) nofun
  · exact absurd ((inactive k).symm.trans active) nofun
  · cases held

/-- At a reset everything at the panel is as if newly built, and no lane waits. -/
theorem State.Sees.reset {s t : State} {supok : Bool} (panel : t.panel = Panel.reset supok) (lanes : t.work.lanes = LaneUnit.reset) :
    State.Sees s t := by
  refine ⟨⟨fun _ => ?_, fun _ => ?_, fun _ => ?_, fun _ _ n => ?_⟩, fun _ => ?_⟩
  · rw [panel]
    exact Panel.reset_agrees supok
  · rw [panel]
    exact Panel.reset_ranged supok
  · rw [panel]
    rfl
  · rw [laneOf_reset lanes]
    nofun
  · rw [panel]
    exact Panel.nothingWaits_of_notReady nofun

theorem budgetOfCode_range (code : Nat) :
    budgetOfCode code = 16 ∨ budgetOfCode code = 32 ∨ budgetOfCode code = 64 ∨ budgetOfCode code = 128 := by
  unfold budgetOfCode
  split <;> simp

theorem endSettingsRead_panel (late : Option Bool) (s : State) :
    (endSettingsRead late s).panel = s.panel ∨ ∃ t, (endSettingsRead late s).panel = takeBudget t s.panel := by
  unfold endSettingsRead
  split
  split
  · exact .inl rfl
  · split
    · exact .inl rfl
    · unfold checkSettings
      split
      · exact .inl rfl
      · exact .inr ⟨settingsOf _, rfl⟩

theorem endSettingsRead_sees (late : Option Bool) {s : State} (follows : Work.Follows s.work (endSettingsRead late s).work) :
    State.Sees s (endSettingsRead late s) := by
  obtain e | ⟨t, e⟩ := endSettingsRead_panel late s
  · exact .ofWork e follows.draining
  · have budget : State.Sees s (s.onPanel (takeBudget t)) :=
      ⟨(Panel.Change.budget s.panel _ (budgetOfCode_range t.budgetCode)).alters (f := takeBudget t) rfl,
        fun h => h.congr rfl rfl rfl rfl⟩
    exact budget.trans (.ofWork e follows.draining)

/-! ## Every event -/

theorem Meaning.sees {f : State → State} (m : Meaning f) (s : State) : State.Sees s (f s) := by
  obtain ⟨k, rfl⟩ | follows := m.follows s
  · exact runKind_sees k s
  cases m with
  | record k => exact runKind_sees k s
  | panelOn value => exact (State.Sees.ofWork (s := s) (t := s.withPanelOn value) rfl fun _ => id).trans (actOnPanelOn_sees value _)
  | driveResume => exact (resumeDriver_sees s).trans (endPanelEvent_sees _)
  | clear => exact .reset rfl rfl
  | reset => exact .reset rfl rfl
  | tick => exact tickAll_sees s
  | expires comes b => exact .ite (fun _ => tickInOrder_sees _ s) fun _ => .refl s
  | issueRow => exact issueRow_sees s
  | issueBulk => exact issueBulk_sees s
  | rowPdone =>
    dsimp only
    split
    · next pulse r _ issued =>
      have done := Panel.Change.rowDone s.panel pulse r (Panel.issuedRowPulse_firing issued)
      exact (changePanel_alters (f := Panel.completeRow pulse r) done.changes).startTest.trans (endPanelEvent_sees _)
    · exact .refl s
  | bulkPdone =>
    dsimp only
    split
    · exact (changePanel_alters (Panel.Change.bulkDone s.panel).changes).startTest.trans (endPanelEvent_sees _)
    · exact .refl s
  | pfault =>
    dsimp only
    split
    · next issued => exact (faultRowPulse_sees (Panel.issuedRowPulse_firing issued) _).trans (endPanelEvent_sees _)
    · next issued =>
      obtain ⟨held, _⟩ := Panel.issuedBulkPulse_some issued
      exact (faultBulkPulse_sees held _).trans (endPanelEvent_sees _)
    · exact .refl s
  | settingsReadEnd late =>
    dsimp only at follows ⊢
    split
    · next starting =>
      rw [if_pos starting] at follows
      exact endSettingsRead_sees late follows
    · exact .refl s
  | _ => exact .ofWork rfl follows.draining

theorem Unheld.sees {f : State → State} (m : Unheld f) (s : State) : State.Sees s (f s) := by
  have follows := m.follows s
  cases m with
  | powerOn a b => exact .reset rfl rfl
  | supokRise => exact .ite (fun _ => setSupok_sees true s) fun _ => riseSupok_sees s
  | supokFall => exact .ite (fun _ => setSupok_sees false s) fun _ => fallSupok_sees s
  | resetDeasserted =>
    refine .ofWork ?_ follows.draining
    dsimp only
    split <;> rfl
  | _ => exact .ofWork rfl follows.draining

/-- Every step sees to the panel. -/
theorem step_sees {s t : State} (e : step s = .next t) : State.Sees s t :=
  step_keeps (P := fun u => State.Sees s u) (fun _ _ h => h.trans (.ofWork rfl fun _ => id)) (fun _ m u _ h => h.trans (m.sees u))
    (fun _ m u h => h.trans (m.sees u)) (fun u _ h => h.trans (idle_sees u)) (.refl _) e

/-- Settles O56, by the guarded changes of the panel, the settled flag that follows each of them, and the start test that an event
ends with. -/
theorem stepKeepsThePanelSound : Obligations.StepKeepsThePanelSound := by
  intro s t sound e
  have sees := step_sees e
  obtain ⟨agrees, rests, flag⟩ := s.panel.sound_iff.mp sound
  exact ⟨t.panel.sound_iff.mpr ⟨sees.agrees agrees, sees.rests rests, sees.flag flag⟩, sees.waits⟩

end Sys2Proof.Machine

/-! The timebase and the clock hold under every event, and with them all the ranges; and the state after a reset. -/

namespace Sys2Proof.Machine

/-! ## The timebase and the clock hold -/

/-- The clock hold, the accumulator and the count of the tick interval are in their ranges (R160, R163). -/
structure Work.ClockRanged (w : Work) : Prop where
  hold : ∀ h, w.port.hold = some h → h.ticks = 1 ∨ h.ticks = 2
  accumulator : w.time.accumulator < 100
  interval : ∀ k, w.time.interval = some k → k < intervalLength w.time.accumulator

/-- The ranges of a state are those of its three parts. -/
theorem State.inRange_iff (s : State) : s.InRange ↔ s.work.Ranged ∧ s.panel.Ranged ∧ s.work.ClockRanged := by
  constructor
  · intro h
    exact ⟨⟨fun n => ⟨h.contexts n, h.inHand n, h.waits n, h.limits n, h.progress n⟩, h.spool, h.frame, h.pendingSlots⟩,
      ⟨h.markers, h.onState, h.deadline, h.ramp, h.budget⟩, ⟨h.hold, h.accumulator, h.interval⟩⟩
  · rintro ⟨lanes, panel, clock⟩
    exact ⟨fun n => (lanes.lanes n).context, fun n => (lanes.lanes n).inHand, panel.markers, panel.onState,
      fun n => (lanes.lanes n).waits, fun n => (lanes.lanes n).limits, panel.deadline, panel.ramp, clock.hold, panel.budget,
      clock.accumulator, clock.interval, fun n => (lanes.lanes n).progress, lanes.spool, lanes.frame, lanes.pendingSlots⟩

/-- The timebase and the clock hold are as they were. -/
structure Work.SameClock (w v : Work) : Prop where
  time : v.time = w.time
  hold : v.port.hold = w.port.hold

theorem Work.SameClock.refl (w : Work) : Work.SameClock w w := ⟨rfl, rfl⟩

theorem Work.SameClock.trans {a b c : Work} (h : Work.SameClock a b) (k : Work.SameClock b c) : Work.SameClock a c :=
  ⟨k.time.trans h.time, k.hold.trans h.hold⟩

theorem Work.Kept.sameClock {w v : Work} (h : Work.Kept w v) : Work.SameClock w v := ⟨h.time, by rw [h.port]⟩

theorem State.Carries.sameClock {s t : State} (h : State.Carries s t) : Work.SameClock s.work t.work := h.work.sameClock

theorem Work.SameClock.ranged {w v : Work} (h : Work.SameClock w v) (k : w.ClockRanged) : v.ClockRanged := by
  refine ⟨?_, ?_, ?_⟩
  · rw [h.hold]; exact k.hold
  · rw [h.time]; exact k.accumulator
  · rw [h.time]; exact k.interval

theorem Work.ClockRanged.same {w v : Work} (k : w.ClockRanged) (h : Work.SameClock w v) : v.ClockRanged := h.ranged k

theorem Work.modPort_sameClock (f : Port → Port) (hold : ∀ p, (f p).hold = p.hold) (w : Work) : Work.SameClock w (w.modPort f) :=
  ⟨rfl, hold w.port⟩

/-- Both branches of a choice. -/
theorem Work.SameClock.ite {c : Prop} [Decidable c] {w a b : Work} (h : Work.SameClock w a) (k : Work.SameClock w b) :
    Work.SameClock w (if c then a else b) := by
  split
  · exact h
  · exact k

/-! ## RUN and the settings -/

theorem enterRunning_sameClock (w : Work) : Work.SameClock w (enterRunning w) := by
  have acted : Work.SameClock w (actOnAllPending (w.modPort fun p => { p with engine := .running })) :=
    (Work.modPort_sameClock (fun p => { p with engine := .running }) (fun _ => rfl) w).trans (actOnAllPending_kept _).sameClock
  exact (acted.trans (.ite (lineHunt_kept _).sameClock (.refl _))).trans (settleLanes_kept _).sameClock

theorem completeStart_sameClock (t : Settings) (late : Option Bool) (w : Work) : Work.SameClock w (completeStart t late w) := by
  have inForce : Work.SameClock w ((w.modPort fun p =>
      { p with fence := some { low := t.fenceLow, high := t.fenceHigh } }).modLine fun l => { l with settings := some t.line }) :=
    ⟨rfl, rfl⟩
  have written := inForce.trans
    (((takeGeometry_kept t.spool _).trans (writeHeader_kept .none _)).trans (writeLineStatus_kept _)).sameClock
  have looked := written.trans (c := Work.modPort (fun p => { p with run := late.getD p.run }) _) ⟨rfl, rfl⟩
  exact looked.trans (.ite (enterRunning_sameClock _) ⟨rfl, rfl⟩)

theorem failStart_sameClock (reason : SetupReason) (w : Work) : Work.SameClock w (failStart reason w) :=
  (writeHeader_kept reason w).sameClock.trans ⟨rfl, rfl⟩

theorem endSettingsRead_sameClock (late : Option Bool) (s : State) : Work.SameClock s.work (endSettingsRead late s).work := by
  have read := (readStationList_busOnly .engine none (wordRun (s.work.exchange 0x20) 16) s.work).kept.sameClock
  unfold endSettingsRead
  split
  next result w1 e =>
  rw [e] at read
  split
  · exact ⟨read.time, read.hold⟩
  · split
    · exact read.trans (failStart_sameClock _ _)
    · unfold checkSettings
      split
      · exact read.trans (failStart_sameClock _ _)
      · exact read.trans (completeStart_sameClock _ _ _)

theorem actOnRun_sameClock (value : Bool) (w : Work) : Work.SameClock w (actOnRun value w) := by
  have stopping : Work.SameClock (w.modPort fun p => { p with run := value })
      (enterStopping (w.modPort fun p => { p with run := value })) :=
    (Work.modPort_sameClock (fun p => { p with engine := .stopping }) (fun _ => rfl) _).trans ((lineOff_kept _).trans (settleLanes_kept _)).sameClock
  unfold actOnRun
  dsimp only
  split
  · exact ⟨rfl, rfl⟩
  · exact ⟨stopping.time, stopping.hold⟩
  all_goals exact ⟨rfl, rfl⟩

/-! ## The tick -/

theorem intervalLength_pos (a : Nat) : 0 < intervalLength a := by
  unfold intervalLength
  split <;> omega

theorem Timebase.startInterval_ranged (t : Timebase) : t.startInterval.accumulator < 100 ∧
    ∀ k, t.startInterval.interval = some k → k < intervalLength t.startInterval.accumulator := by
  refine ⟨Nat.mod_lt _ (by decide), fun k e => ?_⟩
  obtain rfl := Option.some.inj e
  exact intervalLength_pos _

theorem Timebase.tick_ranged (t : Timebase) :
    t.tick.accumulator < 100 ∧ ∀ k, t.tick.interval = some k → k < intervalLength t.tick.accumulator :=
  Timebase.startInterval_ranged _

theorem tickHold_ranged {w : Work} (h : w.ClockRanged) : ∀ x, (tickHold w).port.hold = some x → x.ticks = 1 ∨ x.ticks = 2 := by
  intro x e
  obtain ⟨y, held, released⟩ := Option.bind_eq_some_iff.mp e
  split at released
  · cases released
  · obtain rfl := Option.some.inj released
    have := h.hold y held
    dsimp only
    omega

theorem takeTick_ranged (b : TickBlock) {s : State} (h : s.work.ClockRanged) : (takeTick b s).work.ClockRanged := by
  have time := takeTick_time b s
  have hold := takeTick_hold b s
  refine ⟨?_, ?_, ?_⟩
  · rw [hold]
    split
    · exact tickHold_ranged h
    · exact h.hold
  · rw [time]
    split
    · exact s.work.time.tick_ranged.1
    · exact h.accumulator
  · rw [time]
    split
    · exact s.work.time.tick_ranged.2
    · exact h.interval

theorem finishTick_ranged (before : State) (l : List TickBlock) {s : State} (h : s.work.ClockRanged) :
    (finishTick before l s).work.ClockRanged := by
  induction l generalizing s with
  | nil =>
    obtain ⟨_, _, kept⟩ := finishTick_end before s
    exact kept.sameClock.ranged h
  | cons b rest ih =>
    rw [finishTick_cons]
    exact ih (takeTick_ranged b h)

theorem referenceEdge_ranged {s : State} (h : s.work.ClockRanged) : (referenceEdge s).work.ClockRanged := by
  unfold referenceEdge
  split
  · exact ⟨h.hold, s.work.time.startInterval_ranged.1, s.work.time.startInterval_ranged.2⟩
  · split
    · next short =>
      refine ⟨h.hold, h.accumulator, fun k e => ?_⟩
      obtain rfl := Option.some.inj e
      exact short
    · exact finishTick_ranged s _ h

theorem idle_ranged {s : State} (h : s.work.ClockRanged) : (idle s).work.ClockRanged := by
  unfold idle
  split
  · exact h
  · exact referenceEdge_ranged (((passBuffered_kept s.work).trans (settleLanes_kept _)).sameClock.ranged h)

/-! ## Every event -/

theorem Work.ClockRanged.reset {w : Work} (time : w.time = Timebase.reset) (hold : w.port.hold = none) : w.ClockRanged := by
  refine ⟨?_, ?_, ?_⟩
  · rw [hold]; nofun
  · rw [time]; decide
  · rw [time]; nofun

theorem Meaning.clockRanged {f : State → State} (m : Meaning f) {s : State} (h : s.work.ClockRanged) : (f s).work.ClockRanged := by
  cases m with
  | nothing => exact h
  | nudge n => exact (postToHostLane_kept n _ _ (nudgeLane_kept n) s.work).sameClock.ranged h
  | resume n => exact (postToHostLane_kept n _ _ (resumeLane_kept n) s.work).sameClock.ranged h
  | cancel n => exact (cancelLane_kept n s.work).sameClock.ranged h
  | returnSlot slot =>
    dsimp only [State.onWork]
    split
    · exact (changeSlot_kept _ _ _).sameClock.ranged h
    · exact h
  | run value => exact (actOnRun_sameClock value s.work).ranged h
  | lineOn value =>
    have posted : Work.SameClock s.work { s.work with port := { s.work.port with lineOn := value } } := ⟨rfl, rfl⟩
    exact (posted.trans (actOnLineOn_kept value _).sameClock).ranged h
  | panelOn value =>
    have posted : Work.SameClock s.work (s.withPanelOn value).work := ⟨rfl, rfl⟩
    exact (posted.trans (actOnPanelOn_carries value _).sameClock).ranged h
  | driveResume => exact ((resumeDriver_carries s).trans (endPanelEvent_carries _)).sameClock.ranged h
  | clear => exact .reset rfl rfl
  | reset => exact .reset rfl rfl
  | causeWrite data => exact h.same ⟨rfl, rfl⟩
  | enableWrite data => exact h.same ⟨rfl, rfl⟩
  | tick => exact finishTick_ranged s _ h
  | expires comes b =>
    unfold expiry
    split
    · exact finishTick_ranged s _ h
    · exact h
  | issueRow => exact h
  | issueBulk => exact h
  | rowPdone =>
    dsimp only
    split
    · exact (((changePanel_carries _ s).trans (startTest_carries _)).trans (endPanelEvent_carries _)).sameClock.ranged h
    · exact h
  | bulkPdone =>
    dsimp only
    split
    · exact (((changePanel_carries _ s).trans (startTest_carries _)).trans (endPanelEvent_carries _)).sameClock.ranged h
    · exact h
  | pfault =>
    dsimp only
    split
    · exact ((faultRowPulse_carries _ _ _ s).trans (endPanelEvent_carries _)).sameClock.ranged h
    · exact ((faultBulkPulse_carries _ _ s).trans (endPanelEvent_carries _)).sameClock.ranged h
    · exact h
  | record k => exact (runKind_carries k s).sameClock.ranged h
  | settingsReadEnd late =>
    dsimp only
    split
    · exact (endSettingsRead_sameClock late s).ranged h
    · exact h
  | edge e ldat => exact (edgeWith_kept e ldat s.work).sameClock.ranged h
  | anyEdge ldat busy =>
    exact (Work.SameClock.ite (busyEdge_kept ldat s.work).sameClock (freeEdge_kept ldat s.work).sameClock).ranged h

theorem Unheld.clockRanged {f : State → State} (m : Unheld f) {s : State} (h : s.work.ClockRanged) : (f s).work.ClockRanged := by
  cases m with
  | nothing => exact h
  | readLow =>
    dsimp only [State.onWork]
    split
    · exact h.same ⟨rfl, rfl⟩
    · exact ⟨fun x e => Option.some.inj e ▸ .inr rfl, h.accumulator, h.interval⟩
  | readHigh =>
    dsimp only [State.onWork]
    split
    · exact h.same ⟨rfl, rfl⟩
    · exact ⟨nofun, h.accumulator, h.interval⟩
  | powerOn a b => exact .reset rfl rfl
  | resetDeasserted =>
    dsimp only
    split
    · have hold : s.work.port.latchStraps.hold = s.work.port.hold := by
        unfold Port.latchStraps
        split <;> rfl
      exact Work.SameClock.ranged (w := s.work) ⟨rfl, hold⟩ h
    · exact h
  | supokRise =>
    dsimp only
    split
    · exact h
    · exact (riseSupok_carries s).sameClock.ranged h
  | supokFall =>
    dsimp only
    split
    · exact h
    · exact (fallSupok_carries s).sameClock.ranged h

theorem step_clockRanged {s t : State} (h : s.work.ClockRanged) (e : step s = .next t) : t.work.ClockRanged :=
  step_keeps (P := fun u => u.work.ClockRanged) (fun _ _ h => h) (fun _ m _ _ h => m.clockRanged h) (fun _ m _ h => m.clockRanged h)
    (fun _ _ h => idle_ranged h) h e

/-- Settles O59: the lanes and the line, the panel, and the timebase each keep their ranges. -/
theorem stepKeepsFieldsInRange : Obligations.StepKeepsFieldsInRange := by
  intro s t one line range e
  obtain ⟨lanes, panel, clock⟩ := s.inRange_iff.mp range
  exact t.inRange_iff.mpr ⟨(step_evolves e).ranged one line lanes, (step_sees e).ranged panel, step_clockRanged clock e⟩

/-! ## After a reset -/

theorem State.reset_atReset : State.reset.work.AtReset := ⟨rfl, rfl, rfl⟩

theorem State.reset_panel : State.reset.panel = Panel.reset false := rfl

/-- Settles O60: a reset state meets every invariant. -/
theorem resetMeetsEveryInvariant : Obligations.ResetMeetsEveryInvariant := by
  have reset := State.reset_atReset
  refine ⟨?_, ?_, fun _ => reset.noneDraining, reset.oneActive, reset.lineSound, reset.spoolSound, ?_⟩
  · exact ⟨by simp [State.reset], by simp [State.reset]⟩
  · rw [State.reset_panel]
    exact (Panel.sound_iff _).mpr ⟨Panel.reset_agrees false, Panel.nothingWaits_of_notReady nofun, rfl⟩
  · exact State.reset.inRange_iff.mpr ⟨reset.ranged, Panel.reset_ranged false, .reset rfl rfl⟩

end Sys2Proof.Machine

/-! The resets, the port, the clock and the reference edges: the statements that are about one operation of the port and the
timebase. -/

namespace Sys2Proof.Machine

/-! ## Resets -/

/-- With no turn of the bus waiting, a reset leaves none. -/
theorem Work.afterReset_quiet {w : Work} (quiet : w.quiet) (cause : StartCause) :
    w.afterReset cause = { State.reset.work with mem := w.mem, port := w.port.afterReset cause } := by
  have bus : busAfterReset w.bus = [] := by rw [quiet]; rfl
  unfold Work.afterReset
  rw [bus]
  rfl

theorem resetAll_quiet {s : State} (quiet : s.work.quiet) (cause : StartCause) :
    resetAll cause s = { State.reset with
      pending := s.pending
      work := { State.reset.work with mem := s.work.mem, port := s.work.port.afterReset cause }
      panel := { State.reset.panel with supply := { State.reset.panel.supply with supok := s.panel.supply.supok } } } := by
  unfold resetAll
  rw [Work.afterReset_quiet quiet]
  rfl

/-- A port after a reset is a reset port but for what the pins, the data lines and RESET's level keep. -/
theorem Port.afterReset_eq (p : Port) (cause : StartCause) :
    p.afterReset cause = { State.reset.work.port with
      startCause := cause, readData := p.readData, resetAsserted := p.resetAsserted
      station := p.station, segment := p.segment, stationPins := p.stationPins, segmentPins := p.segmentPins } := rfl

/-- Settles O4: CLEAR and the pin are the reset of every block, and the pin keeps RESET asserted. -/
theorem clearAndResetPinResetEveryBlock : Obligations.ClearAndResetPinResetEveryBlock := by
  intro s awake quiet
  have notAsserted : s.work.port.resetAsserted = false := awake
  constructor
  · rw [exec_clear awake, resetAll_quiet quiet, Port.afterReset_eq, notAsserted]
    rfl
  · rw [exec_reset awake, resetAll_quiet quiet, Port.afterReset_eq]
    rfl

theorem exec_resetDeasserted_awake {s : State} (h : s.awake) : exec .resetDeasserted s = .next s := by
  show execResetDeasserted s = _
  have not : ¬s.work.port.resetAsserted = true := by rw [show s.work.port.resetAsserted = false from h]; nofun
  exact congrArg Host.Outcome.next (if_neg not)

theorem Port.latchStraps_of_power {p : Port} (h : p.startCause = .power) :
    p.latchStraps = { p with station := p.stationPins, segment := p.segmentPins } := if_pos h

theorem Port.latchStraps_of_not_power {p : Port} (h : p.startCause ≠ .power) : p.latchStraps = p := if_neg h

/-- Settles O5: a power-on is the reset of every block with the pins set, and only its end latches them. -/
theorem powerOnLatchesTheStraps : Obligations.PowerOnLatchesTheStraps := by
  refine ⟨fun station segment s quiet => ?_, fun s asserted other => ?_, fun s awake => exec_resetDeasserted_awake awake⟩
  · refine ⟨_, rfl, ?_, ?_⟩
    · rw [resetAll_quiet quiet, Port.afterReset_eq]
      rfl
    · rw [exec_resetDeasserted (by rfl)]
      rfl
  · rw [exec_resetDeasserted asserted]
    unfold setResetAsserted State.onWork Work.modPort
    dsimp only
    rw [Port.latchStraps_of_not_power other]

/-- While RESET is asserted an event changes nothing (R185). -/
theorem event_of_asserted {s : State} (h : s.work.port.resetAsserted = true) (f : State → State) : event f s = .next s :=
  congrArg Host.Outcome.next (if_pos h)

/-- Settles O6: every command but the named ones is an event, which an asserted RESET holds back. -/
theorem resetAssertedHoldsEveryBlock : Obligations.ResetAssertedHoldsEveryBlock := by
  intro s asserted
  refine ⟨fun c notPower notEnd notRise notFall notLow notHigh => ?_, fun word => if_pos asserted, ?_, ?_, ?_, ?_, fun empty => ?_⟩
  · obtain ⟨f, _, e⟩ | rfl | rfl | rfl | rfl | rfl | ⟨word, data, rfl⟩ | ⟨a, b, rfl⟩ := exec_event c
    · rw [e, event_of_asserted asserted]
    · exact absurd rfl notLow
    · exact absurd rfl notHigh
    · exact absurd rfl notRise
    · exact absurd rfl notFall
    · exact absurd rfl notEnd
    · rfl
    · exact absurd rfl (notPower a b)
  · refine ⟨_, rfl, ?_, ?_⟩ <;> simp [State.onWork, asserted]
  · refine ⟨_, rfl, ?_, ?_⟩ <;> simp [State.onWork, asserted]
  · show execSupokRise s = _
    exact congrArg Host.Outcome.next (if_pos asserted)
  · show execSupokFall s = _
    exact congrArg Host.Outcome.next (if_pos asserted)
  · unfold step
    rw [empty]
    exact congrArg Host.Outcome.next (if_pos asserted)

/-! ## The clock -/

theorem exec_clocklRead {s : State} (h : s.awake) : exec .clocklRead s = .next (s.onWork fun w => { w with port := { w.port with
    readData := w.stamp, hold := some { value := w.clockHigh, ticks := 2 } } }) := by
  have not : s.work.port.resetAsserted = false := h
  show execClocklRead s = _
  simp [execClocklRead, State.onWork, not]

theorem exec_clockhRead {s : State} (h : s.awake) : exec .clockhRead s = .next (s.onWork fun w => { w with port := { w.port with
    readData := w.clockhValue, hold := none } }) := by
  have not : s.work.port.resetAsserted = false := h
  show execClockhRead s = _
  simp [execClockhRead, State.onWork, not]

/-- The tick that releases the clock hold comes next (R163). -/
def State.releasesHold (s : State) : Bool := s.work.port.hold.any fun h => decide (h.ticks ≤ 1)

theorem exec_clockHoldRelease {s : State} (h : s.awake) :
    exec .clockHoldRelease s = .next (if s.releasesHold then tickFrom .hold s else s) := by
  show execClockHoldRelease s = _
  exact event_of_awake h _

theorem exec_tick {s : State} (h : s.awake) : exec .tick s = .next (tickAll s) := by
  show execTick s = _
  exact event_of_awake h _

/-- Only the port's part of a tick touches the clock hold, which counts it down or ends it (R163). -/
theorem finishTick_hold (before : State) (l : List TickBlock) (once : l.count .hold ≤ 1) (s : State) :
    (finishTick before l s).work.port.hold =
      if l.count .hold = 1 then (tickHold s.work).port.hold else s.work.port.hold := by
  have none (l : List TickBlock) : ∀ s : State, l.count .hold = 0 → (finishTick before l s).work.port.hold = s.work.port.hold := by
    induction l with
    | nil =>
      intro s _
      obtain ⟨_, _, kept⟩ := finishTick_end before s
      exact kept.sameClock.hold
    | cons b rest ih =>
      intro s zero
      rw [List.count_eq_zero, List.mem_cons, not_or] at zero
      obtain ⟨ne, out⟩ := zero
      rw [finishTick_cons, ih _ (List.count_eq_zero.mpr out), takeTick_hold, if_neg (Ne.symm ne)]
  induction l generalizing s with
  | nil => exact none [] s rfl
  | cons b rest ih =>
    rw [finishTick_cons]
    by_cases hold : b = .hold
    · subst hold
      have zero : rest.count .hold = 0 := by
        rw [List.count_cons_self] at once
        omega
      rw [none rest _ zero, takeTick_hold, if_pos rfl, if_pos (by rw [List.count_cons_self, zero])]
    · rw [List.count_cons_of_ne hold] at once ⊢
      have same : (takeTick b s).work.port.hold = s.work.port.hold := by rw [takeTick_hold, if_neg hold]
      rw [ih once, tickHold_port, tickHold_port, same]

theorem tickInOrder_hold {order : List TickBlock} (once : order.count .hold = 1) (s : State) :
    (tickInOrder order s).work.port.hold = (tickHold s.work).port.hold := by
  unfold tickInOrder
  rw [finishTick_hold s order once.le s, if_pos once]

theorem tickHold_of_some {w : Work} {h : ClockHold} (held : w.port.hold = some h) :
    (tickHold w).port.hold = if h.ticks ≤ 1 then none else some { h with ticks := h.ticks - 1 } := by
  unfold tickHold
  dsimp only
  rw [held]
  rfl

theorem takeTick_awake (b : TickBlock) {s : State} (h : s.awake) : (takeTick b s).awake := by
  cases b
  case clock => exact h
  case lanes => exact (tickLanes_kept s.work).resetAsserted.trans h
  case markers => exact (tickMarkers_kept s).awake h
  case driver => exact (tickDriver_kept s).awake h
  case supply => exact (tickSupply_kept s).awake h
  case hold => exact h

theorem finishTick_awake (before : State) (l : List TickBlock) {s : State} (h : s.awake) : (finishTick before l s).awake := by
  induction l generalizing s with
  | nil =>
    obtain ⟨_, _, kept⟩ := finishTick_end before s
    exact kept.awake h
  | cons b rest ih =>
    rw [finishTick_cons]
    exact ih (takeTick_awake b h)

theorem tickAll_hold (s : State) : (tickAll s).work.port.hold = (tickHold s.work).port.hold := tickInOrder_hold rfl s

/-- The tick of a CLOCK_HOLD_RELEASE, which the port takes first (R163). -/
theorem tickFrom_hold (s : State) : tickFrom .hold s =
    finishTick s [.clock, .lanes, .markers, .driver, .supply] (s.onWork tickHold) := by
  have order : tickBlocks.filter (· ≠ .hold) = [.clock, .lanes, .markers, .driver, .supply] := by decide
  unfold tickFrom tickInOrder
  rw [order]
  rfl

theorem exec_clockHoldRelease_last {s : State} (h : s.awake) {x : ClockHold} (held : s.work.port.hold = some x) (last : x.ticks ≤ 1) :
    exec .clockHoldRelease s = .next (finishTick s [.clock, .lanes, .markers, .driver, .supply]
      (s.onWork fun w => { w with port := { w.port with hold := none } })) := by
  have comes : s.releasesHold = true := by simp [State.releasesHold, held, last]
  have released : s.onWork tickHold = s.onWork fun w => { w with port := { w.port with hold := none } } := by
    simp [State.onWork, tickHold, held, last]
  rw [exec_clockHoldRelease h, if_pos comes, tickFrom_hold, released]

theorem exec_clockHoldRelease_early {s : State} (h : s.awake) (early : s.releasesHold = false) :
    exec .clockHoldRelease s = .next s := by
  rw [exec_clockHoldRelease h, early]
  rfl

theorem releasesHold_of_two {s : State} {x : ClockHold} (held : s.work.port.hold = some x) (two : 2 ≤ x.ticks) :
    s.releasesHold = false := by
  simp [State.releasesHold, held]
  omega

/-- A hold that has just been made lasts through one tick and ends at the second, whichever block takes that first (R163). -/
theorem hold_lasts_two_ticks {t u : State} {value : Word} (awake : t.awake)
    (held : t.work.port.hold = some { value := value, ticks := 2 }) (e : exec .tick t = .next u) :
    exec .clockHoldRelease t = .next t ∧ u.work.port.hold = some { value := value, ticks := 1 } ∧
      (∀ v, exec .tick u = .next v → v.work.port.hold = none) ∧
      ∀ v, exec .clockHoldRelease u = .next v → v.work.port.hold = none ∧ v.work.time = u.work.time.tick := by
  rw [exec_tick awake] at e
  obtain rfl := Host.Outcome.next.inj e
  have awakeU : (tickAll t).awake := finishTick_awake _ _ awake
  have one : (tickAll t).work.port.hold = some { value := value, ticks := 1 } := by
    rw [tickAll_hold, tickHold_of_some held]
    exact if_neg (show ¬2 ≤ 1 by decide)
  refine ⟨exec_clockHoldRelease_early awake (releasesHold_of_two held (Nat.le_refl 2)), one, fun v ev => ?_, fun v ev => ?_⟩
  · rw [exec_tick awakeU] at ev
    obtain rfl := Host.Outcome.next.inj ev
    rw [tickAll_hold, tickHold_of_some one]
    exact if_pos (Nat.le_refl 1)
  · rw [exec_clockHoldRelease awakeU, if_pos (by rw [State.releasesHold, one]; rfl)] at ev
    obtain rfl := Host.Outcome.next.inj ev
    refine ⟨?_, tickFrom_time .hold _⟩
    rw [tickFrom, tickInOrder_hold (by decide), tickHold_of_some one]
    exact if_pos (Nat.le_refl 1)

/-- Settles O9: the reads by what they put on the data lines, and the hold through two ticks by what the port's part of each leaves. -/
theorem clockHalvesAgreeThroughTheHold : Obligations.ClockHalvesAgreeThroughTheHold := by
  intro s awake
  refine ⟨exec_clocklRead awake, fun h held => ?_, fun none => ?_, fun h held => ⟨?_, fun two => ?_⟩, fun none => ?_, ?_⟩
  · rw [exec_clockhRead awake]
    simp [State.onWork, Work.clockhValue, held]
  · rw [exec_clockhRead awake]
    simp [State.onWork, Work.clockhValue, none, Work.clockHigh]
  · exact exec_clockHoldRelease_last awake held
  · exact exec_clockHoldRelease_early awake (releasesHold_of_two held two)
  · exact exec_clockHoldRelease_early awake (by simp [State.releasesHold, none])
  · intro t u et eu
    rw [exec_clocklRead awake] at et
    cases et
    exact hold_lasts_two_ticks awake rfl eu

/-! ## Reference edges -/

theorem nextAccumulator_eq {a : Nat} (h : a < 100) : nextAccumulator a = if 100 ≤ a + 68 then a + 68 - 100 else a + 68 := by
  unfold nextAccumulator
  split <;> omega

theorem referenceEdge_first {s : State} (h : s.work.time.interval = none) :
    referenceEdge s = s.onWork fun w => { w with time := w.time.startInterval } := by
  unfold referenceEdge
  rw [h]

theorem referenceEdge_counted {s : State} {k : Nat} (h : s.work.time.interval = some k)
    (short : k + 1 < intervalLength s.work.time.accumulator) :
    referenceEdge s = s.onWork fun w => { w with time := { w.time with interval := some (k + 1) } } := by
  unfold referenceEdge
  rw [h]
  exact if_pos short

theorem referenceEdge_tick {s : State} {k : Nat} (h : s.work.time.interval = some k)
    (whole : k + 1 = intervalLength s.work.time.accumulator) : referenceEdge s = tickAll s := by
  unfold referenceEdge
  rw [h]
  exact if_neg (by omega)

/-- The first 327 edges after a reset start the interval and count it (R160). -/
theorem referenceEdges_afterReset {s : State} (h : s.work.time = Timebase.reset) {k : Nat} (range : k < 327) :
    ((referenceEdge)^[k + 1] s).work.time = { accumulator := 68, interval := some k, clock := 0 } := by
  induction k with
  | zero =>
    rw [Function.iterate_one, referenceEdge_first (by rw [h]; rfl)]
    simp only [State.onWork, h]
    rfl
  | succ k ih =>
    have time := ih (by omega)
    rw [Function.iterate_succ_apply', referenceEdge_counted (k := k) (by rw [time])
      (by rw [time, show intervalLength 68 = 327 from rfl]; omega)]
    simp only [State.onWork, time]

theorem engineChoice_of_none {w : Work} (h : w.lowestReady = none) (fuel : Nat) : engineChoice fuel w = w := by
  cases fuel with
  | zero => rfl
  | succ fuel =>
    unfold engineChoice
    rw [h]
    split <;> rfl

/-- With no lane READY while the engine is RUNNING there is nothing to settle. -/
theorem settleLanes_of_noneReady {w : Work} (running : w.port.engine = .running) (none : w.lowestReady = none) :
    settleLanes w = w := by
  have ends : endStopping w = w := if_neg (by simp [running])
  unfold settleLanes
  rw [ends, engineChoice_of_none none]

theorem settleLanes_of_noChoiceDue {w : Work} (h : w.noChoiceDue) : settleLanes w = w := by
  obtain active | halted | starting | ⟨running, none⟩ := h
  · exact settleLanes_of_active w active
  · exact settleLanes_of_halted w (by simp [halted]) (by simp [halted])
  · exact settleLanes_of_halted w (by simp [starting]) (by simp [starting])
  · exact settleLanes_of_noneReady running none

theorem passBuffered_of_empty {w : Work} (h : w.line.buffer = []) : (passBuffered w).1 = w := by
  unfold passBuffered
  rw [h]
  unfold takeBits Work.modLine
  dsimp only
  rw [← h]

theorem step_of_empty {s : State} (h : s.pending = []) : step s = .next (idle s) := by
  unfold step
  rw [h]

theorem idle_of_awake {s : State} (h : s.awake) : idle s = referenceEdge (s.onWork fun w => settleLanes (passBuffered w).1) :=
  if_neg (by rw [show s.work.port.resetAsserted = false from h]; nofun)

/-- Settles O3: the edges one by one, and the 328 of them after a reset by what the timebase holds after each. -/
theorem tickIntervalsFollowTheAccumulator : Obligations.TickIntervalsFollowTheAccumulator := by
  refine ⟨fun t small => ?_, fun s none => referenceEdge_first none, fun s k some => ⟨referenceEdge_counted some, ?_⟩,
    fun s reset => ⟨fun k range => ?_, ?_⟩, fun s empty awake buffer due => ?_⟩
  · have next : t.startInterval.accumulator = if 100 ≤ t.accumulator + 68 then t.accumulator + 68 - 100 else t.accumulator + 68 :=
      nextAccumulator_eq small
    refine ⟨next, ?_, rfl, rfl⟩
    rw [next]
    unfold intervalLength
    split <;> split <;> omega
  · exact referenceEdge_tick some
  · cases k with
    | zero => rw [Function.iterate_zero, id, reset]; rfl
    | succ k => rw [referenceEdges_afterReset reset (by omega)]
  · have time := referenceEdges_afterReset (k := 326) reset (by omega)
    rw [show 328 = 326 + 1 + 1 from rfl, Function.iterate_succ_apply', referenceEdge_tick (k := 326) (by rw [time]) (by rw [time]; rfl),
      tickAll_time, time]
    rfl
  · rw [step_of_empty empty, idle_of_awake awake]
    have same : s.onWork (fun w => settleLanes (passBuffered w).1) = s := by
      rw [State.onWork, passBuffered_of_empty buffer, settleLanes_of_noChoiceDue due]
    rw [same]

/-! ## Port writes -/

theorem postedLane_none {operand : BitVec 5} (h : 8 ≤ operand.toNat) : postedLane operand = none := by
  unfold postedLane
  rw [dif_neg (by omega)]

theorem postedLane_ofNat (n : LaneNo) : postedLane (BitVec.ofNat 5 n.val) = some n := by
  have value : (BitVec.ofNat 5 n.val).toNat = n.val := by
    rw [BitVec.toNat_ofNat]
    exact Nat.mod_eq_of_lt (by have := n.isLt; omega)
  unfold postedLane
  simp only [value]
  rw [dif_pos n.isLt]

theorem postedHostLane_ofNat {n : LaneNo} (h : n ≠ 3) : postedHostLane (BitVec.ofNat 5 n.val) = some n := by
  unfold postedHostLane
  rw [postedLane_ofNat]
  exact if_neg h

theorem postedHostLane_none {operand : BitVec 5} (h : operand = 3 ∨ 8 ≤ operand.toNat) : postedHostLane operand = none := by
  rcases h with rfl | large
  · rfl
  · unfold postedHostLane
    rw [postedLane_none large]

end Sys2Proof.Machine

/-! Port writes, the returns of slots, the join rule, the issue of a pulse and RUN: one operation each. -/

namespace Sys2Proof.Machine

/-! ## The commands of a port write -/

/-- A POST is ignored unless it is a RETURN or one of the other three postings with a lane as its operand (R57). -/
theorem postIgnored_iff (data : Word) : postIgnored data = true ↔
    ¬(postAction data = 4 ∨
      ((postAction data = 1 ∨ postAction data = 2 ∨ postAction data = 3) ∧ (postOperand data).toNat < 8)) := by
  have cases : ∀ a : BitVec 3, (a = 0 ∨ 5 ≤ a.toNat) ↔ ¬(a = 4 ∨ a = 1 ∨ a = 2 ∨ a = 3) := by decide
  have apart : ∀ a : BitVec 3, a = 4 → ¬(a = 1 ∨ a = 2 ∨ a = 3) := by decide
  have split := cases (postAction data)
  have four := apart (postAction data)
  simp only [postIgnored, Bool.or_eq_true, Bool.and_eq_true, decide_eq_true_eq, or_assoc]
  by_cases lane : (postOperand data).toNat < 8
  · have small : ¬8 ≤ (postOperand data).toNat := by omega
    simp only [lane, small, and_true, and_false, or_false]
    exact split
  · have large : 8 ≤ (postOperand data).toNat := by omega
    simp only [lane, large, and_true, and_false, or_false, ← or_assoc]
    tauto

theorem postCommand_of_ignored {data : Word} (h : postIgnored data = true) : postCommand data = .portWriteIgnored 0 data := if_pos h

theorem postCommand_nudge {data : Word} (action : postAction data = 1) (lane : (postOperand data).toNat < 8) :
    postCommand data = .nudge (postOperand data) := by
  have taken : ¬postIgnored data = true := by rw [postIgnored_iff]; simp [action, lane]
  rw [postCommand, if_neg taken, action]
  rfl

theorem postCommand_resume {data : Word} (action : postAction data = 2) (lane : (postOperand data).toNat < 8) :
    postCommand data = .resume (postOperand data) := by
  have taken : ¬postIgnored data = true := by rw [postIgnored_iff]; simp [action, lane]
  rw [postCommand, if_neg taken, action]
  rfl

theorem postCommand_cancel {data : Word} (action : postAction data = 3) (lane : (postOperand data).toNat < 8) :
    postCommand data = .cancel (postOperand data) := by
  have taken : ¬postIgnored data = true := by rw [postIgnored_iff]; simp [action, lane]
  rw [postCommand, if_neg taken, action]
  rfl

theorem postCommand_return {data : Word} (action : postAction data = 4) : postCommand data = .returnSlot (postOperand data) := by
  have taken : ¬postIgnored data = true := by rw [postIgnored_iff]; simp [action]
  rw [postCommand, if_neg taken, action]
  rfl

/-- A posting that is not ignored spells a command that a sender can form. -/
theorem postCommand_wellFormed (data : Word) : (postCommand data).wellFormed = true := by
  by_cases ignored : postIgnored data = true
  · rw [postCommand_of_ignored ignored]
    simp [Instr.wellFormed, portWriteIsIgnored, ignored]
  · obtain four | ⟨action, lane⟩ := not_not.mp (mt (postIgnored_iff data).mpr ignored)
    · rw [postCommand_return four]
      rfl
    · obtain one | two | three := action
      · rw [postCommand_nudge one lane]
        simpa [Instr.wellFormed] using lane
      · rw [postCommand_resume two lane]
        simpa [Instr.wellFormed] using lane
      · rw [postCommand_cancel three lane]
        simpa [Instr.wellFormed] using lane

theorem controlCommands_wellFormed (data : Word) : ∀ c ∈ controlCommands data, c.wellFormed = true := by
  unfold controlCommands
  split
  · simp [Instr.wellFormed]
  · split <;> simp [Instr.wellFormed]

theorem portWriteCommands_wellFormed (word : BitVec 3) (data : Word) : ∀ c ∈ portWriteCommands word data, c.wellFormed = true := by
  have words : ∀ word : BitVec 3, word = 0 ∨ word = 1 ∨ word = 3 ∨ word = 4 ∨ word = 2 ∨ word = 5 ∨ word = 6 ∨ word = 7 := by decide
  intro c mem
  obtain rfl | rfl | rfl | rfl | rfl | rfl | rfl | rfl := words word
  · obtain rfl := List.mem_singleton.mp mem
    exact postCommand_wellFormed data
  · exact controlCommands_wellFormed data c mem
  all_goals
    obtain rfl := List.mem_singleton.mp mem
    rfl

/-- NUDGE and RESUME of no host lane, and CANCEL of no lane, are ignored (R57). -/
theorem event_onWork_id (s : State) : event (State.onWork fun w => w) s = .next s := by
  unfold event
  split <;> rfl

theorem exec_nudge_ignored {operand : BitVec 5} (h : operand = 3 ∨ 8 ≤ operand.toNat) (s : State) :
    exec (.nudge operand) s = .next s := by
  show execNudge operand s = _
  rw [execNudge, postedHostLane_none h]
  exact event_onWork_id s

theorem exec_resume_ignored {operand : BitVec 5} (h : operand = 3 ∨ 8 ≤ operand.toNat) (s : State) :
    exec (.resume operand) s = .next s := by
  show execResume operand s = _
  rw [execResume, postedHostLane_none h]
  exact event_onWork_id s

theorem exec_cancel_ignored {operand : BitVec 5} (h : 8 ≤ operand.toNat) (s : State) : exec (.cancel operand) s = .next s := by
  show execCancel operand s = _
  rw [execCancel, postedLane_none h]
  exact event_onWork_id s

/-- NUDGE of a host lane. -/
theorem exec_nudge {n : LaneNo} (host : n ≠ 3) {s : State} (h : s.awake) : exec (.nudge (BitVec.ofNat 5 n.val)) s =
    .next (s.onWork (postToHostLane n (nudgeLane n) fun l => { l with nudgePending := true })) := by
  show execNudge _ s = _
  rw [execNudge, postedHostLane_ofNat host]
  exact event_of_awake h _

/-- RESUME of a host lane. -/
theorem exec_resume {n : LaneNo} (host : n ≠ 3) {s : State} (h : s.awake) : exec (.resume (BitVec.ofNat 5 n.val)) s =
    .next (s.onWork (postToHostLane n (resumeLane n) fun l => { l with resumePending := true })) := by
  show execResume _ s = _
  rw [execResume, postedHostLane_ofNat host]
  exact event_of_awake h _

/-- CANCEL of a lane. -/
theorem exec_cancel (n : LaneNo) {s : State} (h : s.awake) :
    exec (.cancel (BitVec.ofNat 5 n.val)) s = .next (s.onWork (cancelLane n)) := by
  show execCancel _ s = _
  rw [execCancel, postedLane_ofNat]
  exact event_of_awake h _

theorem postToHostLane_of_not_running {n : LaneNo} {act : Work → Work} {mark : Lane → Lane} {w : Work}
    (h : w.port.engine ≠ .running) : postToHostLane n act mark w = w.modLane n mark := if_neg h

theorem postToHostLane_of_running {n : LaneNo} {act : Work → Work} {mark : Lane → Lane} {w : Work}
    (h : w.port.engine = .running) : postToHostLane n act mark w = settleLanes (act w) := if_pos h

/-- The commands of a write of POST. -/
theorem portWriteCommands_post (data : Word) : portWriteCommands 0 data = [postCommand data] := rfl

theorem portWriteCommands_control (data : Word) : portWriteCommands 1 data = controlCommands data := rfl

/-- Settles O10: the ignored writes and postings, the pending flags, and the commands of each port word. -/
theorem ignoredWritesAndPendingPostings : Obligations.IgnoredWritesAndPendingPostings := by
  refine ⟨fun _ _ _ => rfl, fun operand s h => ⟨exec_nudge_ignored h s, exec_resume_ignored h s⟩,
    fun operand s h => exec_cancel_ignored h s, fun n s host awake stopped => ⟨?_, ?_⟩, fun data => ?_⟩
  · rw [exec_nudge host awake, State.onWork, postToHostLane_of_not_running stopped]
    rfl
  · rw [exec_resume host awake, State.onWork, postToHostLane_of_not_running stopped]
    rfl
  · refine ⟨fun action lane => ?_, fun action lane => ?_, fun action lane => ?_, fun action => ?_, fun ignored => ?_, fun clear => ?_,
      fun notClear => ?_, rfl, rfl, fun word other => ?_, fun word s => ⟨portWriteCommands_wellFormed word data, rfl⟩⟩
    · rw [portWriteCommands_post, postCommand_nudge action lane]
      rfl
    · rw [portWriteCommands_post, postCommand_resume action lane]
      rfl
    · rw [portWriteCommands_post, postCommand_cancel action lane]
      rfl
    · rw [portWriteCommands_post, postCommand_return action]
      rfl
    · have none : postIgnored data = true := by
        rw [postIgnored_iff]
        have codes : ∀ a : BitVec 3, a = 0 ∨ 5 ≤ a.toNat → ¬(a = 4 ∨ a = 1 ∨ a = 2 ∨ a = 3) := by decide
        have code := codes (postAction data)
        rintro (four | ⟨action, lane⟩)
        · rcases ignored with zero | large | ⟨other, _⟩
          · exact code (.inl zero) (.inl four)
          · exact code (.inr large) (.inl four)
          · exact other four
        · rcases ignored with zero | large | ⟨_, operand⟩
          · exact code (.inl zero) (.inr action)
          · exact code (.inr large) (.inr action)
          · exact absurd lane (Nat.not_lt.mpr operand)
      rw [portWriteCommands_post, postCommand_of_ignored none]
    · exact if_pos clear
    · exact if_neg (by rw [notClear]; nofun)
    · obtain rfl | rfl | rfl | rfl := other <;> rfl

/-! ## Returns of slots -/

theorem exec_returnSlot {s : State} (h : s.awake) (slot : BitVec 5) : exec (.returnSlot slot) s = .next (s.onWork fun w =>
    match w.returnedSlot slot with
    | some k => changeSlot k .free w
    | none => w) := by
  show execReturnSlot slot s = _
  exact event_of_awake h _

/-- Settles O16: the slot that a RETURN names by the spool in force, and its state word. -/
theorem returnFreesAPassedSlot : Obligations.ReturnFreesAPassedSlot := by
  intro slot s awake quiet
  refine ⟨fun sp spool inside passed => ?_, fun other => ?_⟩
  · have returned : s.work.returnedSlot slot = some slot.toFin := by
      unfold Work.returnedSlot
      rw [spool]
      exact if_pos ⟨inside, passed⟩
    have address : s.work.slotAddress slot.toFin = addressPlus sp.base (slot.toNat * sp.size) := by
      unfold Work.slotAddress
      rw [spool]
      rfl
    rw [exec_returnSlot awake]
    simp only [State.onWork, returned]
    rw [changeSlot_quiet _ _ quiet, Work.slotChanged, address]
    rfl
  · have returned : s.work.returnedSlot slot = none := by
      unfold Work.returnedSlot
      split
      · next sp spool => exact if_neg fun both => other sp spool both.1 both.2
      · rfl
    rw [exec_returnSlot awake]
    simp only [State.onWork, returned]

/-! ## The join rule -/

theorem Panel.join_of_not_clean {p : Panel} {r : Row} (h : p.rowState r ≠ .clean) : p.join r = p := if_neg fun both => h both.1

theorem Panel.join_of_same {p : Panel} {r : Row} (h : p.differs r = false) : p.join r = p :=
  if_neg (by simp [h])

/-- A row agrees cell by cell (R5). -/
theorem Panel.differs_eq_false_iff_cells (p : Panel) (r : Row) : p.differs r = false ↔
    ∀ x : Fin 512, (p.drawn.cell x r != (p.overlayRow r).getLsbD x.val) = p.panel.cell x r ∧ p.doubt.cell x r = false := by
  rw [Panel.differs_eq_false]
  constructor
  · rintro ⟨target, doubt⟩ x
    have bit := congrArg (fun c => c.getLsbD x.val) target
    rw [BitVec.getLsbD_xor] at bit
    exact ⟨bit, by simp [Plane.cell, doubt]⟩
  · intro cells
    refine ⟨BitVec.eq_of_getLsbD_eq fun i small => ?_, BitVec.eq_of_getLsbD_eq fun i small => ?_⟩
    · rw [BitVec.getLsbD_xor]
      exact (cells ⟨i, small⟩).1
    · rw [show (0 : Cols).getLsbD i = false by simp]
      exact (cells ⟨i, small⟩).2

theorem Panel.getLsbD_overlayRow (p : Panel) (r : Row) (x : Fin 512) :
    (p.overlayRow r).getLsbD x.val = (p.markers[0].covers x r ^^ p.markers[1].covers x r) := by
  unfold Panel.overlayRow
  rw [BitVec.getLsbD_xor, Marker.getLsbD_rowMask, Marker.getLsbD_rowMask]

/-- Settles O36: the join rule by the row's state and by its cells, and the overlay cell by cell. -/
theorem cleanRowThatDiffersJoinsAtTheTail : Obligations.CleanRowThatDiffersJoinsAtTheTail := by
  intro p r
  refine ⟨fun clean ⟨x, differs⟩ => if_pos ⟨clean, ?_⟩, Panel.join_of_not_clean, fun same => ?_, p.getLsbD_overlayRow r⟩
  · by_contra agrees
    obtain ⟨target, doubt⟩ := (p.differs_eq_false_iff_cells r).mp (by simpa using agrees) x
    rcases differs with other | doubted
    · rw [target] at other
      simp at other
    · exact absurd (doubt.symm.trans doubted) nofun
  · exact Panel.join_of_same ((p.differs_eq_false_iff_cells r).mpr same)

/-! ## The issue of a pulse -/

theorem exec_pulseIssue {s : State} (h : s.awake) : exec .pulseIssue s = .next (s.onPanel Panel.issueRow) := by
  show execPulseIssue s = _
  exact event_of_awake h _

theorem exec_bulkIssue {s : State} (h : s.awake) : exec .bulkIssue s = .next (s.onPanel Panel.issueBulk) := by
  show execBulkIssue s = _
  exact event_of_awake h _

theorem Panel.issueRow_of_formed {p : Panel} {pulse : Pulse} {r : Row} (firing : p.driver.state = .firing)
    (held : p.driver.pulse = some pulse) (row : pulse.row = some r) (formed : pulse.deadline = none) :
    p.issueRow = { p with driver := p.driver.issue pulse (BitVec.ofFin r) rowDeadline } := by
  simp [Panel.issueRow, held, row, formed, firing]

theorem Panel.issueBulk_of_formed {p : Panel} {pulse : Pulse} (bulk : p.driver.state = .bulk)
    (held : p.driver.pulse = some pulse) (formed : pulse.deadline = none) :
    p.issueBulk = { p with driver := p.driver.issue pulse 0 bulkDeadline } := by
  simp [Panel.issueBulk, held, formed, bulk]

theorem Panel.issueRow_of_not_firing {p : Panel} (h : p.driver.state ≠ .firing) : p.issueRow = p := by
  unfold Panel.issueRow
  split
  · split
    · exact if_neg h
    · rfl
  · rfl

theorem Panel.issueBulk_of_not_bulk {p : Panel} (h : p.driver.state ≠ .bulk) : p.issueBulk = p := by
  unfold Panel.issueBulk
  split
  · split
    · exact if_neg h
    · rfl
  · rfl

/-- Settles O39: the lines of the drive port after the column shift, and the commands that find no pulse to issue. -/
theorem issueRaisesPreqAndSetsTheDeadline : Obligations.IssueRaisesPreqAndSetsTheDeadline := by
  refine ⟨fun s pulse r awake firing held row formed => ⟨_, exec_pulseIssue awake, ?_⟩,
    fun s pulse awake bulk held formed => ⟨_, exec_bulkIssue awake, ?_⟩, fun s awake other => ?_, fun s awake other => ?_⟩
  · have lines : (BitVec.ofFin r : BitVec 9) = BitVec.ofNat 9 r.val := by
      apply BitVec.eq_of_toNat_eq
      rw [BitVec.toNat_ofNat, Nat.mod_eq_of_lt r.isLt]
      rfl
    rw [State.onPanel, Panel.issueRow_of_formed firing held row formed, lines]
    exact ⟨rfl, rfl, rfl⟩
  · rw [State.onPanel, Panel.issueBulk_of_formed bulk held formed]
    exact ⟨rfl, rfl, rfl⟩
  · rw [exec_pulseIssue awake, State.onPanel_of_same (Panel.issueRow_of_not_firing other)]
  · rw [exec_bulkIssue awake, State.onPanel_of_same (Panel.issueBulk_of_not_bulk other)]

/-! ## RUN -/

theorem exec_run {s : State} (h : s.awake) (value : Bool) : exec (.run value) s = .next (s.onWork (actOnRun value)) := by
  show execRun value s = _
  exact event_of_awake h _

/-- Settles O52: RUN by the engine state that it finds. -/
theorem runActsInHaltedAndRunning : Obligations.RunActsInHaltedAndRunning := by
  intro s awake
  refine ⟨fun halted => ?_, fun running => ?_, fun other => ?_, fun other => ?_⟩
  · rw [exec_run awake]
    simp [State.onWork, actOnRun, halted, Work.modPort]
  · rw [exec_run awake]
    simp [State.onWork, actOnRun, running, Work.modPort, enterStopping]
  · rw [exec_run awake]
    cases e : s.work.port.engine <;> simp_all [State.onWork, actOnRun, Work.modPort]
  · rw [exec_run awake]
    cases e : s.work.port.engine <;> simp_all [State.onWork, actOnRun, Work.modPort]

end Sys2Proof.Machine

/-! A tick, block by block: what each block's part of it is where it brings no expiry and no flip. -/

namespace Sys2Proof.Machine

/-! ## The lanes -/

/-- No wait and no limit of this lane runs out at the next counted tick (R64, R65). -/
structure Lane.NotDue (l : Lane) : Prop where
  wait : l.state = .waiting → 2 ≤ l.progress.waitCount
  limit : ∀ k, l.state = .draining → l.progress.limit = some k → 2 ≤ k

theorem tickLane_counts {n : LaneNo} {w : Work} (h : (w.laneOf n).NotDue) : tickLane n w = w.modLane n Lane.countTick := by
  have wait : ¬w.waitRunsOut n = true := by
    simp only [Work.waitRunsOut, Bool.and_eq_true, decide_eq_true_eq, not_and]
    intro waiting
    have := h.wait waiting
    omega
  have limit : ¬w.limitRunsOut n = true := by
    simp only [Work.limitRunsOut, Bool.and_eq_true, decide_eq_true_eq, not_and, Option.any_eq_true, not_exists]
    intro draining k some
    have := h.limit k draining some
    omega
  unfold tickLane
  rw [if_neg wait, if_neg limit]

/-- Changes of lanes, one after another, leave all but the lanes. -/
theorem foldl_modLane (l : List LaneNo) (f : Lane → Lane) (w : Work) : ∃ lane : Vector Lane 8,
    l.foldl (fun w n => w.modLane n f) w = { w with lanes := { w.lanes with lane := lane } } := by
  induction l generalizing w with
  | nil => exact ⟨w.lanes.lane, rfl⟩
  | cons n rest ih =>
    obtain ⟨lane, e⟩ := ih (w.modLane n f)
    exact ⟨lane, e⟩

theorem laneOf_foldl_modLane {l : List LaneNo} (nodup : l.Nodup) (f : Lane → Lane) (w : Work) (m : LaneNo) :
    (l.foldl (fun w n => w.modLane n f) w).laneOf m = if m ∈ l then f (w.laneOf m) else w.laneOf m := by
  induction l generalizing w with
  | nil => rfl
  | cons n rest ih =>
    obtain ⟨out, nodup⟩ := List.nodup_cons.mp nodup
    rw [List.foldl_cons, ih nodup, Work.laneOf_modLane]
    by_cases e : m = n
    · subst e
      simp [out]
    · simp [e]

theorem foldl_tickLane_counts {l : List LaneNo} (nodup : l.Nodup) {w : Work} (h : ∀ n ∈ l, (w.laneOf n).NotDue) :
    l.foldl (fun w n => tickLane n w) w = l.foldl (fun w n => w.modLane n Lane.countTick) w := by
  induction l generalizing w with
  | nil => rfl
  | cons n rest ih =>
    obtain ⟨out, nodup⟩ := List.nodup_cons.mp nodup
    rw [List.foldl_cons, List.foldl_cons, tickLane_counts (h n (List.mem_cons_self ..))]
    refine ih nodup fun m mem => ?_
    have ne : m ≠ n := fun e => out (e ▸ mem)
    rw [Work.laneOf_modLane_other _ _ _ _ ne]
    exact h m (List.mem_cons_of_mem _ mem)

/-- The lanes' part of a tick that ends nothing (R64, R65, R167). -/
theorem tickLanes_counts {w : Work} (h : w.port.engine = .running → ∀ n, (w.laneOf n).NotDue) :
    ∃ lane : Vector Lane 8, tickLanes w = { w with lanes := { w.lanes with lane := lane } } ∧
      (w.port.engine ≠ .running → lane = w.lanes.lane) ∧
      (w.port.engine = .running → ∀ n, lane[n.val] = (w.laneOf n).countTick) := by
  by_cases running : w.port.engine = .running
  · have nodup : (List.finRange 8).Nodup := List.nodup_finRange 8
    obtain ⟨lane, e⟩ := foldl_modLane (List.finRange 8) Lane.countTick w
    refine ⟨lane, ?_, fun not => absurd running not, fun _ n => ?_⟩
    · rw [tickLanes, if_pos running, foldl_tickLane_counts nodup fun n _ => h running n, e]
    · have counted := laneOf_foldl_modLane nodup Lane.countTick w n
      rw [e, if_pos (List.mem_finRange n)] at counted
      exact counted
  · exact ⟨w.lanes.lane, by rw [tickLanes, if_neg running], fun _ => rfl, fun r => absurd r running⟩

theorem Lane.countTick_of_waiting {l : Lane} (h : l.state = .waiting) :
    l.countTick = { l with progress := { l.progress with waitCount := l.progress.waitCount - 1 } } := by
  unfold Lane.countTick
  rw [h]

theorem Lane.countTick_of_draining {l : Lane} (h : l.state = .draining) :
    l.countTick = { l with progress := { l.progress with limit := l.progress.limit.map fun k => k - 1 } } := by
  unfold Lane.countTick
  rw [h]
  rfl

theorem Lane.countTick_of_other {l : Lane} (wait : l.state ≠ .waiting) (drain : l.state ≠ .draining) : l.countTick = l := by
  unfold Lane.countTick
  split <;> simp_all

/-! ## The markers -/

theorem Marker.advance_of_inactive {m : Marker} (h : m.active = false) : m.advance = m := if_neg (by simp [h])

/-- A marker that does not flip moves its counter only (R126). -/
theorem Marker.advance_of_steady {m : Marker} (active : m.active = true) (steady : m.on = decide (m.nextCounter < m.onTime)) :
    m.advance = { m with counter := m.nextCounter } := by
  have on : ({ m with counter := m.nextCounter } : Marker).onByCounter = m.on := steady.symm
  unfold Marker.advance
  rw [if_pos active]
  dsimp only
  rw [show (if m.counter + 1 = m.period then 0 else m.counter + 1) = m.nextCounter from rfl, on]

/-- The marker does not flip at the next counted tick (R126). -/
def Marker.Steady (m : Marker) : Prop := m.active = true → m.on = decide (m.nextCounter < m.onTime)

theorem Marker.Steady.flips {m : Marker} (h : m.Steady) : m.flipsNext = false := by
  unfold Marker.flipsNext
  by_cases active : m.active = true
  · rw [Marker.advance_of_steady active (h active)]
    simp
  · rw [Marker.advance_of_inactive (by simpa using active)]
    simp

theorem Panel.tickMarker_steady {p : Panel} {n : Fin 2} (h : p.markers[n.val].Steady) :
    p.tickMarker n = p.setMarker n p.markers[n.val].advance := by
  unfold Panel.tickMarker
  dsimp only
  rw [h.flips]
  rfl

/-- The markers' part of a tick that brings no flip (R126, R131). -/
theorem tickMarkers_counts {s : State} (flag : s.panel.settled = s.panel.isSettled)
    (h : s.work.port.engine = .running → ∀ k : Fin 2, s.panel.markers[k.val].Steady) :
    ∃ markers : Vector Marker 2, tickMarkers s = s.onPanel (fun p => { p with markers := markers }) ∧
      (s.work.port.engine ≠ .running → markers = s.panel.markers) ∧
      (s.work.port.engine = .running → ∀ k : Fin 2, markers[k.val] = s.panel.markers[k.val].advance) := by
  by_cases running : s.work.port.engine = .running
  · have first := Panel.tickMarker_steady (h running 0)
    have other : (s.panel.tickMarker 0).markers[(1 : Fin 2).val] = s.panel.markers[(1 : Fin 2).val] := by
      rw [first]
      simp [Panel.setMarker]
    have second := Panel.tickMarker_steady (p := s.panel.tickMarker 0) (n := 1) (by rw [other]; exact h running 1)
    rw [other] at second
    have both : (s.panel.tickMarker 0).tickMarker 1 = { s.panel with
        markers := (s.panel.markers.set 0 s.panel.markers[0].advance).set 1 s.panel.markers[1].advance } := by
      rw [second, first]
      rfl
    refine ⟨(s.panel.markers.set 0 s.panel.markers[0].advance).set 1 s.panel.markers[1].advance, ?_,
      fun not => absurd running not, fun _ k => ?_⟩
    · rw [tickMarkers, if_pos running, changePanel_of_flag (by rw [both]; exact flag), State.onPanel, both]
      rfl
    · match k with
      | 0 => simp
      | 1 => simp
  · exact ⟨s.panel.markers, by rw [tickMarkers, if_neg running]; rfl, fun _ => rfl, fun r => absurd r running⟩

/-! ## The driver -/

/-- A pulse whose deadline has started is a row pulse that PREQ stands for or a BULK pulse that it stands for. -/
theorem Panel.issued_cases {p : Panel} (row : ∀ pulse, p.driver.pulse = some pulse →
      (p.driver.state = .firing ↔ pulse.row.isSome) ∧ (p.driver.state = .bulk ↔ pulse.row = none))
    {pulse : Pulse} {k : Nat} (held : p.driver.pulse = some pulse) (started : pulse.deadline = some k) :
    (∃ r, p.issuedRowPulse = some (pulse, r, k)) ∨ (p.issuedRowPulse = none ∧ p.issuedBulkPulse = some (pulse, k)) := by
  obtain ⟨firing, bulk⟩ := row pulse held
  cases e : pulse.row with
  | some r =>
    left
    refine ⟨r, ?_⟩
    simp [Panel.issuedRowPulse, held, e, started, firing.mpr (by rw [e]; rfl)]
  | none =>
    right
    simp [Panel.issuedRowPulse, Panel.issuedBulkPulse, held, e, started, bulk.mpr e]

/-- With no deadline running a count of it changes nothing. -/
theorem Driver.countTick_of_none {d : Driver} (h : ∀ pulse, d.pulse = some pulse → pulse.deadline = none) : d.countTick = d := by
  have same : (d.pulse.map fun pulse => { pulse with deadline := countDown pulse.deadline }) = d.pulse := by
    cases e : d.pulse with
    | none => rfl
    | some pulse =>
      have none := h pulse e
      rw [Option.map_some, none]
      show some ({ pulse with deadline := Option.none } : Pulse) = some pulse
      rw [← none]
  unfold Driver.countTick
  rw [same]

theorem tickDriver_of_none {s : State} (row : s.panel.issuedRowPulse = none) (bulk : s.panel.issuedBulkPulse = none) :
    tickDriver s = s := by
  unfold tickDriver
  rw [row, bulk]

/-- The driver's part of a tick at which no deadline expires (R42). -/
theorem tickDriver_counts {s : State} (row : ∀ pulse, s.panel.driver.pulse = some pulse →
      (s.panel.driver.state = .firing ↔ pulse.row.isSome) ∧ (s.panel.driver.state = .bulk ↔ pulse.row = none))
    (due : ∀ pulse k, s.panel.driver.pulse = some pulse → pulse.deadline = some k → 2 ≤ k) :
    tickDriver s = s.onPanel fun p => { p with driver := p.driver.countTick } := by
  by_cases running : ∃ pulse k, s.panel.driver.pulse = some pulse ∧ pulse.deadline = some k
  · obtain ⟨pulse, k, held, started⟩ := running
    have long : ¬k ≤ 1 := by
      have := due pulse k held started
      omega
    unfold tickDriver
    obtain ⟨r, issued⟩ | ⟨none, issued⟩ := Panel.issued_cases row held started
    · simp only [issued, if_neg long]
    · simp only [none, issued, if_neg long]
  · have idle : ∀ pulse, s.panel.driver.pulse = some pulse → pulse.deadline = none := by
      intro pulse held
      cases e : pulse.deadline with
      | none => rfl
      | some k => exact absurd ⟨pulse, k, held, e⟩ running
    have rowNone : s.panel.issuedRowPulse = none := by
      cases e : s.panel.issuedRowPulse with
      | none => rfl
      | some x =>
        obtain ⟨held, _, started, _⟩ := Panel.issuedRowPulse_some e
        exact absurd ⟨_, _, held, started⟩ running
    have bulkNone : s.panel.issuedBulkPulse = none := by
      cases e : s.panel.issuedBulkPulse with
      | none => rfl
      | some x =>
        obtain ⟨held, started, _⟩ := Panel.issuedBulkPulse_some e
        exact absurd ⟨_, _, held, started⟩ running
    rw [tickDriver_of_none rowNone bulkNone]
    refine (State.onPanel_of_same ?_).symm
    rw [Driver.countTick_of_none idle]

/-! ## The supply and the port -/

/-- The supply's part of a tick that ends no ramp (R23, R24). -/
theorem tickSupply_counts {s : State} (due : s.panel.supply.state = .ramping →
      s.panel.supply.ramp + 1 < 50 ∧ (10 ≤ s.panel.supply.ramp + 1 → s.panel.supply.supok = false)) :
    tickSupply s = s.onPanel fun p => { p with supply := p.supply.countTick } := by
  have notReady : ¬s.panel.supply.readyNext = true := by
    intro next
    simp only [Supply.readyNext, Bool.and_eq_true, decide_eq_true_eq] at next
    obtain ⟨⟨ramping, minimum⟩, ok⟩ := next
    obtain ⟨_, notOk⟩ := due ramping
    exact absurd ((notOk minimum).symm.trans ok) nofun
  have notFailed : ¬s.panel.supply.failsNext = true := by
    intro next
    simp only [Supply.failsNext, Bool.and_eq_true, decide_eq_true_eq] at next
    obtain ⟨⟨ramping, limit⟩, _⟩ := next
    obtain ⟨short, _⟩ := due ramping
    exact absurd short (Nat.not_lt.mpr limit)
  unfold tickSupply
  rw [if_neg notReady, if_neg notFailed]

theorem Supply.countTick_eq (v : Supply) :
    v.countTick = { v with ramp := if v.state = .ramping then v.ramp + 1 else v.ramp } := by
  unfold Supply.countTick
  split <;> rfl

/-- The port's part of a tick at which the hold is not released (R163). -/
theorem tickHold_counts {w : Work} (due : ∀ h, w.port.hold = some h → 2 ≤ h.ticks) :
    tickHold w = { w with port := { w.port with hold := w.port.hold.map fun h => { h with ticks := h.ticks - 1 } } } := by
  unfold tickHold
  dsimp only
  cases e : w.port.hold with
  | none => rfl
  | some h =>
    have long : ¬h.ticks ≤ 1 := by
      have := due h e
      omega
    simp [long]

theorem Timebase.tick_of_running {t : Timebase} (h : t.interval.isSome) :
    t.tick = { accumulator := (t.accumulator + 68) % 100, interval := some 0, clock := t.clock + 1 } := by
  have running : t.interval.isNone = false := by
    obtain ⟨k, some⟩ := Option.isSome_iff_exists.mp h
    rw [some]
    rfl
  unfold Timebase.tick
  rw [running]
  rfl

end Sys2Proof.Machine

/-! A whole tick: the blocks one after another, its end, and the tick that ends nothing. -/

namespace Sys2Proof.Machine

theorem startTestDue_iff (before after : State) : startTestDue before after = true ↔
    before.panel.queue.length < after.panel.queue.length ∨
      (before.panel.supply.state ≠ .ready ∧ after.panel.supply.state = .ready) := by
  simp only [startTestDue, Bool.or_eq_true, Bool.and_eq_true, decide_eq_true_eq]

theorem finishTick_nil_of_due {before s : State} (h : before.panel.queue.length < s.panel.queue.length ∨
    (before.panel.supply.state ≠ .ready ∧ s.panel.supply.state = .ready)) :
    finishTick before [] s = (startTest s).onWork settleLanes := by
  unfold finishTick
  dsimp only [List.foldl_nil]
  rw [if_pos ((startTestDue_iff before s).mpr h)]
  rfl

theorem finishTick_nil_of_not_due {before s : State} (queue : s.panel.queue.length ≤ before.panel.queue.length)
    (supply : before.panel.supply.state = .ready ∨ s.panel.supply.state ≠ .ready) :
    finishTick before [] s = s.onWork settleLanes := by
  have not : ¬startTestDue before s = true := by
    rw [startTestDue_iff]
    rintro (longer | ⟨notReady, ready⟩)
    · omega
    · exact supply.elim notReady fun h => h ready
  unfold finishTick
  dsimp only [List.foldl_nil]
  rw [if_neg not]
  rfl

/-- A state after a tick that ends nothing, with the lanes and the markers that it leaves: each count has moved by one. -/
def State.ticked (lane : Vector Lane 8) (markers : Vector Marker 2) (s : State) : State :=
  { s with
    work := { s.work with
      time := s.work.time.tick
      port := { s.work.port with hold := s.work.port.hold.map fun h => { h with ticks := h.ticks - 1 } }
      lanes := { s.work.lanes with lane := lane } }
    panel := { s.panel with
      markers := markers
      driver := s.panel.driver.countTick
      supply := s.panel.supply.countTick } }

/-- A state after the clock's and the lanes' part of a tick that ends nothing. -/
def State.lanesTicked (lane : Vector Lane 8) (s : State) : State :=
  s.onWork fun w => { tickClock w with lanes := { w.lanes with lane := lane } }

/-- Each block's part of a tick at which nothing is due. -/
theorem tickAll_of_nothingDue {s : State} (sound : s.panel.Sound) (due : s.NothingDue) :
    ∃ lane markers, tickAll s = (s.ticked lane markers).onWork settleLanes ∧
      (s.work.port.engine ≠ .running → lane = s.work.lanes.lane ∧ markers = s.panel.markers) ∧
      (s.work.port.engine = .running → (∀ n : LaneNo, lane[n.val] = (s.work.laneOf n).countTick) ∧
        ∀ k : Fin 2, markers[k.val] = s.panel.markers[k.val].advance) := by
  have row : ∀ pulse, s.panel.driver.pulse = some pulse →
      (s.panel.driver.state = .firing ↔ pulse.row.isSome) ∧ (s.panel.driver.state = .bulk ↔ pulse.row = none) := by
    intro pulse held
    obtain ⟨firing, bulk, _⟩ := sound.rowPulse pulse held
    exact ⟨firing, bulk⟩
  obtain ⟨lane, lanes, stillLanes, countedLanes⟩ := tickLanes_counts (w := tickClock s.work)
    fun running n => ⟨due.waits running n, due.limits running n⟩
  have first : takeTick .lanes (takeTick .clock s) = s.lanesTicked lane := congrArg (fun w => { s with work := w }) lanes
  obtain ⟨markers, flips, stillMarkers, countedMarkers⟩ := tickMarkers_counts (s := (s.lanesTicked lane)) sound.settledFlag due.markers
  have second : takeTick .markers (s.lanesTicked lane) = (s.lanesTicked lane).onPanel fun p => { p with markers := markers } := flips
  have third := tickDriver_counts (s := (s.lanesTicked lane).onPanel fun p => { p with markers := markers }) row due.pulse
  have fourth := tickSupply_counts (s := ((s.lanesTicked lane).onPanel fun p => { p with markers := markers }).onPanel
    fun p => { p with driver := p.driver.countTick }) due.ramp
  have fifth := tickHold_counts (w := (s.lanesTicked lane).work) due.hold
  refine ⟨lane, markers, ?_, fun stopped => ⟨stillLanes stopped, stillMarkers stopped⟩,
    fun running => ⟨countedLanes running, countedMarkers running⟩⟩
  have taken : takeTick .hold (takeTick .supply (takeTick .driver (takeTick .markers (takeTick .lanes (takeTick .clock s))))) =
      s.ticked lane markers := by
    rw [first, second, show ∀ u, takeTick .driver u = tickDriver u from fun _ => rfl, third,
      show ∀ u, takeTick .supply u = tickSupply u from fun _ => rfl, fourth]
    exact congrArg (fun w => { s.ticked lane markers with work := w }) fifth
  show finishTick s [.clock, .lanes, .markers, .driver, .supply, .hold] s = _
  rw [finishTick_cons, finishTick_cons, finishTick_cons, finishTick_cons, finishTick_cons, finishTick_cons, taken]
  refine finishTick_nil_of_not_due (Nat.le_refl _) ?_
  have supply : (s.ticked lane markers).panel.supply.state = s.panel.supply.state := s.panel.supply.countTick_state
  rw [supply]
  exact em _

/-- Settles O11: the blocks in their order, the end of a tick, and the tick that moves counts only. -/
theorem tickIsCountedOnceByEachBlock : Obligations.TickIsCountedOnceByEachBlock := by
  refine ⟨fun s awake => exec_tick awake, fun _ _ _ _ => rfl, fun before s => ⟨finishTick_nil_of_due, finishTick_nil_of_not_due⟩,
    tick_not_counted, fun s awake started _ sound due => ?_⟩
  obtain ⟨lane, markers, e, still, counted⟩ := tickAll_of_nothingDue sound due
  refine ⟨s.ticked lane markers, ?_, rfl, rfl, ?_, ?_, fun stopped => ?_, fun running n => ?_, fun running k => ?_⟩
  · rw [exec_tick awake, e]
  · unfold State.ticked
    rw [Timebase.tick_of_running started]
  · unfold State.ticked
    dsimp only
    rw [Supply.countTick_eq]
    rfl
  · obtain ⟨lanes, marks⟩ := still stopped
    unfold State.ticked
    rw [lanes, marks]
    exact ⟨rfl, rfl⟩
  · obtain ⟨lanes, _⟩ := counted running
    have now : (s.ticked lane markers).work.laneOf n = (s.work.laneOf n).countTick := lanes n
    rw [now]
    exact ⟨Lane.countTick_of_other, Lane.countTick_of_waiting, Lane.countTick_of_draining⟩
  · obtain ⟨_, marks⟩ := counted running
    have now : (s.ticked lane markers).panel.markers[k.val] = s.panel.markers[k.val].advance := marks k
    rw [now]
    exact ⟨Marker.advance_of_inactive, fun active => Marker.advance_of_steady active (due.markers running k active)⟩

end Sys2Proof.Machine

/-! Links, fetches and the report of a FAULTED lane: what a NUDGE and a RESUME do while every access completes, and where one
fails. -/

namespace Sys2Proof.Machine

/-! ## A lane that is lost -/

theorem leaveBlock_withFailure (n : LaneNo) (st : LaneState) (a : Addr) (i : Nat) (answer : BusAnswer) (w : Work) :
    (w.withFailure i answer).leaveBlock n st a = (w.leaveBlock n st a).withFailure i answer := by
  rw [leaveBlock_eq, leaveBlock_eq, ← release_withFailure]
  rfl

theorem laneLost_port (n : LaneNo) (a : Addr) (w : Work) : (w.laneLost n a).port = w.port := by
  rw [← leaveBlock_faulted, leaveBlock_eq, Work.release_port]
  rfl

theorem laneLost_mem (n : LaneNo) (a : Addr) (w : Work) : (w.laneLost n a).mem = w.mem := by
  rw [← leaveBlock_faulted, leaveBlock_eq]
  unfold Work.release
  split <;> rfl

theorem laneLost_bus {w : Work} (n : LaneNo) (a : Addr) (q : w.bus = []) : (w.laneLost n a).bus = [] :=
  leaveBlock_bus n .faulted a q

theorem laneLost_laneRecord (n : LaneNo) (a : Addr) (w : Work) (offset : Nat) :
    (w.laneLost n a).laneRecord n offset = w.laneRecord n offset := by
  unfold Work.laneRecord Work.exchange Work.exchangeBase
  rw [laneLost_port]

theorem laneLost_laneOf (n : LaneNo) (a : Addr) (w : Work) : (w.laneLost n a).laneOf n = (w.laneOf n).without .faulted a := by
  rw [← leaveBlock_faulted, Work.laneOf_leaveBlock, if_pos rfl]

theorem release_activeLane (n : LaneNo) (w : Work) : (w.release n).activeLane ≠ some n := by
  unfold Work.release
  split
  · simp [Work.activeLane]
  · assumption

theorem laneLost_activeLane (n : LaneNo) (a : Addr) (w : Work) : (w.laneLost n a).activeLane ≠ some n := by
  rw [← leaveBlock_faulted, leaveBlock_eq]
  exact release_activeLane n _

/-- Where a change leaves the lane as it is, it changes nothing. -/
theorem modLane_of_same {w : Work} {n : LaneNo} {f : Lane → Lane} (h : f (w.laneOf n) = w.laneOf n) : w.modLane n f = w := by
  have lanes : w.lanes.lane.set n.val (w.laneOf n) = w.lanes.lane := by simp [Work.laneOf]
  unfold Work.modLane Work.setLane
  rw [h, lanes]

/-- A lane that is lost already, whatever the bus has done since, is lost no further. -/
theorem laneLost_of_lost {w v : Work} {n : LaneNo} {a : Addr} (h : Work.BusOnly (w.laneLost n a) v) : v.laneLost n a = v := by
  have lane : v.laneOf n = (w.laneOf n).without .faulted a := by rw [h.laneOf, laneLost_laneOf]
  have active : v.activeLane ≠ some n := by
    unfold Work.activeLane
    rw [h.lanes]
    exact laneLost_activeLane n a w
  have same : v.modLane n (Lane.without .faulted a) = v := modLane_of_same (by rw [lane]; rfl)
  rw [← leaveBlock_faulted, leaveBlock_eq, same, release_of_other active]

/-! ## The report of a FAULTED lane -/

/-- The words of a FAULTED report, as an attempt at it writes them (R50). -/
theorem faultAttempt_eq {w : Work} (n : LaneNo) (r : LaneFaultReason) (q : w.bus = []) :
    faultAttempt n r w = (true, storeWords (w.faultWords n r) w) := faultAttempt_quiet n r q

/-- Where the reason's word cannot be read, the report goes on without it (R50). -/
theorem faultAttempt_unread {w : Work} (n : LaneNo) (r : LaneFaultReason) {answer : BusAnswer} {kind : Word}
    (f : answer.FailsRead kind) (q : w.bus = []) :
    faultAttempt n r (w.withFailure 0 answer) =
      (true, storeWords ((w.failureNoted kind 3 (BitVec.ofNat 16 n.val) (w.laneRecord n 0xE)).laneRecordWords n)
        (w.failureNoted kind 3 (BitVec.ofNat 16 n.val) (w.laneRecord n 0xE))) := by
  unfold faultAttempt
  rw [show (w.withFailure 0 answer).laneRecord n 0xE = w.laneRecord n 0xE from rfl, readStation_fails .lane (some n) _ w q f]
  dsimp only
  rw [writeStationList_completes _ _ _ _ (by simpa using q)]
  rfl

/-- A failed write of the report cuts it short (R50). -/
theorem faultAttempt_cut {w : Work} (n : LaneNo) (r : LaneFaultReason) (j : Nat) (stored : Bool) (q : w.bus = [])
    (hj : j < (w.faultWords n r).length) :
    faultAttempt n r (w.withFailure (1 + j) (.noAnswer stored)) =
      (false, w.cutShort j stored 3 (BitVec.ofNat 16 n.val) (w.faultWords n r)) := by
  have cut := writeStationList_fails .lane (some n) (w.faultWords n r) j hj stored w q
  unfold faultAttempt
  rw [Nat.add_comm 1 j, show (w.withFailure (j + 1) (.noAnswer stored)).laneRecord n 0xE = w.laneRecord n 0xE from rfl,
    readStation_before]
  dsimp only
  rw [show (w.withFailure j (.noAnswer stored)).laneRecord n 0xE = w.laneRecord n 0xE from rfl]
  by_cases empty : w.mem.readWord (w.laneRecord n 0xE) = 0
  · rw [if_pos empty]
    have words : w.faultWords n r = (w.laneRecord n 0xE, r.code) :: w.laneRecordWords n := by
      unfold Work.faultWords
      rw [if_pos empty]
      rfl
    rw [words] at cut ⊢
    exact cut
  · rw [if_neg empty]
    have words : w.faultWords n r = w.laneRecordWords n := by
      unfold Work.faultWords
      rw [if_neg empty]
      rfl
    rw [words] at cut ⊢
    exact cut

/-- The report of a host lane by its first attempt (R50, R77). -/
theorem enterFaulted_of_host {n : LaneNo} (host : n ≠ 3) (r : LaneFaultReason) (a : Addr) (b : Bool) (w : Work) :
    enterFaulted n r a b w = setCause .laneFault
      (if (faultAttempt n r (w.leaveBlock n .faulted a)).1 || b then (faultAttempt n r (w.leaveBlock n .faulted a)).2
        else (faultAttempt n .memory (faultAttempt n r (w.leaveBlock n .faulted a)).2).2) := by
  unfold enterFaulted
  rw [if_neg host]

/-- The unread reason of a FAULTED report (R50). -/
theorem enterFaulted_unread {n : LaneNo} (host : n ≠ 3) (r : LaneFaultReason) (a : Addr) (b : Bool) {w : Work} (q : w.bus = [])
    {answer : BusAnswer} {kind : Word} (f : answer.FailsRead kind) {told : Work}
    (e : told = (w.laneLost n a).failureNoted kind 3 (BitVec.ofNat 16 n.val) (w.laneRecord n 0xE)) :
    enterFaulted n r a b (w.withFailure 0 answer) = setCause .laneFault (storeWords (told.laneRecordWords n) told) := by
  rw [enterFaulted_of_host host, leaveBlock_withFailure, leaveBlock_faulted, faultAttempt_unread n r f (laneLost_bus n a q),
    laneLost_laneRecord, ← e]
  rfl

/-- A FAULTED report that is cut short: after a write error nothing follows, and otherwise one more attempt (R50, R77). -/
theorem enterFaulted_cut {n : LaneNo} (host : n ≠ 3) (r : LaneFaultReason) (a : Addr) {w : Work} (q : w.bus = []) (j : Nat)
    (stored : Bool) (hj : j < ((w.laneLost n a).faultWords n r).length) {cut : Work}
    (e : cut = (w.laneLost n a).cutShort j stored 3 (BitVec.ofNat 16 n.val) ((w.laneLost n a).faultWords n r)) :
    enterFaulted n r a true (w.withFailure (1 + j) (.noAnswer stored)) = setCause .laneFault cut ∧
      enterFaulted n r a false (w.withFailure (1 + j) (.noAnswer stored)) = cut.faulted n .memory a := by
  have quiet := laneLost_bus n a q
  have lost : cut.laneLost n a = cut := laneLost_of_lost (w := w) (by rw [e]; exact cutShort_busOnly _ _ _ _ _ _)
  constructor
  · rw [enterFaulted_of_host host, leaveBlock_withFailure, leaveBlock_faulted, faultAttempt_cut n r j stored quiet hj, ← e]
    rfl
  · rw [enterFaulted_of_host host, leaveBlock_withFailure, leaveBlock_faulted, faultAttempt_cut n r j stored quiet hj, ← e]
    dsimp only
    rw [if_neg (by decide), faultAttempt_eq n .memory (by rw [e]; simpa using quiet)]
    unfold Work.faulted
    rw [lost]

/-- Whatever the bus does, a lane that enters FAULTED is FAULTED, and LANE_FAULT is set (R50). -/
theorem enterFaulted_state (n : LaneNo) (r : LaneFaultReason) (a : Addr) (b : Bool) (w : Work) :
    ((enterFaulted n r a b w).laneOf n).state = .faulted := by
  rw [(enterFaulted_busOnly n r a b w).laneOf, Work.laneOf_leaveBlock, if_pos rfl]
  rfl

theorem setCause_hasCause (c : Cause) (w : Work) : (setCause c w).hasCause c = true := by
  unfold Work.hasCause
  rw [setCause_cause, BitVec.getLsbD_or]
  have own : c.mask.getLsbD c.bit = true := by cases c <;> decide
  rw [own, Bool.or_true]

/-! ## Links -/

/-- Going on by the link of a block, of a host lane (R54). -/
theorem followLink_quiet {n : LaneNo} (host : n ≠ 3) (a : Addr) (f : Work → Work) {w : Work} (q : w.bus = []) :
    followLink n a f w =
      (if w.mem.readWord a = 0 then f w
        else if (address20 (w.mem.readWord a) (w.mem.readWord (a + 2))).toNat % 2 = 0 then
          fetchBlock n (address20 (w.mem.readWord a) (w.mem.readWord (a + 2))) w
        else w.faulted n .badLink a) := by
  unfold followLink
  rw [readLink_quiet n a q]
  have two : addressPlus a 2 = a + 2 := rfl
  rw [two]
  split <;> rename_i e
  · split at e
    · next none => rw [if_pos none, ← (Prod.mk.inj e).2]
    · split at e <;> cases e
  · split at e
    · cases e
    · next some =>
      split at e
      · next even =>
        obtain ⟨block, same⟩ := Prod.mk.inj e
        cases block
        rw [if_neg some, if_pos (by simpa [addressEven] using even), same]
      · cases e
  · split at e
    · cases e
    · next some =>
      split at e
      · cases e
      · next odd =>
        obtain ⟨_, same⟩ := Prod.mk.inj e
        rw [if_neg some, if_neg (by simpa [addressEven] using odd), ← same, enterFaulted_hostLane n _ _ _ host q]
  · split at e
    · cases e
    · split at e <;> cases e

/-- A link that cannot be read makes the lane FAULTED (R54). -/
theorem followLink_unread {n : LaneNo} (host : n ≠ 3) (a : Addr) (f : Work → Work) {w : Work} (q : w.bus = []) {i : Nat}
    {answer : BusAnswer} {kind : Word} (fails : answer.FailsRead kind) (at_ : i = 0 ∨ (i = 1 ∧ w.mem.readWord a ≠ 0)) :
    followLink n a f (w.withFailure i answer) =
      (w.failureNoted kind 3 (BitVec.ofNat 16 n.val) (a + BitVec.ofNat 20 (2 * i))).faulted n .memory a := by
  unfold followLink
  rw [readLink_fails n a i fails q at_]
  exact enterFaulted_hostLane n _ _ _ host (by simpa using q)

/-- Before a failing access, the link names a block, which is fetched (R54). -/
theorem followLink_block_before {n : LaneNo} (a : Addr) (f : Work → Work) {w : Work} (i : Nat) (answer : BusAnswer)
    (some : w.mem.readWord a ≠ 0) {b : Addr} (e : b = address20 (w.mem.readWord a) (w.mem.readWord (a + 2)))
    (even : b.toNat % 2 = 0) : followLink n a f (w.withFailure (2 + i) answer) = fetchBlock n b (w.withFailure i answer) := by
  unfold followLink
  rw [readLink_block_before n a i answer some b e (by simpa [addressEven] using even)]

/-- Before a failing access, a link that is none is followed as such (R54). -/
theorem followLink_none_before {n : LaneNo} (a : Addr) (f : Work → Work) {w : Work} (i : Nat) (answer : BusAnswer)
    (none : w.mem.readWord a = 0) : followLink n a f (w.withFailure (1 + i) answer) = f (w.withFailure i answer) := by
  unfold followLink
  rw [readLink_none_before n a i answer none]

/-- A fetch by a lane that is not ACTIVE (R53). -/
theorem fetchBlock_of_other {n : LaneNo} (b : Addr) {w : Work} (q : w.bus = []) (other : w.activeLane ≠ some n) :
    fetchBlock n b w = (w.modLane n (Lane.fetched b (w.mem.readWord (b + 2)) (w.mem.readWord (b + 4)))).recorded n := by
  rw [fetchBlock_quiet n b q, release_of_other (by exact other)]
  rfl

/-! ## NUDGE of an IDLE lane -/

/-- The head address of lane `n` cleared (R58). -/
def Work.headCleared (n : LaneNo) (w : Work) : Work := storeWords [(w.laneRecord n 0, 0), (w.laneRecord n 2, 0)] w

theorem nudgeLane_of_idle {n : LaneNo} {w : Work} (h : (w.laneOf n).state = .idle) : nudgeLane n w = nudgeIdle n w := by
  unfold nudgeLane
  rw [h]

theorem nudgeLane_of_parked {n : LaneNo} {w : Work} (h : (w.laneOf n).state = .parked) :
    nudgeLane n w = followLink n (w.laneOf n).current id w := by
  unfold nudgeLane
  rw [h]

theorem nudgeLane_of_other {n : LaneNo} {w : Work} (idle : (w.laneOf n).state ≠ .idle) (parked : (w.laneOf n).state ≠ .parked) :
    nudgeLane n w = w := by
  unfold nudgeLane
  split <;> simp_all

theorem resumeLane_of_held {n : LaneNo} {w : Work} (h : (w.laneOf n).state = .held) : resumeLane n w =
    followLink n (w.laneOf n).current (fun w1 => writeLaneRecord n 0 (w1.leaveBlock n .parked (w.laneOf n).current)) w := by
  unfold resumeLane
  rw [h]

theorem resumeLane_of_other {n : LaneNo} {w : Work} (held : (w.laneOf n).state ≠ .held) : resumeLane n w = w := by
  unfold resumeLane
  split <;> simp_all

/-- A NUDGE of a host lane while the engine is RUNNING. -/
theorem exec_nudge_running {n : LaneNo} (host : n ≠ 3) {s : State} (awake : s.awake) (running : s.work.port.engine = .running) :
    exec (.nudge (BitVec.ofNat 5 n.val)) s = .next (s.onWork fun w => settleLanes (nudgeLane n w)) := by
  rw [exec_nudge host awake, State.onWork, postToHostLane_of_running running]
  rfl

/-- A RESUME of a host lane while the engine is RUNNING. -/
theorem exec_resume_running {n : LaneNo} (host : n ≠ 3) {s : State} (awake : s.awake) (running : s.work.port.engine = .running) :
    exec (.resume (BitVec.ofNat 5 n.val)) s = .next (s.onWork fun w => settleLanes (resumeLane n w)) := by
  rw [exec_resume host awake, State.onWork, postToHostLane_of_running running]
  rfl

section

variable {n : LaneNo} {w : Work} {low high : Word}

/-- The head address of an IDLE lane is read, cleared and followed while every access completes (R58). -/
theorem nudgeIdle_quiet (host : n ≠ 3) (q : w.bus = []) (lowAt : w.mem.readWord (w.laneRecord n 0) = low)
    (highAt : w.mem.readWord (w.laneRecord n 2) = high) :
    nudgeIdle n w =
      (if low = 0 then w
        else if (address20 low high).toNat % 2 = 0 then fetchBlock n (address20 low high) (w.headCleared n)
        else (w.headCleared n).faulted n .badLink (address20 low high)) := by
  unfold nudgeIdle
  rw [readStationList_completes _ _ _ _ q]
  dsimp only [List.map]
  rw [lowAt, highAt]
  split
  · rfl
  · have cleared : clearHead n w = (true, w.headCleared n) := writeStationList_completes _ _ _ _ q
    rw [cleared]
    dsimp only
    rw [enterFaulted_hostLane n _ _ _ host (by simpa [Work.headCleared] using q)]
    simp only [addressEven, decide_eq_true_eq]

/-- A head address that cannot be read (R58). -/
theorem nudgeIdle_unread (host : n ≠ 3) (q : w.bus = []) {i : Nat} {answer : BusAnswer} {kind : Word}
    (fails : answer.FailsRead kind) (at_ : i < 2) :
    nudgeIdle n (w.withFailure i answer) =
      (w.failureNoted kind 3 (BitVec.ofNat 16 n.val) (w.laneRecord n (2 * i))).faulted n .memory 0 := by
  have read := readStationList_fails .lane (some n) [w.laneRecord n 0, w.laneRecord n 2] i at_ w q fails
  unfold nudgeIdle
  rw [show (w.withFailure i answer).laneRecord n 0 = w.laneRecord n 0 from rfl,
    show (w.withFailure i answer).laneRecord n 2 = w.laneRecord n 2 from rfl, read]
  dsimp only
  rw [enterFaulted_hostLane n _ _ _ host (by simpa using q)]
  obtain rfl | rfl : i = 0 ∨ i = 1 := by omega
  · rfl
  · rfl

/-- The head address has been read before the failing access (R58). -/
theorem nudgeIdle_before (lowAt : w.mem.readWord (w.laneRecord n 0) = low) (highAt : w.mem.readWord (w.laneRecord n 2) = high)
    (some : low ≠ 0) (i : Nat) (answer : BusAnswer) :
    nudgeIdle n (w.withFailure (2 + i) answer) =
      match clearHead n (w.withFailure i answer) with
      | (true, w2) =>
        if addressEven (address20 low high) then fetchBlock n (address20 low high) w2
        else enterFaulted n .badLink (address20 low high) false w2
      | (false, w2) => enterFaulted n .memory (address20 low high) true w2 := by
  have read := readStationList_before .lane (Option.some n) [w.laneRecord n 0, w.laneRecord n 2] i answer w
  simp only [List.length_cons, List.length_nil, Nat.zero_add, Nat.reduceAdd] at read
  unfold nudgeIdle
  rw [show (w.withFailure (2 + i) answer).laneRecord n 0 = w.laneRecord n 0 from rfl,
    show (w.withFailure (2 + i) answer).laneRecord n 2 = w.laneRecord n 2 from rfl, read]
  dsimp only [List.map]
  rw [lowAt, highAt, if_neg some] <;> rfl

/-- A head address that cannot be cleared (R58). -/
theorem nudgeIdle_not_cleared (host : n ≠ 3) (q : w.bus = []) (lowAt : w.mem.readWord (w.laneRecord n 0) = low)
    (highAt : w.mem.readWord (w.laneRecord n 2) = high) (some : low ≠ 0) {j : Nat} (stored : Bool) (at_ : j < 2) :
    nudgeIdle n (w.withFailure (2 + j) (.noAnswer stored)) =
      (w.cutShort j stored 3 (BitVec.ofNat 16 n.val) [(w.laneRecord n 0, 0), (w.laneRecord n 2, 0)]).faulted n .memory
        (address20 low high) := by
  have cut : clearHead n (w.withFailure j (.noAnswer stored)) =
      (false, w.cutShort j stored 3 (BitVec.ofNat 16 n.val) [(w.laneRecord n 0, 0), (w.laneRecord n 2, 0)]) :=
    writeStationList_fails .lane (Option.some n) [(w.laneRecord n 0, 0), (w.laneRecord n 2, 0)] j at_ stored w q
  rw [nudgeIdle_before lowAt highAt some, cut]
  dsimp only
  exact enterFaulted_hostLane n _ _ _ host (by simpa using q)

/-- The header of the block that the head address names cannot be read (R75). -/
theorem nudgeIdle_no_header (host : n ≠ 3) (q : w.bus = []) (lowAt : w.mem.readWord (w.laneRecord n 0) = low)
    (highAt : w.mem.readWord (w.laneRecord n 2) = high) (some : low ≠ 0) (even : (address20 low high).toNat % 2 = 0) {i : Nat}
    {answer : BusAnswer} {kind : Word} (fails : answer.FailsRead kind) (at_ : i < 2) :
    nudgeIdle n (w.withFailure (4 + i) answer) =
      ((w.headCleared n).failureNoted kind 3 (BitVec.ofNat 16 n.val) (address20 low high + BitVec.ofNat 20 (2 + 2 * i))).faulted
        n .memory (address20 low high) := by
  have cleared := writeStationList_before .lane (Option.some n) [(w.laneRecord n 0, 0), (w.laneRecord n 2, 0)] i answer w
  simp only [List.length_cons, List.length_nil, Nat.zero_add, Nat.reduceAdd] at cleared
  have before : clearHead n (w.withFailure (2 + i) answer) = (true, (w.headCleared n).withFailure i answer) := cleared
  rw [show 4 + i = 2 + (2 + i) by omega, nudgeIdle_before lowAt highAt some, before]
  dsimp only
  rw [if_pos (by simpa [addressEven] using even)]
  exact fetchBlock_header_fails n _ i fails (by simpa [Work.headCleared] using q) host at_

end

/-- Which block a write error on a lane record names (R50). -/
theorem LaneState.holdsBlock_iff (st : LaneState) :
    st.holdsBlock = true ↔ st = .ready ∨ st = .active ∨ st = .waiting ∨ st = .draining := by cases st <;> decide

theorem writeLaneRecord_cut {n : LaneNo} (host : n ≠ 3) {w : Work} (q : w.bus = []) (retired : Addr) {j : Nat} (at_ : j < 5)
    (stored : Bool) :
    writeLaneRecord n retired (w.withFailure j (.noAnswer stored)) =
      (w.cutShort j stored 3 (BitVec.ofNat 16 n.val) (w.laneRecordWords n)).faulted n .memory
        (if (w.laneOf n).state = .ready ∨ (w.laneOf n).state = .active ∨ (w.laneOf n).state = .waiting ∨
          (w.laneOf n).state = .draining then (w.laneOf n).current else retired) := by
  rw [writeLaneRecord_fails n retired j stored at_ q, enterFaulted_hostLane n _ _ _ host (by simpa using q)]
  simp only [LaneState.holdsBlock_iff]

/-- Settles O12: the read, the clearing and the fetch of a head address, with each access that can fail, and the reports of lanes
that become FAULTED. -/
theorem nudgeOfAnIdleLaneFetchesTheHead : Obligations.NudgeOfAnIdleLaneFetchesTheHead := by
  refine ⟨fun n s low high host awake quiet running idle other lowAt highAt => ?_, fun _ _ _ _ => rfl,
    fun n s low high host awake quiet running idle other lowAt highAt => ?_, fun n w retired j stored host quiet at_ =>
      writeLaneRecord_cut host quiet retired at_ stored, fun n w reason current host quiet => ⟨fun b => ?_, ?_, ?_⟩,
    fun n w reason current b => ⟨enterFaulted_state n reason current b w, setCause_hasCause _ _⟩⟩
  · have nudged : exec (.nudge (BitVec.ofNat 5 n.val)) s = .next (s.onWork fun _ => settleLanes (nudgeIdle n s.work)) := by
      rw [exec_nudge_running host awake running, State.onWork, nudgeLane_of_idle idle]
      rfl
    rw [nudged, nudgeIdle_quiet host quiet lowAt highAt]
    have clearedBus : (s.work.headCleared n).bus = [] := (storeWords_bus _ _).trans quiet
    have clearedActive : (s.work.headCleared n).activeLane ≠ some n := by
      unfold Work.activeLane Work.headCleared
      rw [storeWords_lanes]
      exact other
    refine ⟨fun none => ?_, fun some even => ?_, fun some odd => ?_⟩
    · rw [if_pos none]
      rfl
    · rw [if_neg some, if_pos even, fetchBlock_of_other _ clearedBus clearedActive]
      rfl
    · rw [if_neg some, if_neg (by omega)]
      rfl
  · have nudged (i : Nat) (answer : BusAnswer) : exec (.nudge (BitVec.ofNat 5 n.val)) (s.onWork (Work.withFailure i answer)) =
        .next (s.onWork fun _ => settleLanes (nudgeIdle n (s.work.withFailure i answer))) := by
      rw [exec_nudge_running host (by exact awake) (by exact running), State.onWork, nudgeLane_of_idle (by exact idle)]
      rfl
    refine ⟨fun i answer kind at_ fails => ?_, fun j stored at_ some => ?_, fun i answer kind at_ fails some even => ?_⟩
    · exact (nudged _ _).trans (by rw [nudgeIdle_unread host quiet fails at_])
    · exact (nudged _ _).trans (by rw [nudgeIdle_not_cleared host quiet lowAt highAt some stored at_])
    · exact (nudged _ _).trans (by rw [nudgeIdle_no_header host quiet lowAt highAt some even fails at_]; rfl)
  · exact enterFaulted_hostLane n reason current b host quiet
  · exact fun answer kind b fails => enterFaulted_unread host reason current b quiet fails rfl
  · exact fun j stored at_ => enterFaulted_cut host reason current quiet j stored at_ rfl

/-! ## NUDGE in PARKED and RESUME in HELD -/

/-- Settles O13: the link of the current block decides both, with each access that can fail. -/
theorem linkDecidesNudgeAndResume : Obligations.LinkDecidesNudgeAndResume := by
  intro n s low high host awake quiet running lowAt highAt
  refine ⟨fun held other => ?_, fun parked other => ?_, fun c i answer kind which => ?_, fun notHeld => ?_, fun notIdle notParked => ?_⟩
  · rw [exec_resume_running host awake running, State.onWork, resumeLane_of_held held, followLink_quiet host _ _ quiet, lowAt, highAt]
    refine ⟨fun none => ?_, fun some even => ?_, fun some odd => ?_⟩
    · rw [if_pos none, writeLaneRecord_quiet n 0 (leaveBlock_bus n _ _ quiet), leaveBlock_eq, release_of_other (by exact other)]
      rfl
    · rw [if_neg some, if_pos even, fetchBlock_of_other _ quiet other]
      rfl
    · rw [if_neg some, if_neg (by omega)]
      rfl
  · rw [exec_nudge_running host awake running, State.onWork, nudgeLane_of_parked parked, followLink_quiet host _ _ quiet, lowAt, highAt]
    refine ⟨fun none => ?_, fun some even => ?_, fun some odd => ?_⟩
    · rw [if_pos none]
      rfl
    · rw [if_neg some, if_pos even, fetchBlock_of_other _ quiet other]
      rfl
    · rw [if_neg some, if_neg (by omega)]
      rfl
  · have followed (i : Nat) (answer : BusAnswer) : ∃ f, exec c (s.onWork (Work.withFailure i answer)) =
        .next (s.onWork fun w => settleLanes (followLink n (w.laneOf n).current f (w.withFailure i answer))) := by
      obtain ⟨rfl, held⟩ | ⟨rfl, parked⟩ := which
      · refine ⟨fun w1 => writeLaneRecord n 0 (w1.leaveBlock n .parked (s.work.laneOf n).current), ?_⟩
        rw [exec_resume_running host (by exact awake) (by exact running), State.onWork, resumeLane_of_held (by exact held)]
        rfl
      · refine ⟨id, ?_⟩
        rw [exec_nudge_running host (by exact awake) (by exact running), State.onWork, nudgeLane_of_parked (by exact parked)]
        rfl
    refine ⟨fun at_ fails => ?_, fun at_ some even fails => ?_⟩
    · obtain ⟨f, e⟩ := followed i answer
      rw [e, State.onWork, followLink_unread host _ _ quiet fails (by rw [lowAt]; exact at_)]
      rfl
    · obtain ⟨f, e⟩ := followed (2 + i) answer
      rw [e, State.onWork, followLink_block_before _ _ _ _ (by rw [lowAt]; exact some) rfl (by rw [lowAt, highAt]; exact even),
        fetchBlock_header_fails n _ i fails quiet host at_, lowAt, highAt]
      rfl
  · rw [exec_resume_running host awake running, State.onWork, resumeLane_of_other notHeld]
    rfl
  · rw [exec_nudge_running host awake running, State.onWork, nudgeLane_of_other notIdle notParked]
    rfl

end Sys2Proof.Machine

/-! The retire of a block: where a host lane goes after its result, and what lane 3 does with its slot; while every access completes,
and where one fails. -/

namespace Sys2Proof.Machine

theorem setCause_setCause (c : Cause) (w : Work) : setCause c (setCause c w) = setCause c w := by
  unfold setCause
  dsimp only
  rw [BitVec.or_assoc, BitVec.or_self]

theorem faulted_setCause (n : LaneNo) (r : LaneFaultReason) (a : Addr) (w : Work) :
    setCause .laneFault (w.faulted n r a) = w.faulted n r a := setCause_setCause .laneFault _

theorem faulted_state (n : LaneNo) (r : LaneFaultReason) (a : Addr) (w : Work) : ((w.faulted n r a).laneOf n).state = .faulted := by
  have only : Work.BusOnly (w.laneLost n a) (w.faulted n r a) := (storeWords_busOnly _ _).trans (setCause_busOnly .laneFault _)
  rw [only.laneOf, laneLost_laneOf]
  rfl

theorem recorded_laneOf (n m : LaneNo) (w : Work) : (w.recorded n).laneOf m = w.laneOf m :=
  (storeWords_busOnly _ w).laneOf m

theorem faultCause_of_error {o : BlockOutcome} (h : o.isError = true) (w : Work) : faultCause o w = setCause .laneFault w := if_pos h

theorem faultCause_of_not_error {o : BlockOutcome} (h : o.isError = false) (w : Work) : faultCause o w = w :=
  if_neg (by rw [h]; nofun)

theorem faultCause_faulted (o : BlockOutcome) (n : LaneNo) (r : LaneFaultReason) (a : Addr) (w : Work) :
    faultCause o (w.faulted n r a) = w.faulted n r a := by
  unfold faultCause
  split
  · exact faulted_setCause n r a w
  · rfl

/-! ## Where a host lane goes -/

section

variable {n : LaneNo} {w : Work}

theorem release_quiet (q : w.bus = []) : (w.release n).bus = [] := (release_bus n).trans q

theorem leaveBlock_release (st : LaneState) (a : Addr) : w.leaveBlock n st a = (w.release n).modLane n (Lane.without st a) := by
  rw [leaveBlock_eq, release_modLane]

/-- A lane that leaves its block, with its record written (R49, R63). -/
theorem leaveBlock_recorded (q : w.bus = []) (st : LaneState) (a retired : Addr) :
    writeLaneRecord n retired (w.leaveBlock n st a) = ((w.release n).modLane n (Lane.without st a)).recorded n := by
  rw [writeLaneRecord_quiet n retired (leaveBlock_bus n st a q), leaveBlock_release]

/-- A lane that leaves its block, with a failed write of its record (R77). -/
theorem leaveBlock_cut (host : n ≠ 3) (q : w.bus = []) {st : LaneState} (without : st.holdsBlock = false) (a retired : Addr) {j : Nat}
    (at_ : j < 5) (stored : Bool) {v : Work} (e : v = (w.release n).modLane n (Lane.without st a)) :
    writeLaneRecord n retired ((w.withFailure j (.noAnswer stored)).leaveBlock n st a) =
      (v.cutShort j stored 3 (BitVec.ofNat 16 n.val) (v.laneRecordWords n)).faulted n .memory retired := by
  have left : w.leaveBlock n st a = v := by rw [leaveBlock_release, e]
  have quiet : v.bus = [] := by rw [← left]; exact leaveBlock_bus n st a q
  have state : (v.laneOf n).state.holdsBlock = false := by
    rw [e, Work.laneOf_modLane_same]
    exact without
  rw [leaveBlock_withFailure, left, writeLaneRecord_fails n retired j stored at_ quiet, state,
    enterFaulted_hostLane n _ _ _ host (by simpa using quiet)]
  rfl

/-- After CANCELLED, or an error with a cancel requested, a host lane is IDLE (R61, R63). -/
theorem afterHostResult_idle {o : BlockOutcome} {cancel : Bool} (h : o = .cancelled ∨ cancel = true) (a : Addr) (stop : Bool)
    (w : Work) : afterHostResult n a o stop cancel w = faultCause o (writeLaneRecord n a (w.leaveBlock n .idle 0)) := if_pos h

/-- After an error, or DONE with STOP, a host lane is HELD (R61). -/
theorem afterHostResult_held {o : BlockOutcome} {stop : Bool} (h : o ≠ .cancelled) (k : o.isError = true ∨ stop = true) (a : Addr)
    (w : Work) : afterHostResult n a o stop false w =
      faultCause o (if ((writeLaneRecord n a (w.leaveBlock n .held a)).laneOf n).state = .held then
        setCause .laneHeld (writeLaneRecord n a (w.leaveBlock n .held a)) else writeLaneRecord n a (w.leaveBlock n .held a)) := by
  unfold afterHostResult
  rw [if_neg (by simp [h]), if_pos k]

/-- After another DONE a host lane goes on by the link (R61). -/
theorem afterHostResult_link (a : Addr) (w : Work) : afterHostResult n a .done false false w =
    followLink n a (fun w1 => writeLaneRecord n a (w1.leaveBlock n .parked a)) w := by
  unfold afterHostResult
  rw [if_neg (by simp), if_neg (by simp [BlockOutcome.isError])]

theorem held_recorded (q : w.bus = []) (a : Addr) :
    (if ((writeLaneRecord n a (w.leaveBlock n .held a)).laneOf n).state = .held then
        setCause .laneHeld (writeLaneRecord n a (w.leaveBlock n .held a)) else writeLaneRecord n a (w.leaveBlock n .held a)) =
      setCause .laneHeld (((w.release n).modLane n (Lane.without .held a)).recorded n) := by
  have state : ((((w.release n).modLane n (Lane.without .held a)).recorded n).laneOf n).state = .held := by
    rw [recorded_laneOf, Work.laneOf_modLane_same]
    rfl
  rw [leaveBlock_recorded q, if_pos state]

theorem held_cut (host : n ≠ 3) (q : w.bus = []) (a : Addr) {j : Nat} (at_ : j < 5) (stored : Bool) {v : Work}
    (e : v = (w.release n).modLane n (Lane.without .held a)) :
    (if ((writeLaneRecord n a ((w.withFailure j (.noAnswer stored)).leaveBlock n .held a)).laneOf n).state = .held then
        setCause .laneHeld (writeLaneRecord n a ((w.withFailure j (.noAnswer stored)).leaveBlock n .held a))
      else writeLaneRecord n a ((w.withFailure j (.noAnswer stored)).leaveBlock n .held a)) =
      (v.cutShort j stored 3 (BitVec.ofNat 16 n.val) (v.laneRecordWords n)).faulted n .memory a := by
  rw [leaveBlock_cut host q rfl a a at_ stored e, faulted_state, if_neg (by decide)]

/-! ## The result of a host lane's block -/

theorem resultWords_of_host (host : n ≠ 3) (o : BlockOutcome) : w.resultWords n o = w.blockResultWords n o := by
  unfold Work.resultWords
  rw [if_neg host, if_neg host]
  rfl

theorem blockResult_bus (o : BlockOutcome) (q : w.bus = []) : (w.blockResult n o).bus = [] :=
  (storeWords_bus _ w).trans q

theorem blockResult_activeLane (o : BlockOutcome) : (w.blockResult n o).activeLane = w.activeLane := by
  unfold Work.activeLane
  rw [show (w.blockResult n o).lanes.activeValid = (storeWords (w.blockResultWords n o) w).lanes.activeValid from rfl,
    show (w.blockResult n o).lanes.activeNo = (storeWords (w.blockResultWords n o) w).lanes.activeNo from rfl, storeWords_lanes]

theorem blockResult_release (o : BlockOutcome) : (w.blockResult n o).release n =
    if w.activeLane = some n then { w.blockResult n o with lanes := { (w.blockResult n o).lanes with activeValid := false } }
      else w.blockResult n o := by
  unfold Work.release
  rw [blockResult_activeLane]

theorem retire_of_host (host : n ≠ 3) (o : BlockOutcome) (w : Work) : retire n o w = retireBlock n o w := if_neg host

/-- The retire of a host lane's block while every access completes (R60, R61). -/
theorem retireBlock_quiet (host : n ≠ 3) (q : w.bus = []) (o : BlockOutcome) :
    retireBlock n o w = (afterHostResult n (w.laneOf n).current o (w.laneOf n).progress.stop (w.laneOf n).cancelRequested
      (w.blockResult n o)).signalled (w.laneOf n).progress.signal := by
  have written : writeStationList .lane (some n) (w.resultWords n o) w = (true, storeWords (w.blockResultWords n o) w) := by
    rw [resultWords_of_host host, writeStationList_completes _ _ _ _ q]
  unfold retireBlock
  rw [written]
  rfl

/-- A result word that cannot be written (R77). -/
theorem retireBlock_unwritten (host : n ≠ 3) (q : w.bus = []) (o : BlockOutcome) {j : Nat} (at_ : j < 3) (stored : Bool) :
    retireBlock n o (w.withFailure j (.noAnswer stored)) =
      (((w.cutShort j stored 3 (BitVec.ofNat 16 n.val) (w.blockResultWords n o)).retireCounted n o).faulted n .memory
        (w.laneOf n).current).signalled (w.laneOf n).progress.signal := by
  have cut : writeStationList .lane (some n) ((w.withFailure j (.noAnswer stored)).resultWords n o)
      (w.withFailure j (.noAnswer stored)) = (false, w.cutShort j stored 3 (BitVec.ofNat 16 n.val) (w.blockResultWords n o)) := by
    rw [resultWords_of_host host]
    exact writeStationList_fails .lane (some n) (w.blockResultWords n o) j at_ stored w q
  have quiet : ((w.cutShort j stored 3 (BitVec.ofNat 16 n.val) (w.blockResultWords n o)).retireCounted n o).bus = [] :=
    (cutShort_bus _ _ _ _ _ w).trans q
  have lost := enterFaulted_hostLane n .memory (w.laneOf n).current true host quiet
  unfold retireBlock
  rw [cut]
  exact congrArg (fun x => Work.signalled (w.laneOf n).progress.signal x) lost

/-- The result is written before the failing access (R60). -/
theorem retireBlock_before (host : n ≠ 3) (o : BlockOutcome) (i : Nat) (answer : BusAnswer) :
    retireBlock n o (w.withFailure (3 + i) answer) =
      (afterHostResult n (w.laneOf n).current o (w.laneOf n).progress.stop (w.laneOf n).cancelRequested
        ((w.blockResult n o).withFailure i answer)).signalled (w.laneOf n).progress.signal := by
  have written : writeStationList .lane (some n) ((w.withFailure (3 + i) answer).resultWords n o) (w.withFailure (3 + i) answer) =
      (true, (storeWords (w.blockResultWords n o) w).withFailure i answer) := by
    rw [resultWords_of_host host]
    exact writeStationList_before .lane (some n) (w.blockResultWords n o) i answer w
  unfold retireBlock
  rw [written]
  rfl

end

end Sys2Proof.Machine

/-! The retire of a host lane's block by its outcome. -/

namespace Sys2Proof.Machine

section

variable {n : LaneNo} {o : BlockOutcome} {w r : Work}

theorem release_mem (n : LaneNo) (w : Work) : (w.release n).mem = w.mem := by
  unfold Work.release
  split <;> rfl

/-! ## While every access completes -/

theorem retire_cancelled (host : n ≠ 3) (q : w.bus = []) (e : r = (w.blockResult n .cancelled).release n) :
    retire n .cancelled w = ((r.modLane n (Lane.without .idle 0)).recorded n).signalled (w.laneOf n).progress.signal := by
  rw [retire_of_host host, retireBlock_quiet host q, afterHostResult_idle (.inl rfl), leaveBlock_recorded (blockResult_bus _ q),
    faultCause_of_not_error rfl, ← e]

theorem retire_error_cancelled (host : n ≠ 3) (q : w.bus = []) (e : r = (w.blockResult n o).release n) (error : o.isError = true)
    (cancel : (w.laneOf n).cancelRequested = true) :
    retire n o w = (setCause .laneFault ((r.modLane n (Lane.without .idle 0)).recorded n)).signalled
      (w.laneOf n).progress.signal := by
  rw [retire_of_host host, retireBlock_quiet host q, afterHostResult_idle (.inr cancel), leaveBlock_recorded (blockResult_bus _ q),
    faultCause_of_error error, ← e]

theorem not_cancelled_of_error {o : BlockOutcome} (h : o.isError = true) : o ≠ .cancelled := by
  rintro rfl
  cases h

theorem retire_error_held (host : n ≠ 3) (q : w.bus = []) (e : r = (w.blockResult n o).release n) (error : o.isError = true)
    (cancel : (w.laneOf n).cancelRequested = false) :
    retire n o w = (setCause .laneFault (setCause .laneHeld ((r.modLane n
      (Lane.without .held (w.laneOf n).current)).recorded n))).signalled (w.laneOf n).progress.signal := by
  rw [retire_of_host host, retireBlock_quiet host q, cancel, afterHostResult_held (not_cancelled_of_error error) (.inl error),
    held_recorded (blockResult_bus _ q), faultCause_of_error error, ← e]

theorem retire_done_held (host : n ≠ 3) (q : w.bus = []) (e : r = (w.blockResult n .done).release n)
    (cancel : (w.laneOf n).cancelRequested = false) (stop : (w.laneOf n).progress.stop = true) :
    retire n .done w = (setCause .laneHeld ((r.modLane n (Lane.without .held (w.laneOf n).current)).recorded n)).signalled
      (w.laneOf n).progress.signal := by
  rw [retire_of_host host, retireBlock_quiet host q, cancel, afterHostResult_held (by decide) (.inr stop),
    held_recorded (blockResult_bus _ q), faultCause_of_not_error rfl, ← e]

theorem retire_done_link (host : n ≠ 3) (q : w.bus = []) (e : r = (w.blockResult n .done).release n)
    (cancel : (w.laneOf n).cancelRequested = false) (stop : (w.laneOf n).progress.stop = false) {a : Addr}
    (link : a = address20 (r.mem.readWord (w.laneOf n).current) (r.mem.readWord ((w.laneOf n).current + 2))) :
    retire n .done w = Work.signalled (w.laneOf n).progress.signal
      (if r.mem.readWord (w.laneOf n).current = 0 then
        (r.modLane n (Lane.without .parked (w.laneOf n).current)).recorded n
      else if a.toNat % 2 = 0 then
        (r.modLane n (Lane.fetched a (r.mem.readWord (a + 2)) (r.mem.readWord (a + 4)))).recorded n
      else r.faulted n .badLink (w.laneOf n).current) := by
  have bus : (w.blockResult n .done).bus = [] := blockResult_bus _ q
  have mem : r.mem = (w.blockResult n .done).mem := by rw [e, release_mem]
  rw [retire_of_host host, retireBlock_quiet host q, cancel, stop, afterHostResult_link, followLink_quiet host _ _ bus, ← mem, ← link]
  rw [leaveBlock_recorded bus, fetchBlock_quiet n a bus, ← release_modLane, ← mem, ← e]
  rw [show (w.blockResult n .done).faulted n .badLink (w.laneOf n).current = r.faulted n .badLink (w.laneOf n).current by
    rw [e, faulted_release]]
  rfl

/-! ## Where one access fails -/

/-- A failed access `i` of the retire makes the lane FAULTED with MEMORY, with this current block (R77). -/
def Work.RetireLost (n : LaneNo) (o : BlockOutcome) (w : Work) (i : Nat) (answer : BusAnswer) (block : Addr) (cut : Work) : Prop :=
  retire n o (w.withFailure i answer) = (cut.faulted n .memory block).signalled (w.laneOf n).progress.signal

theorem retire_unwritten (host : n ≠ 3) (q : w.bus = []) {j : Nat} (at_ : j < 3) (stored : Bool) :
    w.RetireLost n o j (.noAnswer stored) (w.laneOf n).current
      ((w.cutShort j stored 3 (BitVec.ofNat 16 n.val) (w.blockResultWords n o)).retireCounted n o) := by
  unfold Work.RetireLost
  rw [retire_of_host host, retireBlock_unwritten host q o at_ stored]

theorem retire_idle_cut (host : n ≠ 3) (q : w.bus = []) (e : r = (w.blockResult n o).release n)
    (h : o = .cancelled ∨ (w.laneOf n).cancelRequested = true) {j : Nat} (at_ : j < 5) (stored : Bool) {v : Work}
    (ev : v = r.modLane n (Lane.without .idle 0)) :
    w.RetireLost n o (3 + j) (.noAnswer stored) (w.laneOf n).current
      (v.cutShort j stored 3 (BitVec.ofNat 16 n.val) (v.laneRecordWords n)) := by
  unfold Work.RetireLost
  rw [retire_of_host host, retireBlock_before host, afterHostResult_idle h,
    leaveBlock_cut host (blockResult_bus _ q) rfl 0 _ at_ stored (v := v) (by rw [ev, e]), faultCause_faulted]

theorem retire_held_cut (host : n ≠ 3) (q : w.bus = []) (e : r = (w.blockResult n o).release n) (not : o ≠ .cancelled)
    (h : o.isError = true ∨ (w.laneOf n).progress.stop = true) (cancel : (w.laneOf n).cancelRequested = false) {j : Nat}
    (at_ : j < 5) (stored : Bool) {v : Work} (ev : v = r.modLane n (Lane.without .held (w.laneOf n).current)) :
    w.RetireLost n o (3 + j) (.noAnswer stored) (w.laneOf n).current
      (v.cutShort j stored 3 (BitVec.ofNat 16 n.val) (v.laneRecordWords n)) := by
  unfold Work.RetireLost
  rw [retire_of_host host, retireBlock_before host, cancel, afterHostResult_held not h,
    held_cut host (blockResult_bus _ q) _ at_ stored (v := v) (by rw [ev, e]), faultCause_faulted]

/-- A DONE that goes on by the link, its result written before the failing access. -/
theorem retire_link_before (host : n ≠ 3) (cancel : (w.laneOf n).cancelRequested = false)
    (stop : (w.laneOf n).progress.stop = false) (i : Nat) (answer : BusAnswer) :
    retire n .done (w.withFailure (3 + i) answer) = Work.signalled (w.laneOf n).progress.signal
      (followLink n (w.laneOf n).current
        (fun w1 => writeLaneRecord n (w.laneOf n).current (w1.leaveBlock n .parked (w.laneOf n).current))
        ((w.blockResult n .done).withFailure i answer)) := by
  rw [retire_of_host host, retireBlock_before host, cancel, stop, afterHostResult_link]

/-- A DONE that goes on to the block of its link, both words of which are read before the failing access. -/
theorem retire_block_before (host : n ≠ 3) (e : r = (w.blockResult n .done).release n)
    (cancel : (w.laneOf n).cancelRequested = false) (stop : (w.laneOf n).progress.stop = false)
    (some : r.mem.readWord (w.laneOf n).current ≠ 0) {a : Addr}
    (link : a = address20 (r.mem.readWord (w.laneOf n).current) (r.mem.readWord ((w.laneOf n).current + 2)))
    (even : a.toNat % 2 = 0) (i : Nat) (answer : BusAnswer) :
    retire n .done (w.withFailure (5 + i) answer) = Work.signalled (w.laneOf n).progress.signal
      (fetchBlock n a ((w.blockResult n .done).withFailure i answer)) := by
  rw [e, release_mem] at some link
  rw [show 5 + i = 3 + (2 + i) by omega, retire_link_before host cancel stop, followLink_block_before _ _ _ _ some link even]

section

variable (host : n ≠ 3) (q : w.bus = []) (e : r = (w.blockResult n .done).release n)
  (cancel : (w.laneOf n).cancelRequested = false) (stop : (w.laneOf n).progress.stop = false)

include host q e cancel stop

theorem retire_link_unread {i : Nat} {answer : BusAnswer} {kind : Word} (fails : answer.FailsRead kind)
    (at_ : i = 0 ∨ (i = 1 ∧ r.mem.readWord (w.laneOf n).current ≠ 0)) :
    w.RetireLost n .done (3 + i) answer (w.laneOf n).current
      (r.failureNoted kind 3 (BitVec.ofNat 16 n.val) ((w.laneOf n).current + BitVec.ofNat 20 (2 * i))) := by
  unfold Work.RetireLost
  rw [e, release_mem] at at_
  rw [retire_link_before host cancel stop, followLink_unread host _ _ (blockResult_bus _ q) fails at_, e, release_failureNoted,
    faulted_release]

theorem retire_parked_cut (none : r.mem.readWord (w.laneOf n).current = 0) {j : Nat} (at_ : j < 5) (stored : Bool) {v : Work}
    (ev : v = r.modLane n (Lane.without .parked (w.laneOf n).current)) :
    w.RetireLost n .done (4 + j) (.noAnswer stored) (w.laneOf n).current
      (v.cutShort j stored 3 (BitVec.ofNat 16 n.val) (v.laneRecordWords n)) := by
  unfold Work.RetireLost
  rw [e, release_mem] at none
  rw [show 4 + j = 3 + (1 + j) by omega, retire_link_before host cancel stop, followLink_none_before _ _ _ _ none,
    leaveBlock_cut host (blockResult_bus _ q) rfl _ _ at_ stored (v := v) (by rw [ev, e])]

variable (some : r.mem.readWord (w.laneOf n).current ≠ 0) {a : Addr}
  (link : a = address20 (r.mem.readWord (w.laneOf n).current) (r.mem.readWord ((w.laneOf n).current + 2)))
  (even : a.toNat % 2 = 0)

include some link even

theorem retire_header_unread {i : Nat} {answer : BusAnswer} {kind : Word} (fails : answer.FailsRead kind) (at_ : i < 2) :
    w.RetireLost n .done (5 + i) answer a
      (r.failureNoted kind 3 (BitVec.ofNat 16 n.val) (a + BitVec.ofNat 20 (2 + 2 * i))) := by
  unfold Work.RetireLost
  rw [retire_block_before host e cancel stop some link even, fetchBlock_header_fails n a i fails (blockResult_bus _ q) host at_, e,
    release_failureNoted, faulted_release]

theorem retire_fetched_cut {j : Nat} (at_ : j < 5) (stored : Bool) {v : Work}
    (ev : v = r.modLane n (Lane.fetched a (r.mem.readWord (a + 2)) (r.mem.readWord (a + 4)))) :
    w.RetireLost n .done (7 + j) (.noAnswer stored) a
      (v.cutShort j stored 3 (BitVec.ofNat 16 n.val) (v.laneRecordWords n)) := by
  unfold Work.RetireLost
  rw [show 7 + j = 5 + (2 + j) by omega, retire_block_before host e cancel stop some link even,
    fetchBlock_record_fails n a j stored (blockResult_bus _ q) host at_ v (by rw [ev, e, release_modLane, release_mem])]

end

end

/-- Settles O20: the outcomes of a host lane's retire, each with its record or its link, and every access that can fail. -/
theorem retireOfAHostLaneGoesOnByOutcome : Obligations.RetireOfAHostLaneGoesOnByOutcome := by
  intro n o w host quiet
  have e := blockResult_release (n := n) (w := w) o
  have bus : w.bus = [] := quiet
  dsimp only
  rw [← e]
  refine ⟨?_, fun error cancel => retire_error_cancelled host bus rfl error cancel,
    fun error cancel => retire_error_held host bus rfl error cancel, ?_, ?_, fun j stored at_ => retire_unwritten host bus at_ stored,
    fun h j stored at_ => ?_, fun h cancel j stored at_ => ?_, ?_⟩
  · rintro rfl
    exact retire_cancelled host bus rfl
  · rintro rfl cancel stop
    exact retire_done_held host bus rfl cancel stop
  · rintro rfl cancel stop
    have goes := retire_done_link host bus rfl cancel stop rfl
    refine ⟨fun none => ?_, fun some even => ?_, fun some odd => ?_⟩
    · rw [goes, if_pos none]
    · rw [goes, if_neg some, if_pos even]
    · rw [goes, if_neg some, if_neg (by omega)]
  · exact retire_idle_cut host bus rfl (h.imp id fun both => both.2) at_ stored rfl
  · refine retire_held_cut host bus rfl ?_ (h.imp id fun both => both.2) cancel at_ stored rfl
    rintro rfl
    exact h.elim nofun fun both => nomatch both.1
  · rintro rfl cancel stop
    exact ⟨fun i answer kind fails at_ => retire_link_unread host bus rfl cancel stop fails at_,
      fun none j stored at_ => retire_parked_cut host bus rfl cancel stop none at_ stored rfl,
      fun some even => ⟨fun i answer kind fails at_ => retire_header_unread host bus rfl cancel stop some rfl even fails at_,
        fun j stored at_ => retire_fetched_cut host bus rfl cancel stop some rfl even at_ stored rfl⟩⟩

end Sys2Proof.Machine

/-! The retire of lane 3's slot, and a lane record of lane 3 that is not written whole. -/

namespace Sys2Proof.Machine

section

variable {w : Work} {p : PendingSlot} {rest : List PendingSlot}

/-! ## The slot that lane 3 gives up -/

@[simp] theorem slotGivenUp_lanes (k : SlotNo) (w : Work) : (w.slotGivenUp k).lanes = w.lanes := rfl

@[simp] theorem slotGivenUp_bus (k : SlotNo) (w : Work) : (w.slotGivenUp k).bus = w.bus := rfl

@[simp] theorem slotGivenUp_spool (k : SlotNo) (w : Work) : (w.slotGivenUp k).line.spool = w.line.spool := rfl

@[simp] theorem slotGivenUp_pendingSlots (k : SlotNo) (w : Work) :
    (w.slotGivenUp k).line.pendingSlots = w.line.pendingSlots.tail := rfl

theorem activeLane_congr {w v : Work} (h : v.lanes = w.lanes) : v.activeLane = w.activeLane := by
  unfold Work.activeLane
  rw [h]

theorem heldSlot_of_holding (holds : (w.laneOf 3).state.holdsBlock = true) (pending : w.line.pendingSlots = p :: rest) :
    w.heldSlot = some p := by
  unfold Work.heldSlot
  rw [if_pos holds, pending]
  rfl

theorem heldSlot_of_not_holding (h : (w.laneOf 3).state.holdsBlock = false) : w.heldSlot = none :=
  if_neg (by rw [h]; nofun)

theorem freeHeldSlot_quiet (q : w.bus = []) (held : w.heldSlot = some p) : freeHeldSlot w = w.slotGivenUp p.slot := by
  unfold freeHeldSlot
  rw [held]
  exact changeSlot_quiet _ _ q

/-- Lane 3 enters FAULTED and gives up the slot it holds (R80). -/
theorem enterFaulted_slot (q : w.bus = []) (held : w.heldSlot = some p) (r : LaneFaultReason) (a : Addr) (b : Bool) :
    enterFaulted 3 r a b w = (w.slotGivenUp p.slot).faulted 3 r a := by
  rw [enterFaulted_quiet 3 r a b q, if_pos rfl, freeHeldSlot_quiet q held]

theorem enterFaulted_no_slot (q : w.bus = []) (none : w.heldSlot = none) (r : LaneFaultReason) (a : Addr) (b : Bool) :
    enterFaulted 3 r a b w = w.faulted 3 r a := by
  rw [enterFaulted_quiet 3 r a b q, if_pos rfl, freeHeldSlot_of_none none]

/-- A write error on lane 3's record while it holds a slot (R77, R80). -/
theorem writeLaneRecord_slot_cut (q : w.bus = []) (holds : (w.laneOf 3).state.holdsBlock = true)
    (pending : w.line.pendingSlots = p :: rest) {j : Nat} (at_ : j < 5) (stored : Bool) (retired : Addr) :
    writeLaneRecord 3 retired (w.withFailure j (.noAnswer stored)) =
      ((w.cutShort j stored 3 3 (w.laneRecordWords 3)).slotGivenUp p.slot).faulted 3 .memory (w.laneOf 3).current := by
  have only : Work.BusOnly w (w.cutShort j stored 3 3 (w.laneRecordWords 3)) := cutShort_busOnly _ _ _ _ _ _
  rw [writeLaneRecord_fails 3 retired j stored at_ q, holds]
  exact enterFaulted_slot (by simpa using q) (only.heldSlot.trans (heldSlot_of_holding holds pending)) _ _ _

/-- A write error on lane 3's record while it holds none (R77). -/
theorem writeLaneRecord_no_slot_cut (q : w.bus = []) (free : (w.laneOf 3).state.holdsBlock = false) {j : Nat} (at_ : j < 5)
    (stored : Bool) (retired : Addr) :
    writeLaneRecord 3 retired (w.withFailure j (.noAnswer stored)) =
      (w.cutShort j stored 3 3 (w.laneRecordWords 3)).faulted 3 .memory retired := by
  have only : Work.BusOnly w (w.cutShort j stored 3 3 (w.laneRecordWords 3)) := cutShort_busOnly _ _ _ _ _ _
  rw [writeLaneRecord_fails 3 retired j stored at_ q, free]
  exact enterFaulted_no_slot (by simpa using q) (only.heldSlot.trans (heldSlot_of_not_holding free)) _ _ _

/-! ## The result of a slot -/

theorem slotResult_line (o : BlockOutcome) (w : Work) : (w.slotResult o).line = w.line :=
  storeWords_line (w.slotResultWords o) w

theorem slotResult_bus (o : BlockOutcome) (q : w.bus = []) : (w.slotResult o).bus = [] := (storeWords_bus _ w).trans q

theorem slotResult_lanes (o : BlockOutcome) (w : Work) : (w.slotResult o).lanes = (w.retireCounted 3 o).lanes := by
  have same := storeWords_lanes (w.slotResultWords o) w
  unfold Work.slotResult Work.retireCounted Work.modLane Work.setLane Work.laneOf
  rw [same]

theorem retireCounted_state (n : LaneNo) (o : BlockOutcome) (w : Work) : ((w.retireCounted n o).laneOf n).state = (w.laneOf n).state := by
  unfold Work.retireCounted
  rw [Work.laneOf_modLane_same]

theorem slotResult_heldSlot (o : BlockOutcome) (holds : (w.laneOf 3).state.holdsBlock = true)
    (pending : w.line.pendingSlots = p :: rest) : (w.slotResult o).heldSlot = some p := by
  refine heldSlot_of_holding ?_ (by rw [slotResult_line]; exact pending)
  have lane : (w.slotResult o).laneOf 3 = (w.retireCounted 3 o).laneOf 3 := by
    unfold Work.laneOf
    rw [slotResult_lanes]
  rw [lane, retireCounted_state]
  exact holds

theorem slotResult_activeLane (o : BlockOutcome) (w : Work) : (w.slotResult o).activeLane = w.activeLane := by
  unfold Work.activeLane
  rw [slotResult_lanes]
  rfl

/-- Lane 3 with what it takes after it has given up its slot (R79, R80). -/
def Work.slotTaken (rest : List PendingSlot) (w : Work) : Work :=
  match rest with
  | [] => w.modLane 3 (Lane.without .idle 0)
  | q :: _ => w.modLane 3 (Lane.tookSlot (w.slotAddress q.slot) q.octets)

theorem takeNextSlot_eq (pending : w.line.pendingSlots = rest) : takeNextSlot w = (w.release 3).slotTaken rest := by
  unfold takeNextSlot Work.slotTaken
  rw [pending]
  cases rest with
  | nil => exact leaveBlock_release .idle 0
  | cons q more =>
    have spool : (w.release 3).slotAddress q.slot = w.slotAddress q.slot := by
      unfold Work.slotAddress
      rw [Work.release_line]
    dsimp only [List.head?_cons]
    rw [spool, release_modLane]

theorem slotTaken_bus (q : w.bus = []) : (w.slotTaken rest).bus = [] := by
  unfold Work.slotTaken
  split <;> exact q

/-- Lane 3 after its slot has retired, before its record is written (R80). -/
def Work.slotAfter (o : BlockOutcome) (p : PendingSlot) (rest : List PendingSlot) (w : Work) : Work :=
  ((((w.slotResult o).slotGivenUp p.slot)).release 3).slotTaken rest

theorem slotAfter_bus (o : BlockOutcome) (q : w.bus = []) : (w.slotAfter o p rest).bus = [] :=
  slotTaken_bus (release_quiet (slotResult_bus o q))

theorem retireSlot_quiet (q : w.bus = []) (holds : (w.laneOf 3).state.holdsBlock = true) (pending : w.line.pendingSlots = p :: rest)
    (o : BlockOutcome) : retireSlot o w = faultCause o ((w.slotAfter o p rest).recorded 3) := by
  have written : writeStationList .lane (some 3) (w.resultWords 3 o) w = (true, storeWords (w.slotResultWords o) w) :=
    writeStationList_completes _ _ _ _ q
  have counted : (storeWords (w.slotResultWords o) w).modLane 3 (Lane.countRetire o) = w.slotResult o := rfl
  have bus := slotResult_bus o q
  have tail : ((w.slotResult o).slotGivenUp p.slot).line.pendingSlots = rest := by
    rw [slotGivenUp_pendingSlots, slotResult_line, pending]
    rfl
  unfold retireSlot
  rw [written]
  dsimp only
  rw [if_pos rfl, counted, freeHeldSlot_quiet bus (slotResult_heldSlot o holds pending), takeNextSlot_eq tail]
  exact congrArg (faultCause o) (writeLaneRecord_quiet 3 _ (slotAfter_bus o q))

/-- A result word of the slot that cannot be written (R77, R80). -/
theorem retireSlot_unwritten (q : w.bus = []) (holds : (w.laneOf 3).state.holdsBlock = true)
    (pending : w.line.pendingSlots = p :: rest) (o : BlockOutcome) {j : Nat} (at_ : j < 3) (stored : Bool) :
    retireSlot o (w.withFailure j (.noAnswer stored)) =
      (((w.cutShort j stored 3 3 (w.slotResultWords o)).retireCounted 3 o).slotGivenUp p.slot).faulted 3 .memory
        (w.laneOf 3).current := by
  have cut : writeStationList .lane (some 3) ((w.withFailure j (.noAnswer stored)).resultWords 3 o)
      (w.withFailure j (.noAnswer stored)) = (false, w.cutShort j stored 3 3 (w.slotResultWords o)) :=
    writeStationList_fails .lane (some 3) (w.slotResultWords o) j at_ stored w q
  have only : Work.BusOnly w (w.cutShort j stored 3 3 (w.slotResultWords o)) := cutShort_busOnly _ _ _ _ _ _
  have held : ((w.cutShort j stored 3 3 (w.slotResultWords o)).retireCounted 3 o).heldSlot = some p := by
    refine heldSlot_of_holding ?_ (only.line ▸ pending)
    rw [retireCounted_state, only.laneOf]
    exact holds
  have quiet : ((w.cutShort j stored 3 3 (w.slotResultWords o)).retireCounted 3 o).bus = [] :=
    (cutShort_bus j stored 3 3 (w.slotResultWords o) w).trans q
  have lost := enterFaulted_slot quiet held .memory (w.laneOf 3).current true
  unfold retireSlot
  rw [cut]
  exact lost

/-- The slot's retire as the statements have it. -/
theorem slotRetired_eq (pending : w.line.pendingSlots = p :: rest) (o : BlockOutcome) :
    w.slotRetired o = faultCause o ((w.slotAfter o p rest).recorded 3) := by
  have released : ((w.slotResult o).slotGivenUp p.slot).release 3 =
      if w.activeLane = some 3 then
        { (w.slotResult o).slotGivenUp p.slot with
          lanes := { ((w.slotResult o).slotGivenUp p.slot).lanes with activeValid := false } }
      else (w.slotResult o).slotGivenUp p.slot := by
    have active : ((w.slotResult o).slotGivenUp p.slot).activeLane = w.activeLane :=
      (activeLane_congr (slotGivenUp_lanes p.slot _)).trans (slotResult_activeLane o w)
    unfold Work.release
    rw [active]
  unfold Work.slotRetired
  rw [pending]
  dsimp only
  rw [← released]
  cases rest with
  | nil => rfl
  | cons q more =>
    have spool : (((w.slotResult o).slotGivenUp p.slot).release 3).slotAddress q.slot = w.slotAddress q.slot := by
      unfold Work.slotAddress
      rw [Work.release_line, slotGivenUp_spool, slotResult_line]
    unfold Work.slotAfter Work.slotTaken
    dsimp only
    rw [spool]
    rfl

theorem retireSlot_slotRetired (q : w.bus = []) (holds : (w.laneOf 3).state.holdsBlock = true)
    (pending : w.line.pendingSlots = p :: rest) (o : BlockOutcome) : retireSlot o w = w.slotRetired o := by
  rw [retireSlot_quiet q holds pending, slotRetired_eq pending]

end

/-- Settles O21: the slot's retire by what lane 3 takes next, and each write of it that can fail. -/
theorem retireOfASlotTakesTheNext : Obligations.RetireOfASlotTakesTheNext := by
  intro o w p rest quiet state pending
  have holds : (w.laneOf 3).state.holdsBlock = true := (LaneState.holdsBlock_iff _).mpr state
  have retired : retire 3 o w = w.slotRetired o := retireSlot_slotRetired quiet holds pending o
  refine ⟨?_, retired, fun j stored at_ => retireSlot_unwritten quiet holds pending o at_ stored,
    fun j stored a at_ => writeLaneRecord_slot_cut quiet holds pending at_ stored a, fun v j stored a at_ quietV free => ?_⟩
  · rw [retired]
    unfold Work.slotRetired
    rw [pending] <;> rfl
  · refine writeLaneRecord_no_slot_cut quietV ?_ at_ stored a
    rcases free with idle | faulted
    · rw [idle]
      rfl
    · rw [faulted]
      rfl

end Sys2Proof.Machine

/-! CANCEL of a lane, and the preemption points. -/

namespace Sys2Proof.Machine

/-! ## CANCEL of a host lane -/

/-- Lane `n` with its pending flags cleared (R62). -/
def Work.flagsCleared (n : LaneNo) (w : Work) : Work :=
  w.modLane n fun l => { l with nudgePending := false, resumePending := false }

theorem flagsCleared_laneOf (n : LaneNo) (w : Work) : (w.flagsCleared n).laneOf n =
    { w.laneOf n with nudgePending := false, resumePending := false } := w.laneOf_modLane_same n _

/-- A CANCEL of a host lane (R62, R63). -/
theorem exec_cancel_host {n : LaneNo} (host : n ≠ 3) {s : State} (awake : s.awake) :
    exec (.cancel (BitVec.ofNat 5 n.val)) s = .next (s.onWork fun w => settleLanes (cancelHostLane n (w.flagsCleared n))) := by
  rw [exec_cancel n awake, State.onWork, cancelLane, if_neg host]
  rfl

theorem cancelHostLane_idle {n : LaneNo} {w : Work} (h : (w.laneOf n).state = .idle) : cancelHostLane n w = w := by
  unfold cancelHostLane
  rw [h]

theorem cancelHostLane_active {n : LaneNo} {w : Work} (h : (w.laneOf n).state = .active) :
    cancelHostLane n w = w.modLane n fun l => { l with cancelRequested := true } := by
  unfold cancelHostLane
  rw [h]

theorem cancelHostLane_resting {n : LaneNo} {w : Work}
    (h : (w.laneOf n).state = .parked ∨ (w.laneOf n).state = .held ∨ (w.laneOf n).state = .faulted) :
    cancelHostLane n w = writeLaneRecord n 0 (w.leaveBlock n .idle 0) := by
  unfold cancelHostLane
  rcases h with e | e | e <;> rw [e]

theorem cancelHostLane_waiting {n : LaneNo} {w : Work}
    (h : (w.laneOf n).state = .ready ∨ (w.laneOf n).state = .waiting ∨ (w.laneOf n).state = .draining) :
    cancelHostLane n w = retireBlock n .cancelled w := by
  unfold cancelHostLane
  rcases h with e | e | e <;> rw [e]

/-- Settles O14: a CANCEL by the state of the lane, behind the cleared flags. -/
theorem cancelOfAHostLane : Obligations.CancelOfAHostLane := by
  intro n s host awake quiet
  have cancelled := exec_cancel_host host awake
  have lane := flagsCleared_laneOf n s.work
  have bus : (s.work.flagsCleared n).bus = [] := quiet
  have state : ((s.work.flagsCleared n).laneOf n).state = (s.work.laneOf n).state := by rw [lane]
  refine ⟨fun idle => ?_, fun active => ?_, fun other resting => ?_, fun other waiting => ?_⟩
  · rw [cancelled, State.onWork, cancelHostLane_idle (state.trans idle)]
    rfl
  · rw [cancelled, State.onWork, cancelHostLane_active (state.trans active)]
    rfl
  · rw [cancelled, State.onWork, cancelHostLane_resting (by rw [state]; exact resting), leaveBlock_recorded bus,
      release_of_other (by exact other)]
    rfl
  · have retired : retireBlock n .cancelled (s.work.flagsCleared n) =
        (((((s.work.flagsCleared n).blockResult n .cancelled)).modLane n (Lane.without .idle 0)).recorded n).signalled
          (s.progressOf n).signal := by
      rw [← retire_of_host host, retire_cancelled host bus rfl, lane, release_of_other (by rw [blockResult_activeLane]; exact other)]
      rfl
    rw [cancelled, State.onWork, cancelHostLane_waiting (by rw [state]; exact waiting), retired]
    rfl

/-! ## CANCEL of lane 3 -/

theorem exec_cancel_three {s : State} (awake : s.awake) :
    exec (.cancel 3) s = .next (s.onWork fun w => settleLanes (cancelLane3 (w.flagsCleared 3))) := by
  show exec (.cancel (BitVec.ofNat 5 (3 : LaneNo).val)) s = _
  rw [exec_cancel 3 awake, State.onWork, cancelLane, if_pos rfl]
  rfl

theorem queuedCleared_pendingSlots (w : Work) :
    w.queuedCleared.line.pendingSlots = w.line.pendingSlots.filter fun p => w.slotOf p.slot ≠ .queued := by
  have fold : ∀ (l : List PendingSlot) (v : Work),
      (l.foldl (fun w p => w.setSlot p.slot .free) v).line.pendingSlots = v.line.pendingSlots := by
    intro l
    induction l with
    | nil => exact fun _ => rfl
    | cons p rest ih => exact fun v => ih _
  exact fold _ _

section

variable {w : Work}

theorem queuedFreed_busOnly (q : w.bus = []) : Work.BusOnly w.queuedCleared w.queuedFreed := by
  obtain ⟨e, _⟩ := freeQueuedSlots_quiet q
  rw [← e]
  exact freeQueuedSlots_busOnly w

theorem queuedFreed_laneOf (q : w.bus = []) (n : LaneNo) : w.queuedFreed.laneOf n = w.laneOf n :=
  ((queuedFreed_busOnly q).laneOf n).trans (queuedCleared_laneOf w n)

theorem queuedFreed_activeLane (q : w.bus = []) : w.queuedFreed.activeLane = w.activeLane :=
  activeLane_congr ((queuedFreed_busOnly q).lanes.trans (queuedCleared_frame w).1)

theorem queuedFreed_pendingSlots (q : w.bus = []) :
    w.queuedFreed.line.pendingSlots = w.line.pendingSlots.filter fun p => w.slotOf p.slot ≠ .queued := by
  rw [(queuedFreed_busOnly q).line, queuedCleared_pendingSlots]

/-- Lane 3 becomes IDLE behind the freed slots, where it was not ACTIVE (R81). -/
theorem idleLane3_queuedFreed (q : w.bus = []) (other : w.activeLane ≠ some 3) :
    idleLane3 w.queuedFreed = (w.queuedFreed.modLane 3 (Lane.without .idle 0)).recorded 3 := by
  obtain ⟨_, bus⟩ := freeQueuedSlots_quiet q
  unfold idleLane3
  rw [leaveBlock_recorded bus, release_of_other (by rw [queuedFreed_activeLane q]; exact other)]

theorem cancelLane3_notBegun (q : w.bus = []) (notBegun : w.lane3NotBegun = true) : cancelLane3 w = idleLane3 w.queuedFreed := by
  obtain ⟨freed, _⟩ := freeQueuedSlots_quiet q
  unfold cancelLane3
  dsimp only
  rw [if_pos notBegun, freed]

/-- A CANCEL of a lane 3 that has begun its slot, or holds none, by its state (R81). -/
theorem cancelLane3_begun (q : w.bus = []) (begun : w.lane3NotBegun = false) : cancelLane3 w =
    match (w.laneOf 3).state with
    | .active => w.queuedFreed.modLane 3 fun l => { l with cancelRequested := true }
    | .ready | .waiting | .draining => retireSlot .cancelled w.queuedFreed
    | .faulted => idleLane3 w.queuedFreed
    | .idle | .parked | .held => w.queuedFreed := by
  obtain ⟨freed, _⟩ := freeQueuedSlots_quiet q
  unfold cancelLane3
  dsimp only
  rw [begun, if_neg nofun, freed, queuedFreed_laneOf q] <;> rfl

end

theorem flagsCleared_lane3NotBegun (w : Work) : (w.flagsCleared 3).lane3NotBegun = w.lane3NotBegun := by
  have held : (w.flagsCleared 3).heldSlot = w.heldSlot := by
    unfold Work.heldSlot
    rw [flagsCleared_laneOf]
    rfl
  unfold Work.lane3NotBegun
  rw [held]
  rfl

/-- Settles O15: a CANCEL of lane 3 by what it holds and its state, behind the freed slots. -/
theorem cancelOfLaneThree : Obligations.CancelOfLaneThree := by
  intro s awake quiet
  have cancelled := exec_cancel_three awake
  have bus : (s.work.flagsCleared 3).bus = [] := quiet
  have begun := flagsCleared_lane3NotBegun s.work
  have state : ((s.work.flagsCleared 3).laneOf 3).state = (s.work.laneOf 3).state := by rw [flagsCleared_laneOf]
  refine ⟨fun notBegun other => ?_, fun has idle => ?_, fun has active => ?_, fun has faulted other => ?_, fun has left waiting => ?_⟩
  · rw [cancelled, State.onWork, cancelLane3_notBegun bus (begun.trans notBegun), idleLane3_queuedFreed bus other]
    rfl
  · rw [cancelled, State.onWork, cancelLane3_begun bus (begun.trans has), state, idle]
    rfl
  · rw [cancelled, State.onWork, cancelLane3_begun bus (begun.trans has), state, active]
    rfl
  · rw [cancelled, State.onWork, cancelLane3_begun bus (begun.trans has), state, faulted]
    dsimp only
    rw [idleLane3_queuedFreed bus other]
    rfl
  · obtain ⟨_, freedBus⟩ := freeQueuedSlots_quiet bus
    have pending := queuedFreed_pendingSlots bus
    have same : ((s.work.flagsCleared 3).line.pendingSlots.filter fun p => (s.work.flagsCleared 3).slotOf p.slot ≠ .queued) =
        s.work.line.pendingSlots.filter fun q => s.work.slotOf q.slot ≠ .queued := rfl
    rw [same] at pending
    obtain ⟨p, rest, some⟩ := List.exists_cons_of_ne_nil left
    have holds : ((s.work.flagsCleared 3).queuedFreed.laneOf 3).state.holdsBlock = true := by
      rw [queuedFreed_laneOf bus, state]
      rcases waiting with e | e | e <;> rw [e] <;> rfl
    have retired := retireSlot_slotRetired freedBus holds (pending.trans some) .cancelled
    have goes : cancelLane3 (s.work.flagsCleared 3) = retireSlot .cancelled (s.work.flagsCleared 3).queuedFreed := by
      rw [cancelLane3_begun bus (begun.trans has), state]
      rcases waiting with e | e | e <;> rw [e]
    rw [cancelled, State.onWork, goes, retired]
    rfl

/-! ## The choice among the READY lanes -/

/-- The lowest READY lane is READY, and no lower one is (R68). -/
theorem lowestReady_eq_some {w : Work} {n : LaneNo} : w.lowestReady = some n ↔
    (w.laneOf n).state = .ready ∧ ∀ m, m < n → (w.laneOf m).state ≠ .ready := by
  unfold Work.lowestReady
  rw [List.find?_eq_some_iff_getElem]
  simp only [List.getElem_finRange, decide_eq_true_eq, Bool.not_eq_true', decide_eq_false_iff_not]
  constructor
  · rintro ⟨ready, i, small, rfl, lower⟩
    refine ⟨ready, fun m less => ?_⟩
    exact lower m.val less
  · rintro ⟨ready, lower⟩
    refine ⟨ready, n.val, by simp, rfl, fun j less => lower _ ?_⟩
    exact less

/-- A lane with a lower number is READY (R70). -/
theorem higherReady_iff {w : Work} {n : LaneNo} : w.higherReady n = true ↔ ∃ m, m < n ∧ (w.laneOf m).state = .ready := by
  unfold Work.higherReady
  split
  · next k lowest =>
    obtain ⟨ready, lower⟩ := lowestReady_eq_some.mp lowest
    rw [decide_eq_true_eq]
    refine ⟨fun less => ⟨k, less, ready⟩, fun ⟨m, less, readyM⟩ => ?_⟩
    by_contra not
    exact lower m (lt_of_lt_of_le less (not_lt.mp not)) readyM
  · next none =>
    have noneReady : ∀ m, (w.laneOf m).state ≠ .ready := by
      intro m
      have found := List.find?_eq_none.mp none m (List.mem_finRange m)
      simpa using found
    exact ⟨nofun, fun ⟨m, _, ready⟩ => absurd ready (noneReady m)⟩

/-! ## Preemption points -/

section

variable {n : LaneNo} {w : Work}

theorem Progress.atEnd_iff (p : Progress) : p.atEnd = true ↔ p.inHand = Option.none ∧ p.bodyLength ≤ p.nextWord := by
  simp [Progress.atEnd]

theorem preemptionPoint_cancel (cancel : (w.laneOf n).cancelRequested = true) : preemptionPoint n w = retire n .cancelled w :=
  if_pos cancel

theorem preemptionPoint_purge (cancel : (w.laneOf n).cancelRequested = false) (purge : n = 3 ∧ w.line.purgeRequested = true) :
    preemptionPoint n w = retire n .purged w := by
  unfold preemptionPoint
  dsimp only
  rw [cancel, if_neg nofun, if_pos purge]

variable (cancel : (w.laneOf n).cancelRequested = false) (purge : ¬(n = 3 ∧ w.line.purgeRequested = true))

include cancel purge

theorem preemptionPoint_end (atEnd : (w.laneOf n).progress.atEnd = true) : preemptionPoint n w = retire n .done w := by
  unfold preemptionPoint
  dsimp only
  rw [cancel, if_neg nofun, if_neg purge, if_pos atEnd]

variable (more : ¬(w.laneOf n).progress.atEnd = true)

include more

theorem preemptionPoint_suspend (h : w.port.engine = .stopping ∨ ∃ m, m < n ∧ (w.laneOf m).state = .ready) :
    preemptionPoint n w = suspend n w := by
  unfold preemptionPoint
  dsimp only
  rw [cancel, if_neg nofun, if_neg purge, if_neg more]
  split
  · rfl
  · next running => rw [if_pos (higherReady_iff.mpr (h.resolve_left running))]

theorem preemptionPoint_none (running : w.port.engine ≠ .stopping) (highest : ∀ m, m < n → (w.laneOf m).state ≠ .ready) :
    preemptionPoint n w = w.modLane n fun l => { l with progress := { l.progress with pointOwed := false } } := by
  have not : ¬w.higherReady n = true := by
    rw [higherReady_iff]
    rintro ⟨m, less, ready⟩
    exact highest m less ready
  unfold preemptionPoint
  dsimp only
  rw [cancel, if_neg nofun, if_neg purge, if_neg more, if_neg running, if_neg not]

end

/-- The ACTIVE lane is suspended, no cancel being asked of it (R70). -/
theorem suspend_quiet {n : LaneNo} {w : Work} (q : w.bus = []) (active : w.activeLane = some n)
    (cancel : (w.laneOf n).cancelRequested = false) :
    suspend n w = ({ w with lanes := { w.lanes with
      lane := w.lanes.lane.set n.val { w.laneOf n with
        state := .ready, progress := { (w.laneOf n).progress with pointOwed := false } }
      activeValid := false } }).recorded n := by
  have lane : (w.laneOf n).suspended =
      { w.laneOf n with state := .ready, progress := { (w.laneOf n).progress with pointOwed := false } } := by
    unfold Lane.suspended
    rw [← cancel]
  unfold suspend
  rw [writeLaneRecord_quiet n 0 (by rw [release_bus]; exact q), release_of_active (by exact active), ← lane]
  rfl

/-- Settles O19: the cases of the preemption point, one after another. -/
theorem preemptionPointTakesTheFirstCase : Obligations.PreemptionPointTakesTheFirstCase := by
  intro n w
  refine ⟨preemptionPoint_cancel, fun cancel three purge => preemptionPoint_purge cancel ⟨three, purge⟩,
    fun cancel purge => ⟨fun ended => ?_, fun more => ⟨fun quiet active why => ?_, fun running highest => ?_⟩⟩, fun s => rfl⟩
  · exact preemptionPoint_end cancel purge ((Progress.atEnd_iff _).mpr ended)
  · rw [preemptionPoint_suspend cancel purge (by rw [Progress.atEnd_iff]; exact more) why, suspend_quiet quiet active cancel]
  · exact preemptionPoint_none cancel purge (by rw [Progress.atEnd_iff]; exact more) running highest

end Sys2Proof.Machine

/-! The end of a WAIT and of a DRAIN limit, and the engine's choice. -/

namespace Sys2Proof.Machine

/-! ## The rows of the expiries -/

section

variable {comes : State → Bool} {b : TickBlock} {s : State}

theorem event_expiry_comes (awake : s.awake) (due : comes s = true) : event (expiry comes b) s = .next (tickFrom b s) := by
  rw [event_of_awake awake, expiry, if_pos due]

theorem event_expiry_away (awake : s.awake) (due : ¬comes s = true) : event (expiry comes b) s = .next s := by
  rw [event_of_awake awake, expiry, if_neg due]

end

/-- A tick that the lanes take first, while they count it (R64, R167). -/
theorem tickFrom_lanes {s : State} (running : s.work.port.engine = .running) : tickFrom .lanes s =
    finishTick s [.clock, .markers, .driver, .supply, .hold]
      (s.onWork fun w => ([0, 1, 2, 3, 4, 5, 6, 7] : List LaneNo).foldl (fun w m => tickLane m w) w) := by
  have lanes : tickLanes s.work = ([0, 1, 2, 3, 4, 5, 6, 7] : List LaneNo).foldl (fun w m => tickLane m w) s.work := if_pos running
  show finishTick s [.clock, .markers, .driver, .supply, .hold] { s with work := tickLanes s.work } = _
  rw [lanes]
  rfl

theorem Work.waitRunsOut_iff {w : Work} {n : LaneNo} :
    w.waitRunsOut n = true ↔ (w.laneOf n).state = .waiting ∧ (w.laneOf n).progress.waitCount ≤ 1 := by
  unfold Work.waitRunsOut
  rw [Bool.and_eq_true, decide_eq_true_eq, decide_eq_true_eq]

theorem Work.limitRunsOut_iff {w : Work} {n : LaneNo} :
    w.limitRunsOut n = true ↔ (w.laneOf n).state = .draining ∧ ∃ k, (w.laneOf n).progress.limit = some k ∧ k ≤ 1 := by
  unfold Work.limitRunsOut
  simp only [Bool.and_eq_true, decide_eq_true_eq, Option.any_eq_true]

theorem exec_waitExpiry_comes {s : State} {n : LaneNo} (awake : s.awake) (running : s.work.port.engine = .running)
    (due : s.work.waitRunsOut n = true) : exec (.waitExpiry n) s = .next (tickFrom .lanes s) :=
  event_expiry_comes awake (by rw [Bool.and_eq_true, decide_eq_true_eq]; exact ⟨running, due⟩)

theorem exec_waitExpiry_away {s : State} {n : LaneNo} (awake : s.awake)
    (away : ¬(s.work.port.engine = .running ∧ s.work.waitRunsOut n = true)) : exec (.waitExpiry n) s = .next s :=
  event_expiry_away awake (by rw [Bool.and_eq_true, decide_eq_true_eq]; exact away)

theorem exec_drainTimeout_comes {s : State} {n : LaneNo} (awake : s.awake) (running : s.work.port.engine = .running)
    (due : s.work.limitRunsOut n = true) : exec (.drainTimeout n) s = .next (tickFrom .lanes s) :=
  event_expiry_comes awake (by rw [Bool.and_eq_true, decide_eq_true_eq]; exact ⟨running, due⟩)

theorem exec_drainTimeout_away {s : State} {n : LaneNo} (awake : s.awake)
    (away : ¬(s.work.port.engine = .running ∧ s.work.limitRunsOut n = true)) : exec (.drainTimeout n) s = .next s :=
  event_expiry_away awake (by rw [Bool.and_eq_true, decide_eq_true_eq]; exact away)

/-! ## A counted tick at one lane -/

section

variable {n : LaneNo} {w : Work}

theorem tickLane_waited (q : w.bus = []) (state : (w.laneOf n).state = .waiting) (due : (w.laneOf n).progress.waitCount ≤ 1) :
    tickLane n w = (w.modLane n fun l => { l with
      state := .ready
      progress := { l.progress with
        ordinal := l.progress.ordinal + 1, waitCount := 0, limit := none, pointOwed := true } }).recorded n := by
  unfold tickLane
  rw [if_pos (Work.waitRunsOut_iff.mpr ⟨state, due⟩), completeWaiting, writeLaneRecord_quiet n 0 (by exact q)]

theorem tickLane_timeout (state : (w.laneOf n).state = .draining) {k : Nat} (limit : (w.laneOf n).progress.limit = some k)
    (due : k ≤ 1) : tickLane n w = retire n .timeout w := by
  have waits : ¬w.waitRunsOut n = true := by
    rw [Work.waitRunsOut_iff, state]
    exact fun h => absurd h.1 (by decide)
  unfold tickLane
  rw [if_neg waits, if_pos (Work.limitRunsOut_iff.mpr ⟨state, k, limit, due⟩)]

/-- A limit that runs out retires the block of a host lane TIMEOUT, which makes the lane HELD (R60, R65). -/
theorem retire_timeout_held (host : n ≠ 3) (q : w.bus = []) (cancel : (w.laneOf n).cancelRequested = false)
    (other : w.activeLane ≠ some n) : retire n .timeout w =
      Work.signalled (w.laneOf n).progress.signal (setCause .laneFault (setCause .laneHeld
        (((w.blockResult n .timeout).modLane n (Lane.without .held (w.laneOf n).current)).recorded n))) :=
  retire_error_held host q (release_of_other (by rw [blockResult_activeLane]; exact other)).symm rfl cancel

theorem Lane.countTick_limit {l : Lane} (state : l.state = .draining) {k : Nat} (limit : l.progress.limit = some k) :
    l.countTick = { l with progress := { l.progress with limit := some (k - 1) } } := by
  rw [Lane.countTick_of_draining state, limit]
  rfl

theorem Lane.countTick_unlimited {l : Lane} (state : l.state = .draining) (limit : l.progress.limit = none) : l.countTick = l := by
  have same : l.progress.limit.map (fun k => k - 1) = l.progress.limit := by rw [limit]; rfl
  rw [Lane.countTick_of_draining state, same]

/-- A change that is another one at the lane as it is. -/
theorem modLane_congr {f g : Lane → Lane} (h : f (w.laneOf n) = g (w.laneOf n)) : w.modLane n f = w.modLane n g := by
  unfold Work.modLane
  rw [h]

theorem Lane.NotDue.of_waiting {l : Lane} (state : l.state = .waiting) (due : 2 ≤ l.progress.waitCount) : l.NotDue :=
  ⟨fun _ => due, fun _ draining => absurd (state.symm.trans draining) (by decide)⟩

theorem Lane.NotDue.of_draining {l : Lane} (state : l.state = .draining) (due : ∀ k, l.progress.limit = some k → 2 ≤ k) : l.NotDue :=
  ⟨fun waiting => absurd (state.symm.trans waiting) (by decide), fun k _ => due k⟩

theorem Lane.NotDue.of_other {l : Lane} (wait : l.state ≠ .waiting) (drain : l.state ≠ .draining) : l.NotDue :=
  ⟨fun waiting => absurd waiting wait, fun _ draining => absurd draining drain⟩

end

/-- Settles O17: the rows by whether the next tick brings their expiry, and a counted tick at a lane by its state and count. -/
theorem expiriesEndWaitAndDrain : Obligations.ExpiriesEndWaitAndDrain := by
  refine ⟨fun n s awake => ⟨fun running state due => ?_, fun away => ?_, fun k running state limit due => ?_, fun away => ?_⟩,
    fun n w quiet => ⟨tickLane_waited quiet, fun state due => ?_, fun k host state limit due cancel other => ?_,
      fun k three state limit due left => ?_, fun k state limit due => ?_, fun state limit => ?_, fun wait drain => ?_⟩⟩
  · rw [exec_waitExpiry_comes awake running (Work.waitRunsOut_iff.mpr ⟨state, due⟩), tickFrom_lanes running]
  · refine exec_waitExpiry_away awake fun ⟨running, out⟩ => ?_
    obtain ⟨state, due⟩ := Work.waitRunsOut_iff.mp out
    obtain stopped | other | long := away
    · exact stopped running
    · exact other state
    · exact absurd (Nat.le_trans long due) (by decide)
  · rw [exec_drainTimeout_comes awake running (Work.limitRunsOut_iff.mpr ⟨state, k, limit, due⟩), tickFrom_lanes running]
  · refine exec_drainTimeout_away awake fun ⟨running, out⟩ => ?_
    obtain ⟨state, k, limit, due⟩ := Work.limitRunsOut_iff.mp out
    obtain stopped | other | long := away
    · exact stopped running
    · exact other state
    · exact absurd (Nat.le_trans (long k limit) due) (by decide)
  · rw [tickLane_counts (.of_waiting state due)]
    exact modLane_congr (Lane.countTick_of_waiting state)
  · rw [tickLane_timeout state limit due, retire_timeout_held host quiet cancel other]
  · subst three
    obtain ⟨p, rest, pending⟩ := List.exists_cons_of_ne_nil left
    rw [tickLane_timeout state limit due, retire, if_pos rfl,
      retireSlot_slotRetired quiet (by rw [state]; rfl) pending]
  · rw [tickLane_counts (.of_draining state fun j some => Option.some.inj (limit.symm.trans some) ▸ due)]
    exact modLane_congr (Lane.countTick_limit state limit)
  · rw [tickLane_counts (.of_draining state fun j some => nomatch limit.symm.trans some)]
    exact modLane_of_same (Lane.countTick_unlimited state limit)
  · rw [tickLane_counts (.of_other wait drain)]
    exact modLane_of_same (Lane.countTick_of_other wait drain)

/-! ## The engine's choice -/

theorem engineChoice_of_not_due {w : Work} (h : ¬(w.port.engine = .running ∧ w.lanes.activeValid = false)) (fuel : Nat) :
    engineChoice fuel w = w := by
  cases fuel with
  | zero => rfl
  | succ fuel =>
    unfold engineChoice
    rw [if_neg h]

/-- STOPPING ends with the engine free (R71, R178). -/
theorem settleLanes_stopping {w : Work} (stopping : w.port.engine = .stopping) (free : w.lanes.activeValid = false) :
    settleLanes w = { w with port := { w.port with engine := if w.port.run then .starting else .halted } } := by
  have ends : endStopping w = { w with port := { w.port with engine := if w.port.run then .starting else .halted } } :=
    if_pos ⟨stopping, free⟩
  rw [settleLanes, ends]
  refine engineChoice_of_not_due (fun due => ?_) _
  obtain ⟨running, _⟩ := due
  dsimp only at running
  split at running <;> cases running

/-- Lane 3 granted with its slot still QUEUED has begun it (R79, R151). -/
def Work.slotBegun (n : LaneNo) (active w : Work) : Work :=
  match w.line.pendingSlots with
  | p :: _ => if n = 3 ∧ w.slotOf p.slot = .queued then active.slotChanged p.slot .running else active
  | [] => active

/-- The state a grant of lane `n` leaves before the preemption point (R68). -/
def Work.granted (n : LaneNo) (w : Work) : Work :=
  ((w.activate n).slotBegun n w).recorded n

section

variable {n : LaneNo} {w : Work}

theorem activate_laneOf : (w.activate n).laneOf n = { w.laneOf n with state := .active } :=
  w.laneOf_modLane_same n fun l => { l with state := .active }

theorem slotBegun_laneOf (active : Work) (m : LaneNo) : (active.slotBegun n w).laneOf m = active.laneOf m := by
  unfold Work.slotBegun
  split
  · split <;> rfl
  · rfl

theorem slotBegun_bus (q : w.bus = []) : ((w.activate n).slotBegun n w).bus = [] := by
  unfold Work.slotBegun
  split
  · split <;> exact q
  · exact q

theorem granted_laneOf (m : LaneNo) : (w.granted n).laneOf m = (w.activate n).laneOf m :=
  (recorded_laneOf n m _).trans (slotBegun_laneOf _ m)

/-- The slot of lane 3 becomes RUNNING where it was QUEUED (R79). -/
theorem runHeldSlot_activate (q : w.bus = []) :
    (if n = 3 then runHeldSlot (w.activate n) else w.activate n) = (w.activate n).slotBegun n w := by
  by_cases three : n = 3
  · subst three
    have holds : ((w.activate 3).laneOf 3).state.holdsBlock = true := by rw [activate_laneOf]; rfl
    have pending : (w.activate 3).line.pendingSlots = w.line.pendingSlots := rfl
    rw [if_pos rfl]
    unfold runHeldSlot Work.slotBegun
    cases e : w.line.pendingSlots with
    | nil =>
      have none : (w.activate 3).heldSlot = none := by
        unfold Work.heldSlot
        rw [pending, e]
        split <;> rfl
      rw [none]
    | cons p rest =>
      rw [heldSlot_of_holding holds (pending.trans e)]
      have same : (w.activate 3).slotOf p.slot = w.slotOf p.slot := rfl
      dsimp only
      by_cases queued : w.slotOf p.slot = .queued
      · rw [if_pos (same.trans queued), if_pos ⟨rfl, queued⟩, changeSlot_quiet _ _ (by exact q)]
      · rw [if_neg (by rw [same]; exact queued), if_neg fun h => queued h.2]
  · rw [if_neg three]
    unfold Work.slotBegun
    split
    · rw [if_neg fun h => three h.1]
    · rfl

/-- A grant takes the preemption point at once where a point is owed or no record is left (R53, R68, R69). -/
theorem grant_quiet (q : w.bus = []) : grant n w =
    if (w.laneOf n).progress.pointOwed = true ∨ (w.laneOf n).progress.atEnd = true then preemptionPoint n (w.granted n)
    else w.granted n := by
  have lane : (w.granted n).laneOf n = { w.laneOf n with state := .active } := (granted_laneOf n).trans activate_laneOf
  have writes : writeLaneRecord n 0 (if n = 3 then runHeldSlot (w.activate n) else w.activate n) = w.granted n := by
    rw [runHeldSlot_activate q, writeLaneRecord_quiet n 0 (slotBegun_bus q)]
    rfl
  unfold grant
  dsimp only
  rw [writes, lane]
  simp only [true_and]

/-- The engine's first choice of an event (R68). -/
theorem settleLanes_grants (running : w.port.engine = .running) (free : w.lanes.activeValid = false)
    (lowest : w.lowestReady = some n) : settleLanes w = engineChoice (Config.choicesPerEvent - 1) (grant n w) := by
  have ends : endStopping w = w := if_neg (by rw [running]; nofun)
  rw [settleLanes, ends]
  show engineChoice (4095 + 1) w = _
  rw [engineChoice, if_pos ⟨running, free⟩, lowest]
  rfl

theorem granted_lanes : (w.granted n).lanes = (w.activate n).lanes := by
  have begun : ((w.activate n).slotBegun n w).lanes = (w.activate n).lanes := by
    unfold Work.slotBegun
    split
    · split <;> rfl
    · rfl
  exact (storeWords_busOnly _ _).lanes.trans begun

theorem granted_port : (w.granted n).port = w.port := by
  have begun : ((w.activate n).slotBegun n w).port = w.port := by
    unfold Work.slotBegun
    split
    · split <;> rfl
    · rfl
  exact (storeWords_port _ _).trans begun

theorem granted_purgeRequested : (w.granted n).line.purgeRequested = w.line.purgeRequested := by
  have begun : ((w.activate n).slotBegun n w).line.purgeRequested = w.line.purgeRequested := by
    unfold Work.slotBegun
    split
    · split <;> rfl
    · rfl
  exact (congrArg (fun l => l.purgeRequested) (storeWords_busOnly _ _).line).trans begun

/-- No lane with a lower number than the granted one is READY. -/
theorem granted_highest (lowest : w.lowestReady = some n) (m : LaneNo) (less : m < n) : ((w.granted n).laneOf m).state ≠ .ready := by
  obtain ⟨_, lower⟩ := lowestReady_eq_some.mp lowest
  have other : (w.granted n).laneOf m = w.laneOf m := (granted_laneOf m).trans (w.laneOf_modLane_other n m (fun l => { l with state := .active }) (ne_of_lt less))
  rw [other]
  exact lower m less

end

/-- Settles O18: nothing to choose, the end of STOPPING, the lowest READY lane, and its grant by what it owes. -/
theorem engineGrantsTheLowestReadyLane : Obligations.EngineGrantsTheLowestReadyLane := by
  refine ⟨fun w => settleLanes_of_noChoiceDue, fun w => settleLanes_stopping, fun w n => lowestReady_eq_some,
    fun w n quiet running free lowest => ?_⟩
  have granted : settleLanes w = engineChoice (Config.choicesPerEvent - 1) (grant n w) := settleLanes_grants running free lowest
  have lane : (w.granted n).laneOf n = { w.laneOf n with state := .active } := (granted_laneOf n).trans activate_laneOf
  have ended := (w.laneOf n).progress.atEnd_iff
  have active : (w.granted n).lanes.activeValid = true := congrArg (fun l => l.activeValid) granted_lanes
  refine ⟨fun more paid => ?_, fun point => ?_, fun more owed cancel purge => ?_⟩
  · rw [granted, grant_quiet quiet, if_neg (by rw [ended, paid]; exact fun h => h.elim nofun more)]
    exact engineChoice_of_not_due (fun due => nomatch active.symm.trans due.2) _
  · rw [granted, grant_quiet quiet, if_pos (by rw [ended]; exact point.symm)]
    rfl
  · rw [granted, grant_quiet quiet, if_pos (.inl owed),
      preemptionPoint_none (by rw [lane]; exact cancel) (by rw [granted_purgeRequested]; exact purge)
        (by rw [lane, ended]; exact more) (by rw [granted_port, running]; decide) (granted_highest lowest)]
    refine (engineChoice_of_not_due ?_ _).trans rfl
    exact fun due => nomatch active.symm.trans due.2

end Sys2Proof.Machine

/-! The way through a record: what a record met, or one in hand, comes to; and where a word of it cannot be read. -/

namespace Sys2Proof.Machine

/-! ## The engine's step at a record -/

section

variable {c : Instr} {k : RecordKind} {n : LaneNo} {s : State}

theorem exec_record_awake (mem : (c, k) ∈ recordCommands) (awake : s.awake) : exec c s = .next (runKind k s) := by
  rw [exec_record mem, event_of_awake awake]

/-- The engine takes the record at the next word of the body (R87). -/
theorem runRecord_takes (served : s.work.servedLane = some n) (notInHand : (s.progressOf n).inHand = none)
    (more : (s.progressOf n).nextWord < (s.progressOf n).bodyLength) (resume : LaneNo → RecordInHand → State → State)
    (act : LaneNo → RecordWords → State → State) : runRecord k resume act s = takeRecord k n act s := by
  have atEnd : ¬(s.progressOf n).atEnd = true := by
    rw [Progress.atEnd_iff]
    omega
  unfold runRecord
  rw [served]
  dsimp only
  rw [notInHand]
  exact if_neg atEnd

/-- A head of this kind leads to the check of the length (R87). -/
theorem takeRecord_of_kind {head : Word} {w : Work} (act : LaneNo → RecordWords → State → State)
    (read : readStation .engine (some n) (s.work.bodyAddress n (s.progressOf n).nextWord) s.work = (some head, w))
    (kind : recordKind head = k) : takeRecord k n act s = checkLength n head act { s with work := w } := by
  unfold takeRecord
  rw [read]
  exact if_pos kind

theorem checkLength_of_long {head : Word} (act : LaneNo → RecordWords → State → State)
    (long : (s.progressOf n).bodyLength < (s.progressOf n).nextWord + recordLength (recordKind head) (recordImmediate head)) :
    checkLength n head act s = endBlock n .badRecord s := if_pos long

theorem checkLength_of_fits {head : Word} (act : LaneNo → RecordWords → State → State)
    (fits : (s.progressOf n).nextWord + recordLength (recordKind head) (recordImmediate head) ≤ (s.progressOf n).bodyLength) :
    checkLength n head act s = readRecordBody n head (recordLength (recordKind head) (recordImmediate head)) act s :=
  if_neg (Nat.not_lt.mpr fits)

theorem readRecordBody_of_read {head : Word} {length : Nat} {ws : List Word} {w : Work}
    (act : LaneNo → RecordWords → State → State)
    (read : readStationList .engine (some n)
      (wordRun (s.work.bodyAddress n ((s.progressOf n).nextWord + 1)) (length - 1)) s.work = (some ws, w)) :
    readRecordBody n head length act s =
      act n { imm := recordImmediate head, words := ws } (({ s with work := w } : State).modLane n (Lane.wordsRead length)) := by
  unfold readRecordBody
  rw [read]
  rfl

theorem readRecordBody_of_unread {head : Word} {length : Nat} {w : Work} (act : LaneNo → RecordWords → State → State)
    (read : readStationList .engine (some n)
      (wordRun (s.work.bodyAddress n ((s.progressOf n).nextWord + 1)) (length - 1)) s.work = (none, w)) :
    readRecordBody n head length act s = endBlock n .memory { s with work := w } := by
  unfold readRecordBody
  rw [read]

/-- The records that are met at these words, of this kind, are carried out with the words read (R87). -/
theorem exec_met {head : Word} {ws : List Word} (mem : (c, k) ∈ recordCommands) (met : s.MeetsRecord n (head :: ws))
    (kind : recordKind head = k) (length : recordLength k (recordImmediate head) = ws.length + 1) :
    exec c s = .next ((recordParts k).2 n { imm := recordImmediate head, words := ws }
      (s.modLane n (Lane.wordsRead (ws.length + 1)))) := by
  rw [exec_record_awake mem met.awake, runKind, runRecord_of_meets met kind length]

/-- A record in hand goes on (R69). -/
theorem exec_inHand {r : RecordInHand} (mem : (c, r.kind) ∈ recordCommands) (h : s.HasInHand n r) :
    exec c s = .next ((recordParts r.kind).1 n r s) := by
  rw [exec_record_awake mem h.awake, runKind, runRecord_of_inHand h]

/-- A record in hand goes on where an access will fail (R69). -/
theorem exec_inHand_before {r : RecordInHand} (mem : (c, r.kind) ∈ recordCommands) (h : s.HasInHand n r) (i : Nat)
    (answer : BusAnswer) : exec c (s.onWork (Work.withFailure i answer)) =
      .next ((recordParts r.kind).1 n r (s.onWork (Work.withFailure i answer))) := by
  have served : (s.onWork (Work.withFailure i answer)).work.servedLane = some n := h.served
  have inHand : ((s.onWork (Work.withFailure i answer)).progressOf n).inHand = some r := h.inHand
  rw [exec_record_awake mem (by exact h.awake), runKind, runRecord, served]
  dsimp only
  rw [inHand]
  exact congrArg Host.Outcome.next (if_pos rfl)

/-- A record that is met is read whole where an access behind its words fails (R87). -/
theorem exec_met_before {head : Word} {ws : List Word} (mem : (c, k) ∈ recordCommands) (met : s.MeetsRecord n (head :: ws))
    (kind : recordKind head = k) (length : recordLength k (recordImmediate head) = ws.length + 1) (i : Nat) (answer : BusAnswer) :
    exec c (s.onWork (Work.withFailure (ws.length + 1 + i) answer)) = .next ((recordParts k).2 n
      { imm := recordImmediate head, words := ws }
      ((s.modLane n (Lane.wordsRead (ws.length + 1))).onWork (Work.withFailure i answer))) := by
  have fits := met.fits
  rw [List.length_cons] at fits
  have headAt : s.work.mem.readWord (s.work.bodyAddress n (s.progressOf n).nextWord) = head := met.words 0 (Nat.succ_pos _)
  have rest : (wordRun (s.work.bodyAddress n ((s.progressOf n).nextWord + 1)) ws.length).map s.work.mem.readWord = ws := by
    refine map_readWord_wordRun _ _ _ fun i hi => ?_
    have e := met.words (i + 1) (Nat.succ_lt_succ hi)
    rw [← bodyAddress_add, Nat.add_assoc, Nat.add_comm 1 i]
    exact e
  have readHead : readStation .engine (some n) (s.work.bodyAddress n (s.progressOf n).nextWord)
      (s.work.withFailure (ws.length + 1 + i) answer) = (some head, s.work.withFailure (ws.length + i) answer) := by
    rw [Nat.add_right_comm, readStation_before, headAt]
  have readRest := readStationList_before .engine (some n) (wordRun (s.work.bodyAddress n ((s.progressOf n).nextWord + 1)) ws.length) i
    answer s.work
  rw [rest, show (wordRun (s.work.bodyAddress n ((s.progressOf n).nextWord + 1)) ws.length).length = ws.length by simp [wordRun]]
    at readRest
  rw [exec_record_awake mem (by exact met.awake), runKind,
    runRecord_takes (by exact met.served) (by exact met.notInHand) (by show (s.progressOf n).nextWord < _; exact Nat.lt_of_lt_of_le (by omega) fits),
    takeRecord_of_kind _ (by exact readHead) kind, checkLength_of_fits _ (by rw [kind, length]; exact fits), kind, length]
  rw [readRecordBody_of_read _ (by rw [Nat.add_sub_cancel]; exact readRest)]
  rfl

/-- A head that cannot be read ends the block, whatever the kind (R87). -/
theorem takeRecord_unread {w : Work} (act : LaneNo → RecordWords → State → State)
    (read : readStation .engine (some n) (s.work.bodyAddress n (s.progressOf n).nextWord) s.work = (none, w)) :
    takeRecord k n act s = endBlock n .memory { s with work := w } := by
  unfold takeRecord
  rw [read]

end

theorem length_wordRun (a : Addr) (n : Nat) : (wordRun a n).length = n := by
  rw [wordRun, List.length_map, List.length_range]

/-- Settles O24: a record that runs past the body, a head that cannot be read, and a later word that cannot. -/
theorem recordThatCannotBeReadEndsTheBlock : Obligations.RecordThatCannotBeReadEndsTheBlock := by
  intro n s c k mem awake quiet served notInHand more first head length
  refine ⟨fun kind long => ?_, fun i answer code fails which => ?_⟩
  · have read : readStation .engine (some n) (s.work.bodyAddress n first) s.work = (some head, s.work) :=
      readStation_completes _ _ _ _ quiet
    rw [exec_record_awake mem awake, runKind, runRecord_takes served notInHand more, takeRecord_of_kind _ read kind,
      checkLength_of_long _ (by rw [kind]; exact long)]
  · rw [exec_record_awake mem (by exact awake), runKind,
      runRecord_takes (by exact served) (by exact notInHand) (by exact more)]
    cases i with
    | zero =>
      have read : readStation .engine (some n) (s.work.bodyAddress n first) (s.work.withFailure 0 answer) =
          (none, s.work.failureNoted code 1 (BitVec.ofNat 16 n.val) (s.work.bodyAddress n first)) :=
        readStation_fails _ _ _ _ quiet fails
      rw [takeRecord_unread _ (by exact read)]
      rfl
    | succ j =>
      obtain ⟨kind, fits, inside⟩ := which.resolve_left (Nat.succ_ne_zero j)
      have at_ : j < length - 1 := by omega
      have unread : readStationList .engine (some n) (wordRun (s.work.bodyAddress n (first + 1)) (length - 1))
          (s.work.withFailure j answer) =
            (none, s.work.failureNoted code 1 (BitVec.ofNat 16 n.val) (s.work.bodyAddress n (first + (j + 1)))) := by
        rw [readStationList_fails _ _ _ j (by rw [length_wordRun]; exact at_) _ quiet fails]
        simp only [wordRun, List.getElem_map, List.getElem_range]
        rw [← bodyAddress_add, Nat.add_assoc, Nat.add_comm 1 j]
        rfl
      rw [takeRecord_of_kind (head := head) _ (readStation_before _ _ _ _ _ _) kind,
        checkLength_of_fits _ (by rw [kind]; exact fits), kind, readRecordBody_of_unread _ (by exact unread)]
      rfl

end Sys2Proof.Machine

/-! The records that set fields of the lane's context, the checks that a record can fail, and WAIT and DRAIN. -/

namespace Sys2Proof.Machine

/-! ## Fields of a head -/

theorem extractLsb'_recordImmediate (head : Word) {i len : Nat} (h : i + len ≤ 12) :
    (recordImmediate head).extractLsb' i len = head.extractLsb' i len := by
  ext j hj
  simp only [recordImmediate, BitVec.getElem_extractLsb', BitVec.getLsbD_extractLsb']
  rw [decide_eq_true (by omega : i + j < 12), Bool.true_and, Nat.zero_add]

theorem getLsbD_recordImmediate (head : Word) {i : Nat} (h : i < 12) : (recordImmediate head).getLsbD i = head.getLsbD i := by
  simp only [recordImmediate, BitVec.getLsbD_extractLsb', decide_eq_true h, Bool.true_and, Nat.zero_add]

theorem addressEven_append (high : BitVec 4) (low : Word) : addressEven (high ++ low) = decide (low.toNat % 2 = 0) := by
  have sum : (high ++ low).toNat = high.toNat * 2 ^ 16 + low.toNat := by
    rw [BitVec.toNat_append, ← Nat.shiftLeft_add_eq_or_of_lt low.isLt, Nat.shiftLeft_eq]
  unfold addressEven
  rw [sum]
  exact decide_eq_decide.mpr (by omega)

/-! ## Checks -/

theorem checked_true {ok : Bool} (h : ok = true) (n : LaneNo) (act : State → State) (s : State) : checked ok n act s = act s := if_pos h

theorem checked_false {ok : Bool} (h : ¬ok = true) (n : LaneNo) (act : State → State) (s : State) :
    checked ok n act s = endBlock n .badRecord s := if_neg h

/-- A record that changes the lane's context and nothing else (R87). -/
theorem completeRecord_modContext (n : LaneNo) (length : Nat) (f : Context → Context) (s : State) :
    completeRecord n (modContext n f (s.modLane n (Lane.wordsRead length))) =
      pointInside n (s.modLane n fun l => { l with context := f l.context }.recordTaken length) := by
  rw [completeRecord_eq, modContext_eq, State.modLane_modLane, State.modLane_modLane]
  rfl

theorem clipOk_iff (low high : Int) : clipOk low high = true ↔ 0 ≤ low ∧ low ≤ high ∧ high ≤ 511 := by
  simp [clipOk, and_assoc]

theorem toNat_toInt_of_nonneg {v : Word} (h : 0 ≤ v.toInt) : v.toInt.toNat = v.toNat := by
  have := BitVec.toInt_eq_toNat_cond v
  omega

/-! ## What each record does with its words -/

section

variable (n : LaneNo) (imm : BitVec 12) (s : State)

theorem setmodeAct_eq : setmodeAct n { imm := imm, words := [] } s = checked (decide (imm.toNat ≤ 3)) n
    (fun s => completeRecord n (modContext n (fun c => { c with mode := drawMode imm.toNat }) s)) s := rfl

theorem setclipAct_eq (x0 y0 x1 y1 : Word) : setclipAct n { imm := imm, words := [x0, y0, x1, y1] } s =
    checked (clipOk x0.toInt x1.toInt && clipOk y0.toInt y1.toInt) n
      (fun s => completeRecord n (modContext n (fun c => { c with
        clipX0 := x0.toInt.toNat, clipY0 := y0.toInt.toNat, clipX1 := x1.toInt.toNat, clipY1 := y1.toInt.toNat }) s)) s := rfl

theorem settextAct_eq : settextAct n { imm := imm, words := [] } s =
    checked (decide ((imm.extractLsb' 2 2).toNat = 1 ∨ (imm.extractLsb' 2 2).toNat = 2)) n
      (fun s => completeRecord n (modContext n (Context.withText imm) s)) s := rfl

theorem areaAct_eq (w h : Word) : areaAct n { imm := imm, words := [w, h] } s =
    checked (sizeOk w.toNat && sizeOk h.toNat) n
      (areaRow n (s.contextOf n).penX.toInt (s.contextOf n).penY.toInt w.toNat h.toNat 0) s := rfl

theorem imageAct_eq (w h low high stride : Word) : imageAct n { imm := imm, words := [w, h, low, high, stride] } s =
    checked (sizeOk w.toNat && sizeOk h.toNat && addressEven (address20 low high) && decide (rowWords w.toNat ≤ stride.toNat)) n
      (imageRow n (s.contextOf n).penX.toInt (s.contextOf n).penY.toInt w.toNat h.toNat (address20 low high) stride.toNat 0) s :=
  rfl

theorem readbackAct_eq (x y w h low : Word) : readbackAct n { imm := imm, words := [x, y, w, h, low] } s =
    checked (readbackOk x.toInt y.toInt w.toNat h.toNat (imm.extractLsb' 0 4 ++ low) (imm.extractLsb' 4 8).toNat) n
      (readbackRow n x.toInt.toNat y.toInt.toNat w.toNat h.toNat (imm.extractLsb' 0 4 ++ low) (imm.extractLsb' 4 8).toNat 0) s := rfl

theorem markAct_eq (x y w h pd : Word) : markAct n { imm := imm, words := [x, y, w, h, pd] } s =
    checked (markOk imm x.toInt y.toInt w.toNat h.toNat (pd.extractLsb' 8 8).toNat (pd.extractLsb' 0 8).toNat) n
      (fun s => completeRecord n (changeTarget (Panel.defineMarker (markerNo imm)
        (Marker.defined x.toInt.toNat y.toInt.toNat w.toNat h.toNat (pd.extractLsb' 8 8).toNat (pd.extractLsb' 0 8).toNat)) s)) s :=
  rfl

theorem unmarkAct_eq : unmarkAct n { imm := imm, words := [] } s = checked (decide (imm.toNat ≤ 1)) n
    (fun s => completeRecord n (changeTarget (Panel.removeMarker (markerNo imm)) s)) s := rfl

theorem glyphloadAct_eq (first low high : Word) : glyphloadAct n { imm := imm, words := [first, low, high] } s =
    checked (glyphloadOk (imm.extractLsb' 0 2).toNat (imm.extractLsb' 4 7).toNat first.toNat (address20 low high)) n
      (fun s =>
        match loadGlyphs n (imm.extractLsb' 0 2).toNat (imm.extractLsb' 4 7).toNat first.toNat (address20 low high) s with
        | (true, s1) => completeRecord n s1
        | (false, s1) => endBlock n .memory s1) s := rfl

theorem textAct_eq (ws : List Word) : textAct n { imm := imm, words := ws } s =
    checked (decide (1 ≤ imm.toNat) && decide (imm.toNat ≤ 255)) n (textOctet n (textOctets imm.toNat ws) 0) s := rfl

theorem waitAct_eq (v : Word) : waitAct n { imm := imm, words := [v] } s =
    if v.toNat = 0 then completeRecord n s
    else if (s.work.laneOf n).cancelRequested then endBlock n .cancelled s
    else stopLane n .waiting (fun p => { p with waitCount := v.toNat }) s := rfl

theorem drainAct_eq (v : Word) : drainAct n { imm := imm, words := [v] } s =
    if s.panel.settled then completeRecord n s
    else if (s.work.laneOf n).cancelRequested then endBlock n .cancelled s
    else stopLane n .draining (fun p => { p with limit := if v.toNat = 0 then none else some v.toNat }) s := rfl

end

/-- Settles O23: each setting record carried out behind its check. -/
theorem settingRecordsSetTheContext : Obligations.SettingRecordsSetTheContext := by
  intro n s head
  refine ⟨fun m code listed met kind imm => ?_, fun x0 y0 x1 y1 met kind left across right low up high => ?_, fun met kind scale => ?_⟩
  · have mode : drawMode code = m ∧ code ≤ 3 := by
      simp only [List.mem_cons, Prod.mk.injEq, List.not_mem_nil, or_false] at listed
      rcases listed with ⟨rfl, rfl⟩ | ⟨rfl, rfl⟩ | ⟨rfl, rfl⟩ | ⟨rfl, rfl⟩ <;> exact ⟨rfl, by decide⟩
    obtain ⟨mode, small⟩ := mode
    rw [exec_met (k := .setmode) (by simp [recordCommands]) met kind rfl]
    show Host.Outcome.next (setmodeAct n _ _) = _
    rw [setmodeAct_eq, checked_true (by rw [decide_eq_true_eq, imm]; exact small), completeRecord_modContext, imm, mode]
    rfl
  · rw [exec_met (k := .setclip) (by simp [recordCommands]) met kind rfl]
    show Host.Outcome.next (setclipAct n _ _) = _
    have ok : (clipOk x0.toInt x1.toInt && clipOk y0.toInt y1.toInt) = true := by
      rw [Bool.and_eq_true, clipOk_iff, clipOk_iff]
      exact ⟨⟨left, across, right⟩, low, up, high⟩
    rw [setclipAct_eq, checked_true ok, completeRecord_modContext, toNat_toInt_of_nonneg left, toNat_toInt_of_nonneg low,
      toNat_toInt_of_nonneg (left.trans across), toNat_toInt_of_nonneg (low.trans up)]
    rfl
  · rw [exec_met (k := .settext) (by simp [recordCommands]) met kind rfl]
    show Host.Outcome.next (settextAct n _ _) = _
    have ok : (head.extractLsb' 2 2).toNat = 1 ∨ (head.extractLsb' 2 2).toNat = 2 := by
      rcases scale with e | e <;> rw [e]
      · exact .inl rfl
      · exact .inr rfl
    rw [settextAct_eq, extractLsb'_recordImmediate head (by decide), checked_true (by rw [decide_eq_true_eq]; exact ok),
      completeRecord_modContext]
    unfold Context.withText
    rw [extractLsb'_recordImmediate head (by decide), extractLsb'_recordImmediate head (by decide),
      getLsbD_recordImmediate head (by decide)]
    rfl

/-! ## The ranges of each record -/

theorem sizeOk_iff (size : Nat) : sizeOk size = true ↔ 1 ≤ size ∧ size ≤ 512 := by simp [sizeOk]

theorem addressEven_address20 (low high : Word) : addressEven (address20 low high) = decide (low.toNat % 2 = 0) :=
  addressEven_append _ low

theorem onPanel_iff (v : Int) : onPanel v = true ↔ 0 ≤ v ∧ v ≤ 511 := by simp [onPanel]

theorem markerSizeOk_iff (size : Nat) : markerSizeOk size = true ↔ 1 ≤ size ∧ size ≤ 64 := by simp [markerSizeOk]

theorem readbackOk_iff (x y : Int) (w h : Nat) (high : BitVec 4) (low : Word) (stride : Nat) :
    readbackOk x y w h (high ++ low) stride = true ↔ 0 ≤ x ∧ x ≤ 511 ∧ 0 ≤ y ∧ y ≤ 511 ∧ 1 ≤ w ∧ w ≤ 512 ∧ 1 ≤ h ∧ h ≤ 512
      ∧ x + w ≤ 512 ∧ y + h ≤ 512 ∧ low.toNat % 2 = 0 ∧ 1 ≤ stride ∧ (w + 15) / 16 ≤ stride := by
  simp only [readbackOk, Bool.and_eq_true, onPanel_iff, sizeOk_iff, decide_eq_true_eq, addressEven_append, and_assoc]
  exact Iff.rfl

theorem markOk_iff (imm : BitVec 12) (x y : Int) (w h p d : Nat) :
    markOk imm x y w h p d = true ↔ imm.toNat ≤ 1 ∧ 0 ≤ x ∧ x ≤ 511 ∧ 0 ≤ y ∧ y ≤ 511 ∧ 1 ≤ w ∧ w ≤ 64 ∧ 1 ≤ h ∧ h ≤ 64
      ∧ x + w ≤ 512 ∧ y + h ≤ 512 ∧ 2 ≤ p ∧ d ≤ p := by
  simp only [markOk, Bool.and_eq_true, onPanel_iff, markerSizeOk_iff, decide_eq_true_eq, and_assoc]

theorem glyphloadOk_iff (set : BitVec 2) (count first : Nat) (low high : Word) :
    glyphloadOk set.toNat count first (address20 low high) = true ↔
      1 ≤ set.toNat ∧ 1 ≤ count ∧ count ≤ 96 ∧ 32 ≤ first ∧ first ≤ 127 ∧ first + count ≤ 128 ∧ low.toNat % 2 = 0 := by
  have small : set.toNat ≤ 3 := Nat.le_of_lt_succ set.isLt
  simp only [glyphloadOk, Bool.and_eq_true, decide_eq_true_eq, addressEven_address20, and_assoc, small, true_and]

/-- Settles O25: each record behind its check, which it fails. -/
theorem recordOutsideItsRangesEndsTheBlock : Obligations.RecordOutsideItsRangesEndsTheBlock := by
  intro n s head a b c d e imm bad
  refine ⟨fun met kind out => ?area, fun met kind out => ?image, fun met kind out => ?readback, fun met kind out => ?setmode,
    fun met kind out => ?setclip, fun met kind one two => ?settext, fun met kind out => ?glyphload, fun met kind out => ?mark,
    fun met kind out => ?unmark, fun ws met length kind out => ?text⟩
  case area =>
    rw [exec_met (k := .area) (by simp [recordCommands]) met kind rfl]
    refine congrArg Host.Outcome.next ((areaAct_eq n _ _ a b).trans (checked_false ?_ n _ _))
    rw [Bool.and_eq_true, sizeOk_iff, sizeOk_iff, and_assoc]
    exact out
  case image =>
    rw [exec_met (k := .image) (by simp [recordCommands]) met kind rfl]
    refine congrArg Host.Outcome.next ((imageAct_eq n _ _ a b c d e).trans (checked_false ?_ n _ _))
    simp only [Bool.and_eq_true, sizeOk_iff, decide_eq_true_eq, addressEven_address20, and_assoc]
    exact out
  case readback =>
    rw [exec_met (k := .readback) (by simp [recordCommands]) met kind rfl]
    refine congrArg Host.Outcome.next ((readbackAct_eq n _ _ a b c d e).trans (checked_false ?_ n _ _))
    rw [extractLsb'_recordImmediate head (i := 4) (by decide), readbackOk_iff]
    exact out
  case setmode =>
    rw [exec_met (k := .setmode) (by simp [recordCommands]) met kind rfl]
    refine congrArg Host.Outcome.next ((setmodeAct_eq n _ _).trans (checked_false ?_ n _ _))
    rw [decide_eq_true_eq]
    exact Nat.not_le.mpr out
  case setclip =>
    rw [exec_met (k := .setclip) (by simp [recordCommands]) met kind rfl]
    refine congrArg Host.Outcome.next ((setclipAct_eq n _ _ a b c d).trans (checked_false ?_ n _ _))
    rw [Bool.and_eq_true, clipOk_iff, clipOk_iff, and_assoc, and_assoc]
    exact out
  case settext =>
    rw [exec_met (k := .settext) (by simp [recordCommands]) met kind rfl]
    refine congrArg Host.Outcome.next ((settextAct_eq n _ _).trans (checked_false ?_ n _ _))
    rw [decide_eq_true_eq, extractLsb'_recordImmediate head (by decide)]
    rintro (e | e)
    · exact one (BitVec.eq_of_toNat_eq e)
    · exact two (BitVec.eq_of_toNat_eq e)
  case glyphload =>
    rw [exec_met (k := .glyphload) (by simp [recordCommands]) met kind rfl]
    refine congrArg Host.Outcome.next ((glyphloadAct_eq n _ _ a b c).trans (checked_false ?_ n _ _))
    rw [extractLsb'_recordImmediate head (by decide), extractLsb'_recordImmediate head (by decide), glyphloadOk_iff]
    omega
  case mark =>
    rw [exec_met (k := .mark) (by simp [recordCommands]) met kind rfl]
    refine congrArg Host.Outcome.next ((markAct_eq n _ _ a b c d e).trans (checked_false ?_ n _ _))
    rw [markOk_iff]
    exact out
  case unmark =>
    rw [exec_met (k := .unmark) (by simp [recordCommands]) met kind rfl]
    refine congrArg Host.Outcome.next ((unmarkAct_eq n _ _).trans (checked_false ?_ n _ _))
    rw [decide_eq_true_eq]
    exact Nat.not_le.mpr out
  case text =>
    have words : recordLength .text (recordImmediate head) = ws.length + 1 := by
      rw [length]
      exact Nat.add_comm 1 _
    rw [exec_met (k := .text) (by simp [recordCommands]) met kind words, Nat.add_comm]
    refine congrArg Host.Outcome.next ((textAct_eq n _ _ ws).trans (checked_false ?_ n _ _))
    rw [Bool.and_eq_true, decide_eq_true_eq, decide_eq_true_eq]
    omega

/-! ## WAIT and DRAIN -/

/-- The ACTIVE lane stops at its record and gives the engine back (R64, R65). -/
theorem stopLane_quiet {n : LaneNo} {s : State} (q : s.work.bus = []) (active : s.work.activeLane = some n) (st : LaneState)
    (f : Progress → Progress) : stopLane n st f s = s.onWork fun w => settleLanes
      (Work.recorded n (({ w with lanes := { w.lanes with activeValid := false } } : Work).modLane n fun l =>
        { l with state := st, progress := f l.progress })) := by
  unfold stopLane State.onWork
  dsimp only
  rw [release_of_active (by exact active), writeLaneRecord_quiet n 0 (by exact q)]
  rfl

theorem modLane_recordTaken (n : LaneNo) (length : Nat) (s : State) :
    completeRecord n (s.modLane n (Lane.wordsRead length)) = pointInside n (s.modLane n (Lane.recordTaken length)) := by
  rw [completeRecord_eq, State.modLane_modLane]
  rfl

/-- The lane stops at a record of two words that it has just read. -/
theorem stopLane_met {n : LaneNo} {s : State} {ws : List Word} (met : s.MeetsRecord n ws) (st : LaneState) (f : Progress → Progress) :
    stopLane n st f (s.modLane n (Lane.wordsRead 2)) = s.onWork fun _ => settleLanes (Work.recorded n
      (({ s.work with lanes := { s.work.lanes with activeValid := false } } : Work).modLane n fun l =>
        { l.wordsRead 2 with state := st, progress := f (l.wordsRead 2).progress })) := by
  rw [stopLane_quiet (by exact met.quiet) (by exact Work.activeLane_of_served met.served)]
  have twice := Work.modLane_modLane ({ s.work with lanes := { s.work.lanes with activeValid := false } } : Work) n
    (Lane.wordsRead 2) fun l => { l with state := st, progress := f l.progress }
  exact congrArg (fun w => ({ s with work := settleLanes (w.recorded n) } : State)) twice

/-- Settles O35: a WAIT and a DRAIN by what they wait for and whether the lane is to be cancelled. -/
theorem waitAndDrainHoldTheLane : Obligations.WaitAndDrainHoldTheLane := by
  intro n s head v met freed
  have nonzero (h : v ≠ 0) : v.toNat ≠ 0 := fun e => h (BitVec.eq_of_toNat_eq e)
  have lane : (s.modLane n (Lane.wordsRead 2)).work.laneOf n = (s.work.laneOf n).wordsRead 2 := s.work.laneOf_modLane_same n _
  have cancels : ((s.modLane n (Lane.wordsRead 2)).work.laneOf n).cancelRequested = (s.work.laneOf n).cancelRequested := by
    rw [lane]
    rfl
  have waits (kind : recordKind head = .wait) := exec_met (k := .wait) (c := .wait) (by simp [recordCommands]) met kind rfl
  have drains (kind : recordKind head = .drain) := exec_met (k := .drain) (c := .drain) (by simp [recordCommands]) met kind rfl
  have waitRuns := waitAct_eq n (recordImmediate head) (s.modLane n (Lane.wordsRead 2)) v
  have drainRuns := drainAct_eq n (recordImmediate head) (s.modLane n (Lane.wordsRead 2)) v
  rw [cancels] at waitRuns drainRuns
  refine ⟨fun kind zero => ?_, fun kind some cancel => ?_, fun kind some cancel => ?_, fun kind settled => ?_,
    fun kind open_ cancel => ?_, fun kind open_ cancel => ?_⟩
  · rw [waits kind]
    subst zero
    exact congrArg Host.Outcome.next (waitRuns.trans (modLane_recordTaken n 2 s))
  · rw [waits kind]
    rw [if_neg (nonzero some), if_pos cancel] at waitRuns
    exact congrArg Host.Outcome.next waitRuns
  · rw [waits kind]
    rw [if_neg (nonzero some), if_neg (by rw [cancel]; decide), stopLane_met met] at waitRuns
    exact congrArg Host.Outcome.next waitRuns
  · rw [drains kind]
    rw [if_pos (by exact settled)] at drainRuns
    exact congrArg Host.Outcome.next (drainRuns.trans (modLane_recordTaken n 2 s))
  · rw [drains kind]
    rw [if_neg (by rw [show (s.modLane n (Lane.wordsRead 2)).panel.settled = false from open_]; decide), if_pos cancel] at drainRuns
    exact congrArg Host.Outcome.next drainRuns
  · rw [drains kind]
    rw [if_neg (by rw [show (s.modLane n (Lane.wordsRead 2)).panel.settled = false from open_]; decide),
      if_neg (by rw [cancel]; decide), stopLane_met met] at drainRuns
    have same : (if v.toNat = 0 then (none : Option Nat) else some v.toNat) = if v = 0 then none else some v.toNat := by
      by_cases zero : v = 0
      · subst zero
        rfl
      · rw [if_neg zero, if_neg (nonzero zero)]
    rw [same] at drainRuns
    exact congrArg Host.Outcome.next drainRuns

end Sys2Proof.Machine

/-! Rows painted one after another: what they leave of D cell by cell, which rows join and how many cells are counted, where no
cell is painted twice. -/

namespace Sys2Proof.Machine

/-! ## A cell under a mode -/

/-- What a mode makes of a cell, whose 1 cell and 0 cell of the row's pattern are given (R85). -/
def DrawMode.ofBits (m : DrawMode) (one zero old : Bool) : Bool :=
  match m with
  | .set => old || one
  | .clear => old && !one
  | .replace => (old && !zero) || one
  | .invert => old != one

@[simp] theorem DrawMode.ofBits_neither (m : DrawMode) (old : Bool) : m.ofBits false false old = old := by
  cases m <;> simp [DrawMode.ofBits]

theorem DrawMode.ofBits_figure (m : DrawMode) (old : Bool) : m.ofBits true false old = m.ofFigure old := by
  cases m <;> simp [DrawMode.ofBits, DrawMode.ofFigure]

theorem DrawMode.ofBits_pattern (m : DrawMode) (pattern old : Bool) : m.ofBits pattern (!pattern) old = m.ofPattern pattern old := by
  cases m <;> cases pattern <;> simp [DrawMode.ofBits, DrawMode.ofPattern]

theorem getLsbD_paintCells (m : DrawMode) (ones zeros old : Cols) (x : Fin 512) :
    (paintCells m ones zeros old).getLsbD x.val = m.ofBits (ones.getLsbD x.val) (zeros.getLsbD x.val) (old.getLsbD x.val) := by
  have inRow : decide (x.val < 512) = true := decide_eq_true x.isLt
  cases m <;> simp [paintCells, DrawMode.ofBits]

/-- Cells outside the window are no cells of the row that is painted (R84). -/
theorem Context.getLsbD_paintedRow (c : Context) (ones zeros old : Cols) (x : Fin 512) :
    (c.paintedRow ones zeros old).getLsbD x.val = if c.clipX0 ≤ x.val ∧ x.val ≤ c.clipX1 then
      c.mode.ofBits (ones.getLsbD x.val) (zeros.getLsbD x.val) (old.getLsbD x.val) else old.getLsbD x.val := by
  unfold Context.paintedRow
  rw [getLsbD_paintCells, BitVec.getLsbD_and, BitVec.getLsbD_and, getLsbD_columnsInside]
  by_cases inside : c.clipX0 ≤ x.val ∧ x.val ≤ c.clipX1
  · simp [inside]
  · simp [inside]

/-! ## A plane with rows painted on it -/

/-- The drawn plane with a row painted on it (R83 to R85). -/
def Plane.painted (c : Context) (row : PaintedRow) (d : Plane) : Plane :=
  Vector.ofFn fun r : Row =>
    if (r.val : Int) = row.y ∧ c.rowInside r = true then c.paintedRow row.ones row.zeros d[r.val] else d[r.val]

/-- The drawn plane with rows painted on it, one after another. -/
def Plane.paintedAll (c : Context) (rows : List PaintedRow) (d : Plane) : Plane := rows.foldl (fun d row => d.painted c row) d

/-- The row paints cell (x, y), where that lies inside the window. -/
def PaintedRow.Covers (row : PaintedRow) (x : Fin 512) (y : Row) : Prop :=
  (y.val : Int) = row.y ∧ (row.ones.getLsbD x.val = true ∨ row.zeros.getLsbD x.val = true)

theorem Plane.getElem_painted (c : Context) (row : PaintedRow) (d : Plane) (r : Row) : (d.painted c row)[r.val] =
    if (r.val : Int) = row.y ∧ c.rowInside r = true then c.paintedRow row.ones row.zeros d[r.val] else d[r.val] := by
  simp [Plane.painted]

theorem Panel.rowDrawn_eq (c : Context) (row : PaintedRow) (p : Panel) : p.rowDrawn c row = p.drawn.painted c row := by
  refine Vector.ext fun i h => ?_
  have drawn := p.getElem_rowDrawn c row ⟨i, h⟩
  rw [← Plane.getElem_painted c row p.drawn ⟨i, h⟩] at drawn
  exact drawn

/-- Two planes with the same cells. -/
theorem Plane.ext_cell {d e : Plane} (h : ∀ x y, d.cell x y = e.cell x y) : d = e :=
  Vector.ext fun i hi => BitVec.eq_of_getLsbD_eq fun j hj => h ⟨j, hj⟩ ⟨i, hi⟩

section

variable {c : Context} {row : PaintedRow} {x : Fin 512} {y : Row}

theorem Context.inside_iff : c.inside x y ↔ (c.clipX0 ≤ x.val ∧ x.val ≤ c.clipX1) ∧ c.rowInside y = true := by
  simp [Context.inside, Context.rowInside, and_assoc]

theorem Plane.cell_painted_inside (d : Plane) (here : (y.val : Int) = row.y) (inside : c.inside x y) : (d.painted c row).cell x y =
    c.mode.ofBits (row.ones.getLsbD x.val) (row.zeros.getLsbD x.val) (d.cell x y) := by
  obtain ⟨columns, rows⟩ := Context.inside_iff.mp inside
  unfold Plane.cell
  rw [Plane.getElem_painted, if_pos ⟨here, rows⟩, Context.getLsbD_paintedRow, if_pos columns]

theorem Plane.cell_painted_outside (d : Plane) (h : ¬((y.val : Int) = row.y ∧ c.inside x y)) :
    (d.painted c row).cell x y = d.cell x y := by
  unfold Plane.cell
  rw [Plane.getElem_painted]
  split
  · next both =>
    obtain ⟨here, rows⟩ := both
    rw [Context.getLsbD_paintedRow, if_neg fun columns => h ⟨here, Context.inside_iff.mpr ⟨columns, rows⟩⟩]
  · rfl

theorem Plane.cell_painted_away (d : Plane) (away : ¬row.Covers x y) : (d.painted c row).cell x y = d.cell x y := by
  by_cases both : (y.val : Int) = row.y ∧ c.inside x y
  · obtain ⟨here, inside⟩ := both
    obtain ⟨one, zero⟩ := not_or.mp fun h => away ⟨here, h⟩
    rw [Bool.not_eq_true] at one zero
    rw [Plane.cell_painted_inside d here inside, one, zero, DrawMode.ofBits_neither]
  · exact Plane.cell_painted_outside d both

/-- What a row's paint makes of a cell depends on that cell alone. -/
theorem Plane.cell_painted_congr {d e : Plane} (same : d.cell x y = e.cell x y) :
    (d.painted c row).cell x y = (e.painted c row).cell x y := by
  by_cases both : (y.val : Int) = row.y ∧ c.inside x y
  · obtain ⟨here, inside⟩ := both
    rw [Plane.cell_painted_inside d here inside, Plane.cell_painted_inside e here inside, same]
  · rw [Plane.cell_painted_outside d both, Plane.cell_painted_outside e both, same]

end

theorem Plane.paintedAll_nil (c : Context) (d : Plane) : d.paintedAll c [] = d := by
  unfold Plane.paintedAll
  rw [List.foldl_nil]

theorem Plane.paintedAll_cons (c : Context) (row : PaintedRow) (rest : List PaintedRow) (d : Plane) :
    d.paintedAll c (row :: rest) = (d.painted c row).paintedAll c rest := by
  unfold Plane.paintedAll
  rw [List.foldl_cons]

theorem Plane.cell_paintedAll_away {c : Context} {rows : List PaintedRow} (d : Plane) {x : Fin 512} {y : Row}
    (away : ∀ row ∈ rows, ¬row.Covers x y) : (d.paintedAll c rows).cell x y = d.cell x y := by
  induction rows generalizing d with
  | nil => rfl
  | cons row rest ih =>
    rw [Plane.paintedAll_cons, ih _ fun r mem => away r (List.mem_cons_of_mem _ mem), Plane.cell_painted_away d (away row List.mem_cons_self)]

/-- The rows paint no cell twice. -/
def ApartRows (rows : List PaintedRow) : Prop := rows.Pairwise fun a b => ∀ x y, a.Covers x y → ¬b.Covers x y

/-- A cell that one of the rows covers is as that row alone paints it. -/
theorem Plane.cell_paintedAll_of_covers {c : Context} {rows : List PaintedRow} (apart : ApartRows rows) (d : Plane)
    {row : PaintedRow} (mem : row ∈ rows) {x : Fin 512} {y : Row} (covers : row.Covers x y) :
    (d.paintedAll c rows).cell x y = (d.painted c row).cell x y := by
  induction rows generalizing d with
  | nil => cases mem
  | cons first rest ih =>
    obtain ⟨ahead, apart⟩ := List.pairwise_cons.mp apart
    rw [Plane.paintedAll_cons]
    obtain rfl | mem := List.mem_cons.mp mem
    · exact Plane.cell_paintedAll_away _ fun r later => ahead r later x y covers
    · have away : ¬first.Covers x y := fun h => ahead row mem x y h covers
      rw [ih apart _ mem]
      exact Plane.cell_painted_congr (Plane.cell_painted_away d away)

/-! ## Counting -/

theorem countBits_xor (n : Nat) {a b : Nat} (apart : a &&& b = 0) : countBits n (a ^^^ b) = countBits n a + countBits n b := by
  induction n generalizing a b with
  | zero => rfl
  | succ n ih =>
    have halves : a / 2 &&& b / 2 = 0 := by rw [← Nat.and_div_two, apart]
    have bits : (a ^^^ b) % 2 = a % 2 + b % 2 := by
      have low : (a % 2) &&& (b % 2) = 0 := by
        have := congrArg (· % 2) apart
        simpa [Nat.and_mod_two_pow (n := 1)] using this
      have sum : (a ^^^ b) % 2 = (a % 2) ^^^ (b % 2) := Nat.xor_mod_two_pow (n := 1)
      rw [sum]
      obtain ha | ha := Nat.mod_two_eq_zero_or_one a <;> obtain hb | hb := Nat.mod_two_eq_zero_or_one b <;>
        simp [ha, hb] at low ⊢
    unfold countBits
    rw [Nat.xor_div_two, ih halves, bits]
    omega

theorem countCols_xor {a b : Cols} (apart : a &&& b = 0) : countCols (a ^^^ b) = countCols a + countCols b := by
  unfold countCols
  rw [BitVec.toNat_xor]
  refine countBits_xor 512 ?_
  rw [← BitVec.toNat_and, apart]
  exact BitVec.toNat_zero

/-- Setting a row counts its cells besides those counted before, where it changes none of them again. -/
theorem Plane.changes_set_add (p d : Plane) (r : Row) (new : Cols) (apart : (p[r.val] ^^^ d[r.val]) &&& (d[r.val] ^^^ new) = 0) :
    p.changes (d.set r.val new) = p.changes d + countCols (d[r.val] ^^^ new) := by
  have here : countCols (p[r.val] ^^^ (d.set r.val new)[r.val]) = countCols (p[r.val] ^^^ d[r.val]) + countCols (d[r.val] ^^^ new) := by
    rw [← countCols_xor apart, Vector.getElem_set_self, BitVec.xor_assoc, ← BitVec.xor_assoc d[r.val], BitVec.xor_self,
      BitVec.zero_xor]
  have there : ∀ q ∈ Finset.univ.erase r, countCols (p[q.val] ^^^ (d.set r.val new)[q.val]) = countCols (p[q.val] ^^^ d[q.val]) := by
    intro q mem
    have ne : q ≠ r := Finset.ne_of_mem_erase mem
    rw [Vector.getElem_set_ne _ _ fun e => ne (Fin.ext e.symm)]
  unfold Plane.changes allRows
  rw [← Fin.sum_univ_def, ← Fin.sum_univ_def, ← Finset.add_sum_erase _ _ (Finset.mem_univ r),
    ← Finset.add_sum_erase (a := r) _ (fun q : Row => countCols (p[q.val] ^^^ d[q.val])) (Finset.mem_univ r), here,
    Finset.sum_congr rfl there]
  omega

end Sys2Proof.Machine

/-! Rows drawn one after another: the rows that join, in the order in which the drawing reaches them. -/

namespace Sys2Proof.Machine

/-! ## Rows in an order -/

/-- An order of all rows: `before` holds between each row and the later ones only. -/
structure RowOrder (before : Row → Row → Prop) (order : List Row) : Prop where
  all : ∀ r, r ∈ order
  sorted : order.Pairwise before
  asymm : ∀ q r, before q r → ¬before r q

theorem RowOrder.ascending : RowOrder (· < ·) allRows :=
  ⟨mem_allRows, List.pairwise_lt_finRange 512, fun _ _ => lt_asymm⟩

theorem RowOrder.descending : RowOrder (· > ·) allRows.reverse :=
  ⟨fun r => List.mem_reverse.mpr (mem_allRows r), List.pairwise_reverse.mpr (List.pairwise_lt_finRange 512), fun _ _ => lt_asymm⟩

/-- One row more, behind those chosen before, is the last of the choice. -/
theorem RowOrder.filter_add {before : Row → Row → Prop} {order : List Row} (h : RowOrder before order) {f g : Row → Bool} {r : Row}
    (new : g r = true) (old : f r = false) (same : ∀ q, q ≠ r → g q = f q) (earlier : ∀ q, f q = true → before q r) :
    order.filter g = order.filter f ++ [r] := by
  obtain ⟨front, back, e⟩ := List.append_of_mem (h.all r)
  have sorted := h.sorted
  rw [e] at sorted
  obtain ⟨_, tail, across⟩ := List.pairwise_append.mp sorted
  obtain ⟨after, _⟩ := List.pairwise_cons.mp tail
  have irrefl : ¬before r r := fun b => h.asymm r r b b
  have frontSame : front.filter g = front.filter f := by
    refine List.filter_congr fun q mem => same q fun e => ?_
    subst e
    exact irrefl (across q mem q List.mem_cons_self)
  have noneBehind : back.filter f = [] := by
    rw [List.filter_eq_nil_iff]
    exact fun q mem chosen => h.asymm r q (after q mem) (earlier q chosen)
  have backSame : back.filter g = [] := by
    rw [← noneBehind]
    refine List.filter_congr fun q mem => same q fun e => ?_
    subst e
    exact irrefl (after q mem)
  rw [e, List.filter_append, List.filter_append, List.filter_cons_of_pos new, List.filter_cons_of_neg (by rw [old]; decide),
    frontSame, noneBehind, backSame, List.append_nil]

/-- The rows of a drawing come in this order. -/
def RowsInOrder (before : Row → Row → Prop) (rows : List PaintedRow) : Prop :=
  rows.Pairwise fun a b => ∀ q r : Row, (q.val : Int) = a.y → (r.val : Int) = b.y → q = r ∨ before q r

/-! ## One row more -/

/-- The panel with D drawn to `d`, whose CLEAN rows that changed have joined (R10). -/
def Panel.drawnTo (order : List Row) (d : Plane) (p : Panel) : Panel :=
  { p with drawn := d, queue := p.queue ++ p.joining order d }

section

variable {p : Panel} {before : Row → Row → Prop} {order : List Row}

theorem Panel.joining_congr {d e : Plane} (same : ∀ q : Row, (d[q.val] ≠ p.drawn[q.val]) ↔ (e[q.val] ≠ p.drawn[q.val])) :
    p.joining order d = p.joining order e := by
  refine List.filter_congr fun q _ => ?_
  rw [Bool.eq_iff_iff]
  simp only [Bool.and_eq_true, decide_eq_true_eq, bne_iff_ne]
  rw [same q]

theorem Panel.joining_add (ordered : RowOrder before order) {d : Plane} {r : Row} {new : Cols} (changed : new ≠ p.drawn[r.val])
    (earlier : ∀ q : Row, d[q.val] ≠ p.drawn[q.val] → q = r ∨ before q r) : p.joining order (d.set r.val new) =
      p.joining order d ++ if p.rowState r = .clean ∧ r ∉ p.joining order d then [r] else [] := by
  have other (q : Row) (ne : q ≠ r) : (d.set r.val new)[q.val] = d[q.val] :=
    Vector.getElem_set_ne _ _ fun e => ne (Fin.ext e.symm)
  by_cases was : d[r.val] = p.drawn[r.val]
  · have out : r ∉ p.joining order d := by
      rw [Panel.mem_joining]
      exact fun h => h.2.2 was
    by_cases clean : p.rowState r = .clean
    · rw [if_pos ⟨clean, out⟩]
      refine ordered.filter_add ?_ ?_ (fun q ne => ?_) fun q chosen => ?_
      · simp [clean, changed]
      · simp [was]
      · rw [other q ne]
      · simp only [Bool.and_eq_true, decide_eq_true_eq, bne_iff_ne] at chosen
        refine (earlier q chosen.2).resolve_left fun e => ?_
        subst e
        exact chosen.2 was
    · rw [if_neg fun h => clean h.1, List.append_nil]
      refine List.filter_congr fun q _ => ?_
      by_cases e : q = r
      · subst e
        simp [clean]
      · rw [other q e]
  · have same : p.joining order (d.set r.val new) = p.joining order d := by
      refine Panel.joining_congr fun q => ?_
      by_cases e : q = r
      · subst e
        rw [Vector.getElem_set_self]
        exact iff_of_true changed was
      · rw [other q e]
    have already : ¬(p.rowState r = .clean ∧ r ∉ p.joining order d) :=
      fun h => h.2 ((p.mem_joining order d r).mpr ⟨ordered.all r, h.1, was⟩)
    rw [same, if_neg already, List.append_nil]

theorem Panel.drawnTo_rowState (order : List Row) (d : Plane) (r : Row) :
    (p.drawnTo order d).rowState r = .clean ↔ p.rowState r = .clean ∧ r ∉ p.joining order d := by
  rw [Panel.rowState_eq_clean, Panel.rowState_eq_clean]
  show p.firingRow ≠ some r ∧ r ∉ p.queue ++ p.joining order d ↔ _
  rw [List.mem_append, not_or, and_assoc]

/-- One row more, of which no cell was changed before, and behind the rows that were (R6, R10, R89). -/
theorem Panel.Sound.paintRow_drawnTo (h : p.Sound) (ordered : RowOrder before order) (c : Context) (row : PaintedRow) {d : Plane}
    (fresh : ∀ x y, row.Covers x y → d.cell x y = p.drawn.cell x y)
    (earlier : ∀ q r : Row, d[q.val] ≠ p.drawn[q.val] → (r.val : Int) = row.y → q = r ∨ before q r) :
    ∃ k, (p.drawnTo order d).paintRow c row.y row.ones row.zeros = (p.drawnTo order (d.painted c row), k) ∧
      p.drawn.changes (d.painted c row) = p.drawn.changes d + k := by
  have drawn : (p.drawnTo order d).rowDrawn c row = d.painted c row := Panel.rowDrawn_eq c row _
  obtain ⟨e, -⟩ | ⟨r, here, -, changed, e⟩ := (p.drawnTo order d).paintRow_cases c row.y row.ones row.zeros
  · have same : d.painted c row = d := by
      rw [← drawn, Panel.rowDrawn, e]
      rfl
    exact ⟨0, by rw [e, same], by rw [same, Nat.add_zero]⟩
  · let new := c.paintedRow row.ones row.zeros d[r.val]
    have changed : new ≠ d[r.val] := changed
    have set : d.painted c row = d.set r.val new := by
      rw [← drawn, Panel.rowDrawn, e, Panel.join_eq]
      rfl
    have newRow : (d.painted c row)[r.val] = new := by rw [set, Vector.getElem_set_self]
    have kept (x : Fin 512) (away : ¬row.Covers x r) : new.getLsbD x.val = d[r.val].getLsbD x.val := by
      have cell := Plane.cell_painted_away (c := c) d away
      unfold Plane.cell at cell
      rwa [newRow] at cell
    have apart : (p.drawn[r.val] ^^^ d[r.val]) &&& (d[r.val] ^^^ new) = 0 := by
      refine BitVec.eq_of_getLsbD_eq fun i hi => ?_
      rw [BitVec.getLsbD_and, BitVec.getLsbD_xor, BitVec.getLsbD_xor]
      by_cases covers : row.Covers ⟨i, hi⟩ r
      · have same : d[r.val].getLsbD i = p.drawn[r.val].getLsbD i := fresh _ _ covers
        rw [same]
        simp
      · have same : new.getLsbD i = d[r.val].getLsbD i := kept ⟨i, hi⟩ covers
        rw [same]
        simp
    have away : new ≠ p.drawn[r.val] := by
      intro back
      rw [← back, BitVec.xor_comm d[r.val] new, BitVec.and_self] at apart
      exact changed (BitVec.xor_eq_zero_iff.mp apart)
    refine ⟨countCols (d[r.val] ^^^ new), ?_, by rw [set]; exact p.drawn.changes_set_add d r new apart⟩
    have joins := p.joining_add ordered away fun q moved => earlier q r moved here
    have differs (clean : p.rowState r = .clean) : ({ p with drawn := d.set r.val new } : Panel).differs r = true :=
      Panel.differs_withDrawn (h.cleanAgrees r clean) (by rw [Vector.getElem_set_self]; exact away)
    rw [e, set]
    refine Prod.ext ?_ rfl
    show Panel.join r { p.drawnTo order d with drawn := d.set r.val new } = p.drawnTo order (d.set r.val new)
    have both : (Panel.rowState { p.drawnTo order d with drawn := d.set r.val new } r = .clean ∧
        Panel.differs { p.drawnTo order d with drawn := d.set r.val new } r = true) ↔
          p.rowState r = .clean ∧ r ∉ p.joining order d := by
      rw [← Panel.drawnTo_rowState]
      refine ⟨fun k => k.1, fun clean => ⟨clean, ?_⟩⟩
      exact differs ((Panel.drawnTo_rowState order d r).mp clean).1
    have target : p.drawnTo order (d.set r.val new) = { p with
        drawn := d.set r.val new
        queue := (p.queue ++ p.joining order d) ++ if p.rowState r = .clean ∧ r ∉ p.joining order d then [r] else [] } := by
      unfold Panel.drawnTo
      rw [joins, List.append_assoc]
    rw [target, Panel.join_eq]
    exact congrArg (fun joined => ({ p with
      drawn := d.set r.val new, queue := (p.queue ++ p.joining order d) ++ joined } : Panel)) (if_congr both rfl rfl)

/-- Rows painted one after another: D, the rows that join, and the number of cells changed (R6, R10, R89). -/
theorem Panel.Sound.paintRows_drawnTo (h : p.Sound) (ordered : RowOrder before order) (c : Context) {rows : List PaintedRow}
    (apart : ApartRows rows) (inOrder : RowsInOrder before rows) {d : Plane}
    (fresh : ∀ row ∈ rows, ∀ x y, row.Covers x y → d.cell x y = p.drawn.cell x y)
    (earlier : ∀ row ∈ rows, ∀ q r : Row, d[q.val] ≠ p.drawn[q.val] → (r.val : Int) = row.y → q = r ∨ before q r) :
    ∃ k, (p.drawnTo order d).paintRows c rows = (p.drawnTo order (d.paintedAll c rows), k) ∧
      p.drawn.changes (d.paintedAll c rows) = p.drawn.changes d + k := by
  induction rows generalizing d with
  | nil => exact ⟨0, by rw [Plane.paintedAll_nil, Panel.paintRows], by rw [Plane.paintedAll_nil, Nat.add_zero]⟩
  | cons row rest ih =>
    obtain ⟨ahead, apart⟩ := List.pairwise_cons.mp apart
    obtain ⟨first, inOrder⟩ := List.pairwise_cons.mp inOrder
    obtain ⟨k, painted, count⟩ := h.paintRow_drawnTo ordered c row (fresh row List.mem_cons_self) (earlier row List.mem_cons_self)
    have others : ∀ r ∈ rest, ∀ x y, r.Covers x y → (d.painted c row).cell x y = p.drawn.cell x y := by
      intro r mem x y covers
      rw [Plane.cell_painted_away d fun own => ahead r mem x y own covers]
      exact fresh r (List.mem_cons_of_mem _ mem) x y covers
    have behind : ∀ later ∈ rest, ∀ q r : Row, (d.painted c row)[q.val] ≠ p.drawn[q.val] → (r.val : Int) = later.y →
        q = r ∨ before q r := by
      intro later mem q r moved here
      by_cases own : (q.val : Int) = row.y
      · exact first later mem q r own here
      · rw [Plane.getElem_painted, if_neg fun h => own h.1] at moved
        exact earlier later (List.mem_cons_of_mem _ mem) q r moved here
    obtain ⟨m, paintedRest, countRest⟩ := ih apart inOrder others behind
    refine ⟨k + m, ?_, by rw [Plane.paintedAll_cons, countRest, count, Nat.add_assoc]⟩
    rw [Panel.paintRows, painted]
    dsimp only
    rw [paintedRest, Plane.paintedAll_cons]

/-- A drawing that paints no cell twice and reaches its rows in this order (R6, R10, R89). -/
theorem Panel.Sound.paintRows_eq (h : p.Sound) (ordered : RowOrder before order) (c : Context) {rows : List PaintedRow}
    (apart : ApartRows rows) (inOrder : RowsInOrder before rows) : p.paintRows c rows =
      (p.drawnTo order (p.drawn.paintedAll c rows), p.drawn.changes (p.drawn.paintedAll c rows)) := by
  have start : p.drawnTo order p.drawn = p := by
    unfold Panel.drawnTo
    rw [Panel.joining_self, List.append_nil]
  obtain ⟨k, painted, count⟩ := h.paintRows_drawnTo ordered c apart inOrder (d := p.drawn) (fun _ _ _ _ _ => rfl)
    fun _ _ _ _ moved => absurd rfl moved
  rw [start] at painted
  rw [Plane.changes_self, Nat.zero_add] at count
  rw [painted, count]

end

/-- A drawing in the context of lane `n`: its cells are changed and counted, and its rows join (R6, R10, R89). -/
theorem drawRows_inOrder {s : State} (h : s.panel.Sound) {before : Row → Row → Prop} {order : List Row}
    (ordered : RowOrder before order) (n : LaneNo) {rows : List PaintedRow} (apart : ApartRows rows)
    (inOrder : RowsInOrder before rows) :
    let d := s.panel.drawn.paintedAll (s.contextOf n) rows
    drawRows n rows s = s.afterDrawing n (Lane.counted (s.panel.drawn.changes d)) order d := by
  intro d
  have changed : changeTarget (fun _ => s.panel.drawnTo order d) s = s.onPanel (Panel.afterJoins order d) := by
    rw [changeTarget_withDrawn h _ d _ rfl (h.joining_differs order d)]
    simp only [State.onPanel, Panel.afterJoins_eq]
  unfold drawRows
  rw [h.paintRows_eq ordered (s.contextOf n) apart inOrder]
  dsimp only
  rw [changed, countCells_eq, State.onPanel_afterJoins_modLane]

end Sys2Proof.Machine

/-! The figures: what a drawing of figure rows leaves of D, an AREA row by row, and the cells of a VECTOR's line. -/

namespace Sys2Proof.Machine

/-! ## A drawing's cells -/

theorem getLsbD_zeroCols (x : Nat) : (0 : Cols).getLsbD x = false := BitVec.getLsbD_zero

theorem Plane.cell_paintedAll_outside {c : Context} {rows : List PaintedRow} (d : Plane) {x : Fin 512} {y : Row}
    (outside : ¬c.inside x y) : (d.paintedAll c rows).cell x y = d.cell x y := by
  induction rows generalizing d with
  | nil => rw [Plane.paintedAll_nil]
  | cons row rest ih => rw [Plane.paintedAll_cons, ih, Plane.cell_painted_outside d fun h => outside h.2]

/-- Figure rows that paint no cell twice draw the figure of the cells that they cover (R83 to R85). -/
theorem figureDrawn_paintedAll {c : Context} {rows : List PaintedRow} (apart : ApartRows rows) (figure : ∀ row ∈ rows, row.zeros = 0)
    (d : Plane) : FigureDrawn c (fun x y => ∃ row ∈ rows, row.Covers x y) d (d.paintedAll c rows) := by
  intro x y
  constructor
  · rintro ⟨⟨row, mem, covers⟩, inside⟩
    obtain ⟨here, one | zero⟩ := covers
    · rw [Plane.cell_paintedAll_of_covers apart d mem ⟨here, .inl one⟩, Plane.cell_painted_inside d here inside, one,
        figure row mem, getLsbD_zeroCols, DrawMode.ofBits_figure]
    · rw [figure row mem, getLsbD_zeroCols] at zero
      cases zero
  · intro away
    by_cases inside : c.inside x y
    · exact Plane.cell_paintedAll_away d fun row mem covers => away ⟨⟨row, mem, covers⟩, inside⟩
    · exact Plane.cell_paintedAll_outside d inside

/-- Rows of a pattern that paint no cell twice draw the box of the cells that they cover (R83 to R85). -/
theorem patternDrawn_paintedAll {c : Context} {rows : List PaintedRow} (apart : ApartRows rows) {pattern : Fin 512 → Row → Bool}
    (shows : ∀ row ∈ rows, ∀ x y, row.Covers x y →
      row.ones.getLsbD x.val = pattern x y ∧ row.zeros.getLsbD x.val = !pattern x y)
    (d : Plane) : PatternDrawn c (fun x y => ∃ row ∈ rows, row.Covers x y) pattern d (d.paintedAll c rows) := by
  intro x y
  constructor
  · rintro ⟨⟨row, mem, covers⟩, inside⟩
    obtain ⟨one, zero⟩ := shows row mem x y covers
    rw [Plane.cell_paintedAll_of_covers apart d mem covers, Plane.cell_painted_inside d covers.1 inside, one, zero,
      DrawMode.ofBits_pattern]
  · intro away
    by_cases inside : c.inside x y
    · exact Plane.cell_paintedAll_away d fun row mem covers => away ⟨⟨row, mem, covers⟩, inside⟩
    · exact Plane.cell_paintedAll_outside d inside

theorem PatternDrawn.congr {c : Context} {f g : Fin 512 → Row → Prop} {pattern : Fin 512 → Row → Bool} {p q : Plane}
    (h : PatternDrawn c f pattern p q) (e : ∀ x y, f x y ↔ g x y) : PatternDrawn c g pattern p q := by
  have same : f = g := funext₂ fun x y => propext (e x y)
  exact same ▸ h

/-! ## A row or octet of a record that is divided -/

theorem Lane.counted_afterPart (k h m : Nat) (next : RecordInHand) (l : Lane) :
    (l.counted k).afterPart h m next = (l.afterPart h m next).counted k := by
  unfold Lane.afterPart
  split <;> rfl

/-- A row drawn, with what is kept in hand behind it (R69, R87). -/
theorem afterRow_afterDrawing (n : LaneNo) (h k : Nat) (inHand : Nat → RecordInHand) (f : Lane → Lane) (order : List Row) (d : Plane)
    (s : State) : afterRow n h k inHand (s.afterDrawing n f order d) =
      pointInside n (s.afterDrawing n (fun l => (f l).afterPart h k (inHand (k + 1))) order d) := by
  rw [afterRow_eq, State.afterDrawing_modLane]

theorem modLane_wordsRead_zero (n : LaneNo) (s : State) : s.modLane n (Lane.wordsRead 0) = s := by
  have same : s.work.modLane n (Lane.wordsRead 0) = s.work := s.work.modLane_id n
  unfold State.modLane State.onWork
  dsimp only
  rw [same]

/-! ## AREA -/

/-- One row of an AREA, behind the words that were read for it (R94, R95). -/
theorem areaRow_taken {s : State} (sound : s.panel.Sound) (n : LaneNo) (x y : Int) (w h k read : Nat) :
    ∃ t, areaRow n x y w h k (s.modLane n (Lane.wordsRead read)) = pointInside n t ∧ AreaRowTaken n x y w h k read s t := by
  let d := s.panel.rowDrawn (s.contextOf n) (figureRow (y + k) (colsSpan x w))
  have drawn := drawRows_single (s := s.modLane n (Lane.wordsRead read)) sound n (figureRow (y + k) (colsSpan x w))
  rw [contextOf_wordsRead] at drawn
  refine ⟨s.afterDrawing n (fun l => ((l.wordsRead read).afterPart h k (.area x y w h (k + 1))).counted (s.panel.drawn.changes d))
    allRows d, ?_, drawsOnly_afterDrawing sound n _ mem_allRows d, ?_, ?_⟩
  · unfold areaRow
    rw [drawn, afterRow_afterDrawing, State.modLane_afterDrawing]
    simp only [Lane.counted_afterPart]
    rfl
  · rw [State.afterDrawing_panel, Panel.afterJoins_drawn]
    exact figureDrawn_rowDrawn (s.contextOf n) x (y + k) w s.panel
  · rw [State.afterDrawing_panel, Panel.afterJoins_drawn, State.afterDrawing_laneOf]

/-- Settles O28: the first row behind the check, and each later one from what is in hand, are one row drawn. -/
theorem areaFillsOneRowAStep : Obligations.AreaFillsOneRowAStep := by
  intro n s sound
  refine ⟨fun head w h met kind wide narrow tall short => ?_, fun x y w h k held => ?_⟩
  · obtain ⟨t, e, taken⟩ := areaRow_taken sound n (s.contextOf n).penX.toInt (s.contextOf n).penY.toInt w.toNat h.toNat 0 3
    refine ⟨t, ?_, taken⟩
    have ok : (sizeOk w.toNat && sizeOk h.toNat) = true := by
      rw [Bool.and_eq_true, sizeOk_iff, sizeOk_iff]
      exact ⟨⟨wide, narrow⟩, tall, short⟩
    rw [exec_met (k := .area) (by simp [recordCommands]) met kind rfl]
    refine congrArg Host.Outcome.next ((areaAct_eq n _ _ w h).trans ?_)
    rw [checked_true ok, contextOf_wordsRead]
    exact e
  · obtain ⟨t, e, taken⟩ := areaRow_taken sound n x y w h k 0
    refine ⟨t, ?_, taken⟩
    rw [modLane_wordsRead_zero] at e
    rw [exec_inHand (by simp [recordCommands, RecordInHand.kind]) held]
    exact congrArg Host.Outcome.next e

/-! ## VECTOR -/

/-- Along its major axis a line moves one cell a step (R92). -/
theorem lineOffset_major {length : Nat} {delta : Int} (major : delta.natAbs = length) (some : 0 < length) (i : Nat) :
    lineOffset length i delta = delta.sign * i := by
  have step : (2 * i * delta.natAbs + length) / (2 * length) = i := by
    rw [major, show 2 * i * length + length = length + (2 * length) * i by ring, Nat.add_mul_div_left _ _ (by omega),
      Nat.div_eq_of_lt (by omega), Nat.zero_add]
  rw [lineOffset, step]

/-- Along an axis a line moves the way of its delta (R92). -/
theorem lineOffset_mono {length i j : Nat} (h : i ≤ j) {delta : Int} :
    (0 ≤ delta → lineOffset length i delta ≤ lineOffset length j delta) ∧
      (delta < 0 → lineOffset length j delta ≤ lineOffset length i delta) := by
  have steps : ((2 * i * delta.natAbs + length) / (2 * length) : Nat) ≤ (2 * j * delta.natAbs + length) / (2 * length) :=
    Nat.div_le_div_right (Nat.add_le_add_right (Nat.mul_le_mul_right _ (Nat.mul_le_mul_left 2 h)) _)
  have steps : (((2 * i * delta.natAbs + length) / (2 * length) : Nat) : Int) ≤
      ((2 * j * delta.natAbs + length) / (2 * length) : Nat) := Int.ofNat_le.mpr steps
  unfold lineOffset
  constructor
  · intro up
    exact Int.mul_le_mul_of_nonneg_left steps (Int.sign_nonneg_iff.mpr up)
  · intro down
    rw [Int.sign_eq_neg_one_of_neg down]
    omega

/-- A row of a line covers its one cell. -/
theorem covers_lineCell (x y : Int) (cx : Fin 512) (cy : Row) :
    (figureRow y (colsSpan x 1)).Covers cx cy ↔ (cx.val : Int) = x ∧ (cy.val : Int) = y := by
  unfold PaintedRow.Covers figureRow
  dsimp only
  rw [getLsbD_colsSpan, getLsbD_zeroCols]
  simp only [decide_eq_true_eq, Bool.false_eq_true, or_false]
  omega

section

variable (x y dx dy : Int)

/-- Two steps of a line are two cells (R92). -/
theorem lineCell_injective {i j : Nat} (less : i < j) (inside : j ≤ lineLength dx dy) :
    lineCell x y dx dy i ≠ lineCell x y dx dy j := by
  intro same
  have some : 0 < lineLength dx dy := by omega
  obtain ⟨column, row⟩ := Prod.mk.inj same
  have signOf (delta : Int) (major : delta.natAbs = lineLength dx dy) : delta.sign = 1 ∨ delta.sign = -1 := by
    rcases lt_trichotomy delta 0 with down | zero | up
    · exact .inr (Int.sign_eq_neg_one_of_neg down)
    · subst zero
      exact absurd major.symm (by simpa using some.ne')
    · exact .inl (Int.sign_eq_one_of_pos up)
  rcases le_total dy.natAbs dx.natAbs with flat | steep
  · have major : dx.natAbs = lineLength dx dy := (max_eq_left flat).symm
    rw [lineOffset_major major some, lineOffset_major major some] at column
    rcases signOf dx major with e | e <;> rw [e] at column <;> omega
  · have major : dy.natAbs = lineLength dx dy := (max_eq_right steep).symm
    rw [lineOffset_major major some, lineOffset_major major some] at row
    rcases signOf dy major with e | e <;> rw [e] at row <;> omega

/-- The steps of a line in ascending order. -/
theorem lineRows_pairwise {R : PaintedRow → PaintedRow → Prop} (h : ∀ i j, i < j → j ≤ lineLength dx dy →
      R (figureRow (lineCell x y dx dy i).2 (colsSpan (lineCell x y dx dy i).1 1))
        (figureRow (lineCell x y dx dy j).2 (colsSpan (lineCell x y dx dy j).1 1))) : (lineRows x y dx dy).Pairwise R := by
  unfold lineRows
  rw [List.pairwise_map]
  refine List.Pairwise.imp_of_mem (fun {i j} _ memJ less => ?_) List.pairwise_lt_range
  exact h i j less (Nat.le_of_lt_succ (List.mem_range.mp memJ))

theorem lineRows_apart : ApartRows (lineRows x y dx dy) := by
  refine lineRows_pairwise x y dx dy fun i j less inside cx cy first second => ?_
  rw [covers_lineCell] at first second
  exact lineCell_injective x y dx dy less inside (Prod.ext (first.1.symm.trans second.1) (first.2.symm.trans second.2))

/-- A line reaches its rows upward or downward (R93). -/
theorem lineRows_ascending (up : 0 ≤ dy) : RowsInOrder (· < ·) (lineRows x y dx dy) := by
  refine lineRows_pairwise x y dx dy fun i j less _ q r onFirst onSecond => ?_
  obtain ⟨mono, _⟩ := lineOffset_mono (length := lineLength dx dy) less.le (delta := dy)
  have mono := mono up
  have first : (q.val : Int) = y + lineOffset (lineLength dx dy) i dy := onFirst
  have second : (r.val : Int) = y + lineOffset (lineLength dx dy) j dy := onSecond
  rw [Fin.ext_iff]
  show q.val = r.val ∨ q.val < r.val
  omega

theorem lineRows_descending (down : dy < 0) : RowsInOrder (· > ·) (lineRows x y dx dy) := by
  refine lineRows_pairwise x y dx dy fun i j less _ q r onFirst onSecond => ?_
  obtain ⟨_, mono⟩ := lineOffset_mono (length := lineLength dx dy) less.le (delta := dy)
  have mono := mono down
  have first : (q.val : Int) = y + lineOffset (lineLength dx dy) i dy := onFirst
  have second : (r.val : Int) = y + lineOffset (lineLength dx dy) j dy := onSecond
  rw [Fin.ext_iff]
  show q.val = r.val ∨ r.val < q.val
  omega

/-- The rows of a line cover the cells of its steps. -/
theorem lineRows_covers (cx : Fin 512) (cy : Row) : (∃ row ∈ lineRows x y dx dy, row.Covers cx cy) ↔
    ∃ i, i ≤ lineLength dx dy ∧ lineCell x y dx dy i = ((cx.val : Int), (cy.val : Int)) := by
  unfold lineRows
  constructor
  · rintro ⟨row, mem, covers⟩
    obtain ⟨i, small, rfl⟩ := List.mem_map.mp mem
    rw [covers_lineCell] at covers
    exact ⟨i, Nat.le_of_lt_succ (List.mem_range.mp small), Prod.ext covers.1.symm covers.2.symm⟩
  · rintro ⟨i, small, e⟩
    refine ⟨_, List.mem_map.mpr ⟨i, List.mem_range.mpr (Nat.lt_succ_of_le small), rfl⟩, ?_⟩
    rw [covers_lineCell, e]
    exact ⟨rfl, rfl⟩

end

/-- The rounded offset along the minor axis (R92). -/
theorem rounds_iff {length : Nat} (some : 0 < length) (a m : Nat) :
    (a + length) / (2 * length) = m ↔ 2 * length * m ≤ a + length ∧ a + length < 2 * length * (m + 1) := by
  have positive : 0 < 2 * length := by omega
  rw [Nat.mul_comm _ m, Nat.mul_comm _ (m + 1), ← Nat.le_div_iff_mul_le positive, ← Nat.div_lt_iff_lt_mul positive]
  omega

/-- The steps of a line by the exact rule of rounding, its major axis first (R92). -/
theorem lineSteps_iff {major minor : Int} (some : 0 < major.natAbs) (p q u v : Int) :
    (∃ i, i ≤ major.natAbs ∧ p + lineOffset major.natAbs i major = u ∧ q + lineOffset major.natAbs i minor = v) ↔
      ∃ i m : Nat, i ≤ major.natAbs ∧ 2 * major.natAbs * m ≤ 2 * i * minor.natAbs + major.natAbs
        ∧ 2 * i * minor.natAbs + major.natAbs < 2 * major.natAbs * (m + 1) ∧ u = p + major.sign * i ∧ v = q + minor.sign * m := by
  constructor
  · rintro ⟨i, inside, rfl, rfl⟩
    obtain ⟨low, high⟩ := (rounds_iff some (2 * i * minor.natAbs) _).mp rfl
    exact ⟨i, _, inside, low, high, by rw [lineOffset_major rfl some], rfl⟩
  · rintro ⟨i, m, inside, low, high, rfl, rfl⟩
    refine ⟨i, inside, by rw [lineOffset_major rfl some], ?_⟩
    rw [lineOffset, (rounds_iff some (2 * i * minor.natAbs) m).mpr ⟨low, high⟩]

/-- The steps of a line are the cells on it (R92). -/
theorem lineCell_iff_onLine (px py ex ey cx cy : Int) :
    (∃ i, i ≤ lineLength (ex - px) (ey - py) ∧ lineCell px py (ex - px) (ey - py) i = (cx, cy)) ↔ OnLine px py ex ey cx cy := by
  unfold OnLine lineCell
  simp only [Prod.mk.injEq]
  generalize ex - px = dx
  generalize ey - py = dy
  by_cases point : dx = 0 ∧ dy = 0
  · obtain ⟨rfl, rfl⟩ := point
    rw [if_pos ⟨rfl, rfl⟩]
    simp [lineLength, lineOffset, eq_comm]
  · rw [if_neg point]
    by_cases flat : dy.natAbs ≤ dx.natAbs
    · have major : lineLength dx dy = dx.natAbs := max_eq_left flat
      rw [if_pos flat, major]
      exact lineSteps_iff (by omega) px py cx cy
    · have major : lineLength dx dy = dy.natAbs := max_eq_right (by omega)
      rw [if_neg flat, major, ← lineSteps_iff (by omega) py px cy cx]
      simp only [and_comm]

/-- The rows of a VECTOR of lane `n` to (x, y), one of each step of its line (R92, R93). -/
def State.vectorRows (n : LaneNo) (x y : Word) (s : State) : List PaintedRow :=
  lineRows (s.contextOf n).penX.toInt (s.contextOf n).penY.toInt (x.toInt - (s.contextOf n).penX.toInt)
    (y.toInt - (s.contextOf n).penY.toInt)

/-- The order in which a line between these two rows reaches the rows (R93). -/
def lineOrder (start stop : Int) : List Row := if start ≤ stop then allRows else allRows.reverse

theorem mem_lineOrder (start stop : Int) (r : Row) : r ∈ lineOrder start stop := by
  unfold lineOrder
  split
  · exact mem_allRows r
  · exact List.mem_reverse.mpr (mem_allRows r)

/-- A VECTOR is drawn step by step, upward or downward, behind the words that were read (R92, R93). -/
theorem vectorAct_eq {s : State} (sound : s.panel.Sound) (n : LaneNo) (imm : BitVec 12) (x y : Word) :
    let d := s.panel.drawn.paintedAll (s.contextOf n) (s.vectorRows n x y)
    vectorAct n { imm := imm, words := [x, y] } (s.modLane n (Lane.wordsRead 3)) =
      pointInside n (s.afterDrawing n (fun l => ((l.withPen x y).recordTaken 3).counted (s.panel.drawn.changes d))
        (lineOrder (s.contextOf n).penY.toInt y.toInt) d) := by
  intro d
  have runs : vectorAct n { imm := imm, words := [x, y] } (s.modLane n (Lane.wordsRead 3)) = completeRecord n
      (modContext n (Context.withPen x y) (drawRows n (s.vectorRows n x y) (s.modLane n (Lane.wordsRead 3)))) := by
    unfold State.vectorRows
    rw [← contextOf_wordsRead s n 3]
    rfl
  have drawn : drawRows n (s.vectorRows n x y) (s.modLane n (Lane.wordsRead 3)) = (s.modLane n (Lane.wordsRead 3)).afterDrawing n
      (Lane.counted (s.panel.drawn.changes d)) (lineOrder (s.contextOf n).penY.toInt y.toInt) d := by
    dsimp only [d]
    rw [← contextOf_wordsRead s n 3]
    by_cases up : (s.contextOf n).penY.toInt ≤ y.toInt
    · rw [contextOf_wordsRead s n 3, lineOrder, if_pos up, ← contextOf_wordsRead s n 3]
      exact drawRows_inOrder (by exact sound) .ascending n (lineRows_apart ..) (lineRows_ascending _ _ _ _ (by omega))
    · rw [contextOf_wordsRead s n 3, lineOrder, if_neg up, ← contextOf_wordsRead s n 3]
      exact drawRows_inOrder (by exact sound) .descending n (lineRows_apart ..) (lineRows_descending _ _ _ _ (by omega))
  rw [runs, drawn, completeRecord_eq, modContext_eq, State.afterDrawing_modLane, State.afterDrawing_modLane,
    State.modLane_afterDrawing]
  rfl

/-- Settles O27: the line's steps are drawn one after another, upward or downward, each cell once. -/
theorem vectorDrawsItsLine : Obligations.VectorDrawsItsLine := by
  intro n s head x y sound met kind
  let d := s.panel.drawn.paintedAll (s.contextOf n) (s.vectorRows n x y)
  refine ⟨s.afterDrawing n (fun l => ((l.withPen x y).recordTaken 3).counted (s.panel.drawn.changes d))
    (lineOrder (s.contextOf n).penY.toInt y.toInt) d, ?_, drawsOnly_afterDrawing sound n _ (mem_lineOrder _ _) d, ?_, ?_⟩
  · rw [exec_met (k := .vector) (by simp [recordCommands]) met kind rfl]
    exact congrArg Host.Outcome.next (vectorAct_eq sound n _ x y)
  · rw [State.afterDrawing_panel, Panel.afterJoins_drawn]
    have figure : ∀ row ∈ s.vectorRows n x y, row.zeros = 0 := by
      intro row mem
      obtain ⟨i, _, rfl⟩ := List.mem_map.mp mem
      rfl
    refine (figureDrawn_paintedAll (lineRows_apart ..) figure _).congr fun cx cy => ?_
    exact (lineRows_covers _ _ _ _ cx cy).trans (lineCell_iff_onLine ..)
  · rw [State.afterDrawing_panel, Panel.afterJoins_drawn, State.afterDrawing_laneOf]

end Sys2Proof.Machine

/-! The boxes: a row of a pattern, IMAGE row by row, TEXT octet by octet, and READBACK row by row. -/

namespace Sys2Proof.Machine

/-! ## A row of a box -/

/-- A box row of `w` columns, whose column `i` shows `f i`. -/
def boxPattern (w : Nat) (f : Nat → Bool) : Cols := colsWhere fun i => decide (i.val < w) && f i.val

theorem getLsbD_boxPattern {w : Nat} (narrow : w ≤ 512) (f : Nat → Bool) (i : Nat) :
    (boxPattern w f).getLsbD i = (decide (i < w) && f i) := by
  by_cases small : i < 512
  · exact getLsbD_colsWhere _ ⟨i, small⟩
  · rw [BitVec.getLsbD_of_ge _ _ (Nat.not_lt.mp small), decide_eq_false (by omega), Bool.false_and]

section

variable {w : Nat} (narrow : w ≤ 512) (x y : Int) (f : Nat → Bool) (cx : Fin 512)

include narrow

theorem getLsbD_patternRow_ones : (patternRow x w y (boxPattern w f)).ones.getLsbD cx.val =
    (decide (x ≤ cx.val ∧ (cx.val : Int) < x + w) && f (cx.val - x).toNat) := by
  unfold patternRow
  dsimp only
  rw [getLsbD_placeCols, getLsbD_boxPattern narrow, ← Bool.and_assoc]
  congr 1
  rw [← Bool.decide_and]
  exact decide_eq_decide.mpr (by omega)

theorem getLsbD_patternRow_zeros : (patternRow x w y (boxPattern w f)).zeros.getLsbD cx.val =
    (decide (x ≤ cx.val ∧ (cx.val : Int) < x + w) && !f (cx.val - x).toNat) := by
  unfold patternRow
  dsimp only
  rw [getLsbD_placeCols, BitVec.getLsbD_and, BitVec.getLsbD_not, BitVec.getLsbD_not, getLsbD_boxPattern narrow]
  by_cases inside : x ≤ cx.val ∧ (cx.val : Int) < x + w
  · obtain ⟨left, right⟩ := inside
    have small : (cx.val - x).toNat < w := by omega
    have column := getLsbD_colsFrom w ⟨(cx.val - x).toNat, by omega⟩
    dsimp only at column
    rw [column, decide_eq_true left, decide_eq_true small, decide_eq_true (by omega : (cx.val - x).toNat < 512),
      decide_eq_false (by omega : ¬w ≤ (cx.val - x).toNat), decide_eq_true ⟨left, right⟩]
    simp
  · rw [decide_eq_false inside, Bool.false_and]
    by_cases left : x ≤ cx.val
    · have large : ¬(cx.val - x).toNat < w := by omega
      by_cases small : (cx.val - x).toNat < 512
      · have column := getLsbD_colsFrom w ⟨(cx.val - x).toNat, small⟩
        dsimp only at column
        rw [column, decide_eq_true (by omega : w ≤ (cx.val - x).toNat)]
        simp
      · rw [decide_eq_false small]
        simp
    · rw [decide_eq_false left, Bool.false_and]

theorem covers_patternRow (cy : Row) : (patternRow x w y (boxPattern w f)).Covers cx cy ↔
    (cy.val : Int) = y ∧ x ≤ cx.val ∧ (cx.val : Int) < x + w := by
  unfold PaintedRow.Covers
  rw [getLsbD_patternRow_ones narrow, getLsbD_patternRow_zeros narrow]
  have either (a b : Bool) : ((a && b) = true ∨ (a && !b) = true) ↔ a = true := by cases a <;> cases b <;> decide
  rw [either, decide_eq_true_eq]
  rfl

end

/-- One box row drawn, behind the words that were read for it (R85, R97). -/
theorem patternRow_drawn {s : State} (sound : s.panel.Sound) (n : LaneNo) {w : Nat} (narrow : w ≤ 512) (x y : Int) (f : Nat → Bool) :
    ∃ d, drawRows n [patternRow x w y (boxPattern w f)] s = s.afterDrawing n (Lane.counted (s.panel.drawn.changes d)) allRows d ∧
      PatternDrawn (s.contextOf n) (fun cx cy => (cy.val : Int) = y ∧ x ≤ cx.val ∧ (cx.val : Int) < x + w)
        (fun cx _ => f (cx.val - x).toNat) s.panel.drawn d := by
  refine ⟨_, drawRows_inOrder sound .ascending n (List.pairwise_singleton ..) (List.pairwise_singleton ..), ?_⟩
  refine (patternDrawn_paintedAll (List.pairwise_singleton ..) (fun row mem cx cy covers => ?_) _).congr fun cx cy => ?_
  · obtain rfl := List.mem_singleton.mp mem
    obtain ⟨_, inside⟩ := (covers_patternRow narrow x y f cx cy).mp covers
    rw [getLsbD_patternRow_ones narrow, getLsbD_patternRow_zeros narrow, decide_eq_true inside, Bool.true_and, Bool.true_and]
    exact ⟨rfl, rfl⟩
  · simp only [List.mem_singleton, exists_eq_left]
    exact covers_patternRow narrow x y f cx cy

/-! ## IMAGE -/

theorem addressPlus_addressPlus (a : Addr) (i j : Nat) : addressPlus (addressPlus a i) j = a + BitVec.ofNat 20 (i + j) := by
  unfold addressPlus
  rw [BitVec.add_assoc, ← BitVec.ofNat_add]

theorem getElem_wordRun (a : Addr) {n i : Nat} (h : i < (wordRun a n).length) : (wordRun a n)[i] = addressPlus a (2 * i) := by
  simp [wordRun]

/-- Word `i` of a run that was read. -/
theorem fieldWord_wordRun (m : Memory) (a : Addr) {n i : Nat} (h : i < n) :
    fieldWord ((wordRun a n).map m.readWord) i = m.readWord (addressPlus a (2 * i)) := by
  unfold fieldWord
  rw [List.getD_eq_getElem _ _ (by rw [List.length_map, length_wordRun]; exact h), List.getElem_map, getElem_wordRun]

/-- Cell `i` of the packed row at this offset from `source` (R97). -/
def packedCell (m : Memory) (source : Addr) (offset i : Nat) : Bool :=
  (m.readWord (source + BitVec.ofNat 20 (offset + 2 * (i / 16)))).getLsbD (15 - i % 16)

/-- The pattern of a row's words, cell by cell (R97). -/
theorem patternOfWords_wordRun (m : Memory) (source : Addr) (offset w : Nat) :
    patternOfWords w ((wordRun (addressPlus source offset) (rowWords w)).map m.readWord) = boxPattern w (packedCell m source offset) := by
  unfold patternOfWords boxPattern
  congr 1
  funext i
  by_cases small : i.val < w
  · rw [fieldWord_wordRun m _ (by unfold rowWords; omega), addressPlus_addressPlus]
    rfl
  · rw [decide_eq_false small, Bool.false_and, Bool.false_and]

/-- The words of an IMAGE's row are read whole (R97, R99). -/
theorem imageRow_read {s : State} (quiet : s.work.bus = []) (n : LaneNo) (x y : Int) (w h : Nat) (source : Addr) (stride k : Nat) :
    imageRow n x y w h source stride k s = afterRow n h k (RecordInHand.image x y w h source stride)
      (drawRows n [patternRow x w (y + k) (boxPattern w (packedCell s.work.mem source (2 * stride * k)))] s) := by
  unfold imageRow
  rw [readStationList_completes _ _ _ _ quiet]
  dsimp only
  rw [patternOfWords_wordRun]

/-- One row of an IMAGE, behind the words of the record that were read for it (R97, R98). -/
theorem imageRow_taken {s : State} (sound : s.panel.Sound) (quiet : s.work.bus = []) (n : LaneNo) (x y : Int) {w : Nat}
    (narrow : w ≤ 512) (h : Nat) (source : Addr) (stride k read : Nat) :
    ∃ t, imageRow n x y w h source stride k (s.modLane n (Lane.wordsRead read)) = pointInside n t ∧
      ImageRowTaken n x y w h source stride k read s t := by
  obtain ⟨d, drawn, pattern⟩ := patternRow_drawn (s := s.modLane n (Lane.wordsRead read)) sound n narrow x (y + k)
    (packedCell s.work.mem source (2 * stride * k))
  rw [contextOf_wordsRead] at pattern
  refine ⟨s.afterDrawing n (fun l => ((l.wordsRead read).afterPart h k (.image x y w h source stride (k + 1))).counted
    (s.panel.drawn.changes d)) allRows d, ?_, drawsOnly_afterDrawing sound n _ mem_allRows d, ?_, ?_⟩
  rotate_left
  · rw [State.afterDrawing_panel, Panel.afterJoins_drawn]
    exact pattern
  · rw [State.afterDrawing_panel, Panel.afterJoins_drawn, State.afterDrawing_laneOf]
  · rw [imageRow_read (by exact quiet)]
    refine (congrArg (afterRow n h k _) drawn).trans ?_
    rw [afterRow_afterDrawing, State.modLane_afterDrawing]
    simp only [Lane.counted_afterPart]
    rfl

/-- A word of an IMAGE's row that cannot be read (R99). -/
theorem imageRow_unread {s : State} (quiet : s.work.bus = []) (n : LaneNo) (x y : Int) (w h : Nat) (source : Addr) (stride k : Nat)
    {i : Nat} (at_ : i < (w + 15) / 16) {answer : BusAnswer} {kind : Word} (fails : answer.FailsRead kind) :
    imageRow n x y w h source stride k (s.onWork (Work.withFailure i answer)) = endBlock n .memory (s.onWork
      (Work.failureNoted kind 1 (BitVec.ofNat 16 n.val) (source + BitVec.ofNat 20 (2 * stride * k + 2 * i)))) := by
  have unread := readStationList_fails .engine (some n) (wordRun (addressPlus source (2 * stride * k)) (rowWords w)) i
    (by rw [length_wordRun]; exact at_) s.work quiet fails
  rw [getElem_wordRun, addressPlus_addressPlus] at unread
  unfold imageRow
  rw [show (s.onWork (Work.withFailure i answer)).work = s.work.withFailure i answer from rfl, unread]
  rfl

theorem imageOk {w h low high stride : Word} (wide : 1 ≤ w.toNat) (narrow : w.toNat ≤ 512) (tall : 1 ≤ h.toNat)
    (short : h.toNat ≤ 512) (even : low.toNat % 2 = 0) (strides : (w.toNat + 15) / 16 ≤ stride.toNat) :
    (sizeOk w.toNat && sizeOk h.toNat && addressEven (address20 low high) && decide (rowWords w.toNat ≤ stride.toNat)) = true := by
  simp only [Bool.and_eq_true, sizeOk_iff, decide_eq_true_eq, addressEven_address20, and_assoc]
  exact ⟨wide, narrow, tall, short, even, strides⟩

/-- Settles O29: the first row behind the checks, and each later one from what is in hand, are one box row drawn. -/
theorem imagePaintsOneRowAStep : Obligations.ImagePaintsOneRowAStep := by
  intro n s sound
  refine ⟨fun head w h low high stride met kind wide narrow tall short even strides => ?_,
    fun head w h low high stride met kind wide narrow tall short even strides i answer code fails at_ => ?_,
    fun x y w h source stride k held narrow => ⟨?_, fun i answer code fails at_ => ?_⟩⟩
  · obtain ⟨t, e, taken⟩ := imageRow_taken sound met.quiet n (s.contextOf n).penX.toInt (s.contextOf n).penY.toInt narrow h.toNat
      (address20 low high) stride.toNat 0 6
    refine ⟨t, ?_, taken⟩
    rw [exec_met (k := .image) (by simp [recordCommands]) met kind rfl]
    refine congrArg Host.Outcome.next ((imageAct_eq n _ _ w h low high stride).trans ?_)
    rw [checked_true (imageOk wide narrow tall short even strides), contextOf_wordsRead]
    exact e
  · refine (exec_met_before (k := .image) (by simp [recordCommands]) met kind rfl i answer).trans (congrArg Host.Outcome.next ?_)
    refine (imageAct_eq n _ _ w h low high stride).trans ?_
    rw [checked_true (imageOk wide narrow tall short even strides)]
    refine (imageRow_unread (s := s.modLane n (Lane.wordsRead 6)) met.quiet n _ _ _ _ _ _ 0 at_ fails).trans ?_
    rw [Nat.mul_zero, Nat.zero_add]
  · obtain ⟨t, e, taken⟩ := imageRow_taken sound held.quiet n x y narrow h source stride k 0
    refine ⟨t, ?_, taken⟩
    rw [modLane_wordsRead_zero] at e
    rw [exec_inHand (by simp [recordCommands, RecordInHand.kind]) held]
    exact congrArg Host.Outcome.next e
  · rw [exec_inHand_before (by simp [recordCommands, RecordInHand.kind]) held]
    exact congrArg Host.Outcome.next (imageRow_unread held.quiet n x y w h source stride k at_ fails)

end Sys2Proof.Machine

/-! TEXT octet by octet: the glyph's box at the pen, and the pen behind it. -/

namespace Sys2Proof.Machine

/-! ## The lane's context -/

/-- A lane with its context changed. -/
def Lane.withContext (f : Context → Context) (l : Lane) : Lane := { l with context := f l.context }

theorem modContext_withContext (n : LaneNo) (f : Context → Context) (s : State) : modContext n f s = s.modLane n (Lane.withContext f) := rfl

theorem Lane.afterPart_withContext (h k : Nat) (next : RecordInHand) (f : Context → Context) (l : Lane) :
    (l.withContext f).afterPart h k next = (l.afterPart h k next).withContext f := by
  unfold Lane.afterPart
  split <;> rfl

theorem Lane.afterPart_context (h k : Nat) (next : RecordInHand) (l : Lane) : (l.afterPart h k next).context = l.context := by
  unfold Lane.afterPart
  split <;> rfl

/-- A change of the context that moves the pen only. -/
theorem Lane.withContext_eq_withPen {f : Context → Context} {l : Lane} {x y : Word}
    (h : f l.context = { l.context with penX := x, penY := y }) : l.withContext f = l.withPen x y := by
  unfold Lane.withContext
  rw [h]
  rfl

/-! ## The pen -/

theorem Context.wrapped_eq (c : Context) : c.wrapped = { c with penX := c.penAfterWrap.1, penY := c.penAfterWrap.2 } := by
  unfold Context.wrapped Context.penAfterWrap
  split <;> rfl

theorem Context.advanced_wrapped (c : Context) : c.wrapped.advanced =
    { c with penX := c.penAfterWrap.1 + BitVec.ofNat 16 (8 * c.scale), penY := c.penAfterWrap.2 } := by
  rw [Context.advanced, Context.wrapped_eq]

/-- The three octets that move the pen, and the others, which do not (R121). -/
theorem Context.controlled_eq (code : Nat) (c : Context) :
    c.controlled code = { c with penX := (c.penAfterControl code).1, penY := (c.penAfterControl code).2 } := by
  unfold Context.controlled Context.penAfterControl
  by_cases back : code = 8
  · subst back
    rfl
  · by_cases down : code = 10
    · subst down
      rfl
    · by_cases left : code = 13
      · subst left
        rfl
      · rw [if_neg back, if_neg down, if_neg left]
        split
        · exact absurd rfl back
        · exact absurd rfl down
        · exact absurd rfl left
        · rfl

/-! ## The glyph's box -/

section

variable (c : Context) (glyph : Nat → Byte)

/-- The row of a glyph's box below its first row by `j` (R120). -/
theorem glyphRows_eq : glyphRows c glyph = (List.range (16 * c.scale)).map fun (j : Nat) =>
    patternRow c.penX.toInt (8 * c.scale) (c.penY.toInt + (j : Int))
      (boxPattern (8 * c.scale) fun i => (glyph (j / c.scale)).getLsbD (7 - i / c.scale)) := rfl

theorem glyphRows_pairwise {R : PaintedRow → PaintedRow → Prop} (h : ∀ a b : PaintedRow, a.y < b.y → R a b) :
    (glyphRows c glyph).Pairwise R := by
  rw [glyphRows_eq, List.pairwise_map]
  refine List.Pairwise.imp (fun {i j} less => h _ _ ?_) List.pairwise_lt_range
  show c.penY.toInt + (i : Int) < c.penY.toInt + (j : Int)
  omega

theorem glyphRows_apart : ApartRows (glyphRows c glyph) := by
  refine glyphRows_pairwise c glyph fun a b less x y first second => ?_
  have onFirst := first.1
  have onSecond := second.1
  omega

theorem glyphRows_ascending : RowsInOrder (· < ·) (glyphRows c glyph) := by
  refine glyphRows_pairwise c glyph fun a b less q r onFirst onSecond => .inr ?_
  show q.val < r.val
  omega

/-- A glyph's box is drawn cell by cell (R111, R120). -/
theorem patternDrawn_glyphRows (scale : c.scale = 1 ∨ c.scale = 2) (d : Plane) :
    PatternDrawn c (fun cx cy => c.penX.toInt ≤ cx.val ∧ (cx.val : Int) < c.penX.toInt + 8 * c.scale
        ∧ c.penY.toInt ≤ cy.val ∧ (cy.val : Int) < c.penY.toInt + 16 * c.scale)
      (fun cx cy => (glyph ((cy.val - c.penY.toInt).toNat / c.scale)).getLsbD (7 - (cx.val - c.penX.toInt).toNat / c.scale))
      d (d.paintedAll c (glyphRows c glyph)) := by
  have narrow : 8 * c.scale ≤ 512 := by omega
  refine (patternDrawn_paintedAll (glyphRows_apart c glyph) (fun row mem cx cy covers => ?_) d).congr fun cx cy => ?_
  · rw [glyphRows_eq] at mem
    obtain ⟨j, _, rfl⟩ := List.mem_map.mp mem
    obtain ⟨here, inside⟩ := (covers_patternRow narrow _ _ _ cx cy).mp covers
    have row : (cy.val - c.penY.toInt).toNat = j := by omega
    rw [getLsbD_patternRow_ones narrow, getLsbD_patternRow_zeros narrow, decide_eq_true inside, Bool.true_and, Bool.true_and, row]
    exact ⟨rfl, rfl⟩
  · rw [glyphRows_eq]
    constructor
    · rintro ⟨row, mem, covers⟩
      obtain ⟨j, small, rfl⟩ := List.mem_map.mp mem
      obtain ⟨here, left, right⟩ := (covers_patternRow narrow _ _ _ cx cy).mp covers
      have small := List.mem_range.mp small
      omega
    · rintro ⟨left, right, low, high⟩
      refine ⟨_, List.mem_map.mpr ⟨(cy.val - c.penY.toInt).toNat, List.mem_range.mpr (by omega), rfl⟩, ?_⟩
      rw [covers_patternRow narrow]
      omega

end

/-! ## One octet -/

/-- A drawing that changes no cell. -/
theorem State.afterDrawing_same (n : LaneNo) (f : Lane → Lane) (order : List Row) (s : State) :
    s.afterDrawing n f order s.panel.drawn = s.modLane n f := by
  have same : s.panel.afterJoins order s.panel.drawn = s.panel := by
    rw [Panel.afterJoins_eq, Panel.joining_self, Panel.withJoins_nil]
  exact congrArg (fun p => ({ s.modLane n f with panel := p } : State)) same

/-- A printable octet draws its glyph at the wrapped pen, and advances the pen (R119, R120). -/
theorem printOctet_eq {s : State} (sound : s.panel.Sound) (n : LaneNo) (code : Nat) :
    let c := (s.contextOf n).wrapped
    let d := s.panel.drawn.paintedAll c (glyphRows c (s.glyphRow c.glyphSet code))
    printOctet n code s = s.afterDrawing n
      (fun l => (l.withContext fun c => c.wrapped.advanced).counted (s.panel.drawn.changes d)) allRows d := by
  intro c d
  have context : (modContext n Context.wrapped s).contextOf n = c := by
    show ((s.work.modLane n (Lane.withContext Context.wrapped)).laneOf n).context = c
    rw [Work.laneOf_modLane_same]
    rfl
  have drawn := drawRows_inOrder (s := modContext n Context.wrapped s) sound .ascending n
    (glyphRows_apart c (s.glyphRow c.glyphSet code)) (glyphRows_ascending c (s.glyphRow c.glyphSet code))
  rw [context] at drawn
  have runs : printOctet n code s = modContext n Context.advanced
      (drawRows n (glyphRows c (s.glyphRow c.glyphSet code)) (modContext n Context.wrapped s)) := by
    unfold printOctet
    dsimp only
    rw [context]
    rfl
  rw [runs, drawn, modContext_withContext, State.afterDrawing_modLane, modContext_withContext, State.modLane_afterDrawing]
  rfl

/-- One octet of a TEXT, behind the words of the record that were read for it (R118 to R121). -/
theorem textOctet_taken {s : State} (sound : s.panel.Sound) (n : LaneNo) (legal : (s.contextOf n).Legal) (octets : List Byte)
    (k read : Nat) : ∃ t, textOctet n octets k (s.modLane n (Lane.wordsRead read)) = pointInside n t ∧
      TextOctetTaken n octets k read s t := by
  obtain ⟨_, _, _, _, scale⟩ := legal
  by_cases printable : 32 ≤ (octets.getD k 0).toNat ∧ (octets.getD k 0).toNat ≤ 127
  · have taken := printOctet_eq (s := s.modLane n (Lane.wordsRead read)) sound n (octets.getD k 0).toNat
    rw [contextOf_wordsRead] at taken
    let c := (s.contextOf n).wrapped
    let d := s.panel.drawn.paintedAll c (glyphRows c (s.glyphRow c.glyphSet (octets.getD k 0).toNat))
    refine ⟨s.afterDrawing n (fun l => (((l.wordsRead read).afterPart octets.length k (.text octets (k + 1))).withContext
      fun c => c.wrapped.advanced).counted (s.panel.drawn.changes d)) allRows d, ?_, drawsOnly_afterDrawing sound n _ mem_allRows d,
      fun _ => ⟨?_, ?_⟩, fun not => absurd printable not⟩
    · unfold textOctet takeOctet
      rw [if_pos printable]
      refine (congrArg (afterRow n octets.length k _) taken).trans ?_
      rw [afterRow_afterDrawing, State.modLane_afterDrawing]
      simp only [Lane.counted_afterPart, Lane.afterPart_withContext]
      rfl
    · rw [State.afterDrawing_panel, Panel.afterJoins_drawn]
      have drawn := patternDrawn_glyphRows c (s.glyphRow c.glyphSet (octets.getD k 0).toNat)
        (by dsimp only [c]; rw [Context.wrapped_eq]; exact scale) s.panel.drawn
      dsimp only [d, c] at drawn ⊢
      rw [Context.wrapped_eq] at drawn ⊢
      exact drawn
    · rw [State.afterDrawing_panel, Panel.afterJoins_drawn, State.afterDrawing_laneOf,
        Lane.withContext_eq_withPen (by rw [Lane.afterPart_context]; exact Context.advanced_wrapped _)]
      rfl
  · refine ⟨s.modLane n fun l => ((l.wordsRead read).afterPart octets.length k (.text octets (k + 1))).withContext
      (Context.controlled (octets.getD k 0).toNat), ?_, ?_, fun printed => absurd printed printable, fun _ => ⟨rfl, ?_⟩⟩
    · unfold textOctet takeOctet
      rw [if_neg printable, afterRow_eq, modContext_withContext, State.modLane_modLane, State.modLane_modLane]
      simp only [Lane.afterPart_withContext]
    · have only := drawsOnly_afterDrawing sound n (fun l => ((l.wordsRead read).afterPart octets.length k
        (.text octets (k + 1))).withContext (Context.controlled (octets.getD k 0).toNat)) mem_allRows s.panel.drawn
      rw [State.afterDrawing_same] at only
      exact only
    · show (s.work.modLane n _).laneOf n = _
      rw [Work.laneOf_modLane_same, Lane.withContext_eq_withPen (Context.controlled_eq _ _), Lane.afterPart_context]
      rfl

/-! ## The octets of a record -/

theorem getD_flatMap_octets (ws : List Word) (i : Nat) :
    (ws.flatMap fun w => [w.extractLsb' 8 8, w.extractLsb' 0 8]).getD i (0 : Byte) =
      if i % 2 = 0 then (ws.getD (i / 2) 0).extractLsb' 8 8 else (ws.getD (i / 2) 0).extractLsb' 0 8 := by
  induction ws generalizing i with
  | nil => simp
  | cons w rest ih =>
    match i with
    | 0 => rfl
    | 1 => rfl
    | i + 2 =>
      have later := ih i
      rw [show (i + 2) / 2 = i / 2 + 1 by omega, show (i + 2) % 2 = i % 2 by omega, List.getD_cons_succ]
      exact later

/-- The octets of a record's words, the upper one of each word first (R117). -/
theorem textOctets_eq {octets : List Byte} {ws : List Word} (words : ws.length = (octets.length + 1) / 2)
    (spelt : ∀ i, (hi : i < octets.length) → octets[i] =
      if i % 2 = 0 then (ws.getD (i / 2) 0).extractLsb' 8 8 else (ws.getD (i / 2) 0).extractLsb' 0 8) :
    textOctets octets.length ws = octets := by
  have long : (ws.flatMap fun w => [w.extractLsb' 8 8, w.extractLsb' 0 8]).length = 2 * ws.length := by
    rw [List.length_flatMap]
    simp [Nat.mul_comm]
  unfold textOctets
  refine List.ext_getElem ?_ fun i small big => ?_
  · rw [List.length_take, long]
    omega
  · rw [List.getElem_take, spelt i big, ← getD_flatMap_octets, List.getD_eq_getElem]

/-- Settles O30: the first octet behind the check, and each later one from what is in hand, are one octet taken. -/
theorem textTakesOneOctetAStep : Obligations.TextTakesOneOctetAStep := by
  intro n s octets sound legal
  refine ⟨fun head ws met kind count some few words spelt => ?_, fun k held => ?_⟩
  · obtain ⟨t, e, taken⟩ := textOctet_taken sound n legal octets 0 (1 + ws.length)
    refine ⟨t, ?_, taken⟩
    have length : recordLength .text (recordImmediate head) = ws.length + 1 := by
      rw [words, count]
      exact Nat.add_comm 1 _
    rw [exec_met (k := .text) (by simp [recordCommands]) met kind length]
    refine congrArg Host.Outcome.next ((textAct_eq n _ _ ws).trans ?_)
    rw [← count, checked_true (by rw [Bool.and_eq_true, decide_eq_true_eq, decide_eq_true_eq]; exact ⟨some, few⟩),
      textOctets_eq words spelt, Nat.add_comm ws.length]
    exact e
  · obtain ⟨t, e, taken⟩ := textOctet_taken sound n legal octets k 0
    refine ⟨t, ?_, taken⟩
    rw [modLane_wordsRead_zero] at e
    rw [exec_inHand (by simp [recordCommands, RecordInHand.kind]) held]
    exact congrArg Host.Outcome.next e

end Sys2Proof.Machine

/-! READBACK row by row, and the glyphs of a GLYPHLOAD. -/

namespace Sys2Proof.Machine

/-! ## READBACK -/

theorem storeWords_modLane (l : List (Addr × Word)) (n : LaneNo) (f : Lane → Lane) (w : Work) :
    storeWords l (w.modLane n f) = (storeWords l w).modLane n f := by
  have lane : (storeWords l w).laneOf n = w.laneOf n := (storeWords_busOnly l w).laneOf n
  unfold Work.modLane Work.setLane
  rw [lane, storeWords_lanes, storeWords_withLanes]

section

variable {n : LaneNo} {s : State} {x y w h : Nat} {target : Addr} {stride k : Nat}

/-- The words of a row are its packed cells at their addresses (R97, R102). -/
theorem isReadbackRow_readbackWords : s.panel.IsReadbackRow x y w target stride k (readbackWords s x y w target stride k) := by
  have lengths : (readbackWords s x y w target stride k).length = (w + 15) / 16 := by
    simp [readbackWords, wordRun, packedRow, rowWords]
  refine ⟨lengths, fun j hj => ?_⟩
  have word : (readbackWords s x y w target stride k)[j] =
      (addressPlus (addressPlus target (2 * stride * k)) (2 * j), packedWord (s.panel.drawnRow (y + k)) x w j) := by
    simp [readbackWords, wordRun, packedRow]
  rw [word]
  refine ⟨addressPlus_addressPlus target _ _, fun i => ?_⟩
  have back : 15 - (15 - i.val) = i.val := by omega
  show (packedWord (s.panel.drawnRow (y + k)) x w j).getLsbD (15 - i.val) = _
  unfold packedWord
  rw [BitVec.getLsbD_ofFnLE]
  simp only [back, show 15 - i.val < 16 by omega, dite_true]

theorem readbackRow_fence (outside : ¬s.work.port.fenceAllows target stride w h = true) :
    readbackRow n x y w h target stride k s = endBlock n .fence s := if_neg outside

/-- One row of a READBACK, behind the words of the record that were read for it (R101, R102). -/
theorem readbackRow_taken (quiet : s.work.bus = []) (inside : s.work.port.fenceAllows target stride w h = true) (read : Nat) :
    ∃ t, readbackRow n x y w h target stride k (s.modLane n (Lane.wordsRead read)) = pointInside n t ∧
      ReadbackRowTaken n x y w h target stride k read s t := by
  refine ⟨_, ?_, readbackWords s x y w target stride k, isReadbackRow_readbackWords, rfl⟩
  have writes := writeStationList_completes .engine (some n) (readbackWords s x y w target stride k)
    (s.modLane n (Lane.wordsRead read)).work quiet
  have written : storeWords (readbackWords s x y w target stride k) (s.modLane n (Lane.wordsRead read)).work =
      (storeWords (readbackWords s x y w target stride k) s.work).modLane n (Lane.wordsRead read) := storeWords_modLane _ n _ s.work
  unfold readbackRow
  rw [if_pos (by exact inside), show readbackWords (s.modLane n (Lane.wordsRead read)) x y w target stride k =
    readbackWords s x y w target stride k from rfl, writes, written]
  dsimp only
  rw [afterRow_eq]
  refine congrArg (pointInside n) ?_
  exact congrArg (fun v => ({ s with work := v } : State)) (Work.modLane_modLane ..)

/-- A word of a READBACK's row that cannot be written (R103). -/
theorem readbackRow_cut (quiet : s.work.bus = []) (inside : s.work.port.fenceAllows target stride w h = true) {j : Nat}
    (at_ : j < (w + 15) / 16) (stored : Bool) : ∃ words, s.panel.IsReadbackRow x y w target stride k words ∧
      readbackRow n x y w h target stride k (s.onWork (Work.withFailure j (.noAnswer stored))) = endBlock n .memory
        (s.onWork (Work.cutShort j stored 1 (BitVec.ofNat 16 n.val) words)) := by
  have row : s.panel.IsReadbackRow x y w target stride k (readbackWords s x y w target stride k) := isReadbackRow_readbackWords
  obtain ⟨lengths, _⟩ := id row
  refine ⟨readbackWords s x y w target stride k, row, ?_⟩
  have writes := writeStationList_fails .engine (some n) (readbackWords s x y w target stride k) j (by rw [lengths]; exact at_)
    stored s.work quiet
  unfold readbackRow
  rw [if_pos (by exact inside), show readbackWords (s.onWork (Work.withFailure j (.noAnswer stored))) x y w target stride k =
    readbackWords s x y w target stride k from rfl,
    show (s.onWork (Work.withFailure j (.noAnswer stored))).work = s.work.withFailure j (.noAnswer stored) from rfl, writes]
  rfl

end

section

variable {p : Port} {target : Addr} {stride w h : Nat}

theorem fenceAllows_of_inside {f : Fence} (some : p.fence = some f) (low : f.low.toNat ≤ target.toNat)
    (high : target.toNat + 2 * stride * (h - 1) + 2 * ((w + 15) / 16) - 1 < f.high.toNat) :
    p.fenceAllows target stride w h = true := by
  unfold Port.fenceAllows
  rw [some]
  exact Bool.and_eq_true_iff.mpr ⟨decide_eq_true low, decide_eq_true high⟩

theorem fenceAllows_of_outside (outside : ∀ f, p.fence = some f → ¬(f.low.toNat ≤ target.toNat ∧
      target.toNat + 2 * stride * (h - 1) + 2 * ((w + 15) / 16) - 1 < f.high.toNat)) :
    ¬p.fenceAllows target stride w h = true := by
  unfold Port.fenceAllows
  split
  · next f some =>
    rw [Bool.and_eq_true, decide_eq_true_eq, decide_eq_true_eq]
    exact outside f some
  · decide

end

/-- Settles O31: the first row behind the checks, and each later one from what is in hand, are one row copied inside the fence. -/
theorem readbackCopiesOneRowInsideTheFence : Obligations.ReadbackCopiesOneRowInsideTheFence := by
  intro n s
  constructor
  · intro head x y w h low met kind left right up down wide tall even strides target stride last
    have ok : readbackOk x.toInt y.toInt w.toNat h.toNat target stride = true := by
      rw [readbackOk_iff]
      dsimp only [stride]
      omega
    have runs (s' : State) : readbackAct n { imm := recordImmediate head, words := [x, y, w, h, low] } s' =
        readbackRow n x.toNat y.toNat w.toNat h.toNat target stride 0 s' := by
      rw [readbackAct_eq, extractLsb'_recordImmediate head (i := 0) (by decide), extractLsb'_recordImmediate head (i := 4) (by decide),
        checked_true ok, toNat_toInt_of_nonneg left, toNat_toInt_of_nonneg up]
    refine ⟨fun f some lowEnd highEnd => ⟨?_, fun j stored at_ => ?_⟩, fun outside => ?_⟩
    · obtain ⟨t, e, taken⟩ := readbackRow_taken (n := n) (x := x.toNat) (y := y.toNat) (k := 0) met.quiet
        (fenceAllows_of_inside some lowEnd highEnd) 6
      refine ⟨t, ?_, taken⟩
      rw [exec_met (k := .readback) (by simp [recordCommands]) met kind rfl]
      exact congrArg Host.Outcome.next ((runs _).trans e)
    · obtain ⟨words, row, e⟩ := readbackRow_cut (n := n) (s := s.modLane n (Lane.wordsRead 6)) (x := x.toNat) (y := y.toNat) (k := 0)
        met.quiet (fenceAllows_of_inside some lowEnd highEnd) at_ stored
      refine ⟨words, row, ?_⟩
      refine (exec_met_before (k := .readback) (by simp [recordCommands]) met kind rfl j (.noAnswer stored)).trans ?_
      exact congrArg Host.Outcome.next ((runs _).trans e)
    · rw [exec_met (k := .readback) (by simp [recordCommands]) met kind rfl]
      exact congrArg Host.Outcome.next ((runs _).trans (readbackRow_fence (by exact fenceAllows_of_outside outside)))
  · intro x y w h target stride k held last
    have mem : (Instr.readback, RecordInHand.kind (.readback x y w h target stride k)) ∈ recordCommands := by
      simp [recordCommands, RecordInHand.kind]
    refine ⟨fun f some lowEnd highEnd => ⟨?_, fun j stored at_ => ?_⟩, fun outside => ?_⟩
    · obtain ⟨t, e, taken⟩ := readbackRow_taken (n := n) (x := x) (y := y) (k := k) held.quiet
        (fenceAllows_of_inside some lowEnd highEnd) 0
      refine ⟨t, ?_, taken⟩
      rw [modLane_wordsRead_zero] at e
      rw [exec_inHand mem held]
      exact congrArg Host.Outcome.next e
    · obtain ⟨words, row, e⟩ := readbackRow_cut (n := n) (x := x) (y := y) (k := k) held.quiet
        (fenceAllows_of_inside some lowEnd highEnd) at_ stored
      refine ⟨words, row, ?_⟩
      rw [exec_inHand_before mem held]
      exact congrArg Host.Outcome.next e
    · rw [exec_inHand mem held]
      exact congrArg Host.Outcome.next (readbackRow_fence (fenceAllows_of_outside outside))

end Sys2Proof.Machine

/-! GLYPHLOAD: the glyphs that its source words replace, whole or as far as the words could be read. -/

namespace Sys2Proof.Machine

/-! ## One glyph -/

section

variable {set code : Nat} {g : Glyph} {s : State}

theorem storeGlyph_onWork (f : Work → Work) : storeGlyph set code g (s.onWork f) = (storeGlyph set code g s).onWork f := by
  unfold storeGlyph
  split <;> rfl

theorem storeGlyph_panel : (storeGlyph set code g s).panel = s.panel := by
  unfold storeGlyph
  split <;> rfl

theorem storeGlyph_pending : (storeGlyph set code g s).pending = s.pending := by
  unfold storeGlyph
  split <;> rfl

/-- The one glyph that is replaced shows its new pattern, and the others are as they were (R114). -/
theorem glyphRow_storeGlyph (loadable : 1 ≤ set ∧ set ≤ 3) (printable : 32 ≤ code ∧ code ≤ 127) (k : Fin 4) {c row : Nat}
    (low : 32 ≤ c) (high : c ≤ 127) (inGlyph : row < 16) : (storeGlyph set code g s).glyphRow k c row =
      if k.val = set ∧ c = code then g[row] else s.glyphRow k c row := by
  have here : set - 1 < 3 ∧ code - 32 < 96 := by omega
  unfold storeGlyph State.glyphRow
  rw [dif_pos here]
  by_cases fixed : k = 0
  · subst fixed
    rw [if_pos rfl, if_pos rfl, if_neg fun h => by have zero : 0 = set := h.1; omega]
  · have some : k.val ≠ 0 := fun e => fixed (Fin.ext e)
    have there : k.val - 1 < 3 ∧ c - 32 < 96 ∧ row < 16 := by omega
    rw [if_neg fixed, if_neg fixed, dif_pos there, dif_pos there]
    dsimp only
    by_cases sets : set - 1 = k.val - 1
    · by_cases codes : code - 32 = c - 32
      · rw [if_pos (by omega)]
        simp [sets, codes]
      · rw [if_neg (by omega)]
        simp [sets, codes]
    · rw [if_neg (by omega)]
      simp [sets]

end

/-! ## The glyphs of a run of words -/

/-- The glyphs of `m` runs of eight words from `source` on have been loaded from code `code` on (R114). -/
def State.glyphsLoaded (set : Nat) : Nat → Nat → Addr → State → State
  | 0, _, _, s => s
  | m + 1, code, source, s => State.glyphsLoaded set m (code + 1) (addressPlus source 16)
      (storeGlyph set code (glyphOfWords ((wordRun source 8).map s.work.mem.readWord)) s)

section

variable {set m code : Nat} {source : Addr} {s : State}

theorem glyphsLoaded_frame : (s.glyphsLoaded set m code source).work = s.work ∧ (s.glyphsLoaded set m code source).panel = s.panel ∧
    (s.glyphsLoaded set m code source).pending = s.pending := by
  induction m generalizing code source s with
  | zero => exact ⟨rfl, rfl, rfl⟩
  | succ m ih =>
    obtain ⟨work, panel, pending⟩ := ih (code := code + 1) (source := addressPlus source 16)
      (s := storeGlyph set code (glyphOfWords ((wordRun source 8).map s.work.mem.readWord)) s)
    exact ⟨work.trans (storeGlyph_work ..), panel.trans storeGlyph_panel, pending.trans storeGlyph_pending⟩

/-- Row `row` of a glyph of eight words (R114). -/
theorem getElem_glyphOfWords (mem : Memory) (a : Addr) {row : Nat} (h : row < 16) :
    (glyphOfWords ((wordRun a 8).map mem.readWord))[row] = if row % 2 = 0
      then (mem.readWord (addressPlus a (2 * (row / 2)))).extractLsb' 8 8
      else (mem.readWord (addressPlus a (2 * (row / 2)))).extractLsb' 0 8 := by
  unfold glyphOfWords
  rw [Vector.getElem_ofFn, fieldWord_wordRun mem a (by omega)]

/-- The rows of the loaded glyphs, and of the others, which keep their patterns (R114). -/
theorem glyphRow_glyphsLoaded (loadable : 1 ≤ set ∧ set ≤ 3) (low : 32 ≤ code) (high : code + m ≤ 128) (k : Fin 4) {c row : Nat}
    (lowC : 32 ≤ c) (highC : c ≤ 127) (inGlyph : row < 16) :
    (k.val = set → code ≤ c → c < code + m →
      (s.glyphsLoaded set m code source).glyphRow k c row = if row % 2 = 0
        then (s.work.mem.readWord (source + BitVec.ofNat 20 (16 * (c - code) + 2 * (row / 2)))).extractLsb' 8 8
        else (s.work.mem.readWord (source + BitVec.ofNat 20 (16 * (c - code) + 2 * (row / 2)))).extractLsb' 0 8) ∧
    (¬(k.val = set ∧ code ≤ c ∧ c < code + m) → (s.glyphsLoaded set m code source).glyphRow k c row = s.glyphRow k c row) := by
  induction m generalizing code source s with
  | zero => exact ⟨fun _ _ _ => by omega, fun _ => rfl⟩
  | succ m ih =>
    let first := storeGlyph set code (glyphOfWords ((wordRun source 8).map s.work.mem.readWord)) s
    obtain ⟨loaded, kept⟩ := ih (code := code + 1) (source := addressPlus source 16) (s := first) (by omega) (by omega)
    have firstRow : first.glyphRow k c row = if k.val = set ∧ c = code
        then (glyphOfWords ((wordRun source 8).map s.work.mem.readWord))[row] else s.glyphRow k c row :=
      glyphRow_storeGlyph loadable ⟨low, by omega⟩ k lowC highC inGlyph
    have mem : first.work.mem = s.work.mem := congrArg Work.mem (storeGlyph_work ..)
    refine ⟨fun own from_ below => ?_, fun other => ?_⟩
    · by_cases here : c = code
      · refine (kept (by omega)).trans ?_
        rw [firstRow, if_pos ⟨own, here⟩, getElem_glyphOfWords, here, Nat.sub_self, Nat.mul_zero, Nat.zero_add]
        rfl
      · have address : addressPlus source 16 + BitVec.ofNat 20 (16 * (c - (code + 1)) + 2 * (row / 2)) =
            source + BitVec.ofNat 20 (16 * (c - code) + 2 * (row / 2)) := by
          refine (addressPlus_addressPlus source 16 _).trans ?_
          congr 2
          omega
        refine (loaded own (by omega) (by omega)).trans ?_
        rw [mem, address]
    · refine (kept (by omega)).trans ?_
      rw [firstRow, if_neg (by omega)]

/-- Where every word is read, every glyph is loaded (R114). -/
theorem loadGlyphs_quiet (quiet : s.work.bus = []) (n : LaneNo) :
    loadGlyphs n set m code source s = (true, s.glyphsLoaded set m code source) := by
  induction m generalizing code source s with
  | zero => rfl
  | succ m ih =>
    rw [loadGlyphs, readStationList_completes _ _ _ _ quiet]
    exact ih (by rw [storeGlyph_work]; exact quiet)

/-- At a word that cannot be read the glyphs before its glyph stand (R115). -/
theorem loadGlyphs_unread (quiet : s.work.bus = []) (n : LaneNo) {i : Nat} (at_ : i < 8 * m) {answer : BusAnswer} {kind : Word}
    (fails : answer.FailsRead kind) : loadGlyphs n set m code source (s.onWork (Work.withFailure i answer)) =
      (false, (s.glyphsLoaded set (i / 8) code source).onWork
        (Work.failureNoted kind 1 (BitVec.ofNat 16 n.val) (source + BitVec.ofNat 20 (2 * i)))) := by
  induction m generalizing code source s i with
  | zero => exact absurd at_ (by omega)
  | succ m ih =>
    rw [loadGlyphs, show (s.onWork (Work.withFailure i answer)).work = s.work.withFailure i answer from rfl]
    by_cases inside : i < 8
    · rw [readStationList_fails _ _ _ i (by rw [length_wordRun]; exact inside) _ quiet fails, getElem_wordRun,
        Nat.div_eq_of_lt inside]
      rfl
    · obtain ⟨j, rfl⟩ : ∃ j, i = 8 + j := ⟨i - 8, by omega⟩
      have before := readStationList_before .engine (some n) (wordRun source 8) j answer s.work
      rw [length_wordRun] at before
      have address : addressPlus source 16 + BitVec.ofNat 20 (2 * j) = source + BitVec.ofNat 20 (2 * (8 + j)) := by
        refine (addressPlus_addressPlus source 16 _).trans ?_
        congr 2
        omega
      rw [before, show (8 + j) / 8 = j / 8 + 1 by omega, ← address]
      dsimp only
      have later := ih (s := storeGlyph set code (glyphOfWords ((wordRun source 8).map s.work.mem.readWord)) s) (code := code + 1)
        (source := addressPlus source 16) (i := j) (by rw [storeGlyph_work]; exact quiet) (by omega)
      rw [← storeGlyph_onWork] at later
      exact later

end

/-- A GLYPHLOAD that passes its checks is complete where every word was read (R115). -/
theorem glyphloadAct_of_loads {n : LaneNo} {imm : BitVec 12} {first low high : Word} {s t : State} {whole : Bool}
    (ok : glyphloadOk (imm.extractLsb' 0 2).toNat (imm.extractLsb' 4 7).toNat first.toNat (address20 low high) = true)
    (e : loadGlyphs n (imm.extractLsb' 0 2).toNat (imm.extractLsb' 4 7).toNat first.toNat (address20 low high) s = (whole, t)) :
    glyphloadAct n { imm := imm, words := [first, low, high] } s = if whole then completeRecord n t else endBlock n .memory t := by
  rw [glyphloadAct_eq, checked_true ok, e]
  cases whole <;> rfl

/-- Settles O33: the glyphs loaded where every word is read, and those before the word that cannot be. -/
theorem glyphloadReplacesItsGlyphs : Obligations.GlyphloadReplacesItsGlyphs := by
  intro n s head first low high met kind set count source loads loadable some printable fits even
  have loadable : 1 ≤ set.toNat ∧ set.toNat ≤ 3 := ⟨loadable, Nat.le_of_lt_succ set.isLt⟩
  have ok : glyphloadOk set.toNat count first.toNat (address20 low high) = true := by
    rw [glyphloadOk_iff]
    omega
  let met4 := s.modLane n (Lane.wordsRead 4)
  have spec (m : Nat) (small : m ≤ count) (t : State) (e : t.glyphs = (met4.glyphsLoaded set.toNat m first.toNat source).glyphs)
      (panel : t.panel = s.panel) (pending : t.pending = s.pending) : loads m t := by
    refine ⟨pending, panel, fun k c row lowC highC inGlyph => ?_⟩
    obtain ⟨loaded, kept⟩ := glyphRow_glyphsLoaded (s := met4) (source := source) loadable printable
      (show first.toNat + m ≤ 128 by omega) k lowC highC inGlyph
    have rows : t.glyphRow k c row = (met4.glyphsLoaded set.toNat m first.toNat source).glyphRow k c row := by
      unfold State.glyphRow
      rw [e]
    have named : k = set.toFin ↔ k.val = set.toNat := Fin.ext_iff
    rw [rows, named]
    exact ⟨loaded, kept⟩
  have setIs : (recordImmediate head).extractLsb' 0 2 = set := extractLsb'_recordImmediate head (by decide)
  have countIs : ((recordImmediate head).extractLsb' 4 7).toNat = count :=
    congrArg BitVec.toNat (extractLsb'_recordImmediate head (by decide))
  have runs {whole : Bool} {s' t : State} (e : loadGlyphs n set.toNat count first.toNat source s' = (whole, t)) :
      glyphloadAct n { imm := recordImmediate head, words := [first, low, high] } s' =
        if whole then completeRecord n t else endBlock n .memory t :=
    glyphloadAct_of_loads (by rw [setIs, countIs]; exact ok) (by rw [setIs, countIs]; exact e)
  refine ⟨⟨(met4.glyphsLoaded set.toNat count first.toNat source).modLane n (Lane.recordTaken 0), ?_, ?_, ?_⟩,
    fun i answer code fails at_ => ⟨(met4.glyphsLoaded set.toNat (i / 8) first.toNat source).onWork
      (Work.failureNoted code 1 (BitVec.ofNat 16 n.val) (source + BitVec.ofNat 20 (2 * i))), ?_, ?_, ?_⟩⟩
  · rw [exec_met (k := .glyphload) (by simp [recordCommands]) met kind rfl]
    exact congrArg Host.Outcome.next (runs (loadGlyphs_quiet (s := met4) met.quiet n))
  · obtain ⟨_, panel, pending⟩ := glyphsLoaded_frame (set := set.toNat) (m := count) (code := first.toNat) (source := source) (s := met4)
    exact spec count (Nat.le_refl _) _ rfl panel pending
  · obtain ⟨work, _, _⟩ := glyphsLoaded_frame (set := set.toNat) (m := count) (code := first.toNat) (source := source) (s := met4)
    show (met4.glyphsLoaded set.toNat count first.toNat source).work.modLane n (Lane.recordTaken 0) = _
    rw [work]
    exact Work.modLane_modLane ..
  · refine (exec_met_before (k := .glyphload) (by simp [recordCommands]) met kind rfl i answer).trans ?_
    exact congrArg Host.Outcome.next (runs (loadGlyphs_unread (s := met4) met.quiet n at_ fails))
  · obtain ⟨_, panel, pending⟩ := glyphsLoaded_frame (set := set.toNat) (m := i / 8) (code := first.toNat) (source := source) (s := met4)
    exact spec (i / 8) (by omega) _ rfl panel pending
  · obtain ⟨work, _, _⟩ := glyphsLoaded_frame (set := set.toNat) (m := i / 8) (code := first.toNat) (source := source) (s := met4)
    exact congrArg (Work.failureNoted code 1 (BitVec.ofNat 16 n.val) (source + BitVec.ofNat 20 (2 * i))) work

end Sys2Proof.Machine

/-! CLEARALL, and the marker records: the joins that each brings, and what the event's end leaves of the settled flag. -/

namespace Sys2Proof.Machine

/-! ## CLEARALL -/

theorem Plane.litCells_eq (d : Plane) : d.litCells = (allRows.map fun r => countCols d[r.val]).sum := by
  have same : d.toList.map countCols = allRows.map fun r => countCols d[r.val] := by
    refine List.ext_getElem (by simp [allRows]) fun i h _ => ?_
    simp [allRows]
  rw [Plane.litCells, same]

theorem Plane.getElem_dark (r : Row) : Plane.dark[r.val] = 0 := by simp [Plane.dark]

theorem Panel.mem_litRows (p : Panel) (r : Row) : r ∈ p.litRows ↔ p.drawn[r.val] ≠ 0 := by
  unfold Panel.litRows
  rw [List.mem_filter, bne_iff_ne]
  exact and_iff_right (mem_allRows r)

/-- What CLEARALL does to the plane store (R16, R104). -/
theorem Panel.Sound.clearAll_eq {p : Panel} (h : p.Sound) : p.clearAll = { p with
    drawn := Plane.dark
    queue := p.queue ++ allRows.filter fun r => p.drawn[r.val] != 0 && decide (p.rowState r = .clean)
    bulkRequest := if p.supply.state = .ready then true else p.bulkRequest } := by
  have nodup : p.litRows.Nodup := (List.nodup_finRange 512).filter _
  have joins : Panel.joinRows p.litRows { p with drawn := Plane.dark } = { p with
      drawn := Plane.dark
      queue := p.queue ++ allRows.filter fun r => p.drawn[r.val] != 0 && decide (p.rowState r = .clean) } := by
    rw [Panel.joinRows_queue _ _ nodup]
    · rw [Panel.litRows, List.filter_filter]
      simp only [Bool.and_comm]
      rfl
    · intro r lit clean
      refine Panel.differs_withDrawn (h.cleanAgrees r clean) fun same => (p.mem_litRows r).mp lit ?_
      rw [Plane.getElem_dark] at same
      exact same.symm
  unfold Panel.clearAll
  rw [joins]
  dsimp only
  split <;> rfl

/-- The start test behind CLEARALL fires BULK from IDLE (R29, R31). -/
theorem Panel.startTest_asked {p : Panel} (asked : p.supply.state = .ready → p.bulkRequest = true) : p.startTest = { p with
    driver := if p.supply.state = .ready ∧ p.driver.state = .idle then p.driver.withPulse .bulk bulkPulse else p.driver } := by
  unfold Panel.startTest
  by_cases starts : p.supply.state = .ready ∧ p.driver.state = .idle
  · rw [if_pos starts.symm, if_pos (asked starts.1), if_pos starts]
  · rw [if_neg fun h => starts h.symm, if_neg starts]

/-- Where the settled condition does not come, the settled flag alone follows (R18). -/
theorem noteSettled_of_not_entered {s : State} (h : s.panel.isSettled = true → s.panel.settled = true) :
    noteSettled s = { s with panel := { s.panel with settled := s.panel.isSettled } } := by
  unfold noteSettled
  refine if_neg fun ⟨settled, flag⟩ => ?_
  rw [h settled] at flag
  cases flag

/-- A change of the panel and the start test behind it, of which neither enters settled (R18, R31). -/
theorem startTest_changePanel {f : Panel → Panel} {s : State} {q r : Panel} (changed : f s.panel = q)
    (first : q.isSettled = true → q.settled = true) (starts : ({ q with settled := q.isSettled } : Panel).startTest = r)
    (second : r.isSettled = true → r.settled = true) :
    startTest (changePanel f s) = s.onPanel fun _ => { r with settled := r.isSettled } := by
  subst changed starts
  have once : changePanel f s = { s with panel := { f s.panel with settled := (f s.panel).isSettled } } :=
    noteSettled_of_not_entered (s := s.onPanel f) first
  rw [once]
  exact noteSettled_of_not_entered (s := State.onPanel Panel.startTest { s with panel := { f s.panel with settled := (f s.panel).isSettled } })
    second

/-- The plane store behind CLEARALL, before the start test (R16, R104). -/
def Panel.emptied (p : Panel) : Panel := { p with
  drawn := Plane.dark
  queue := p.queue ++ allRows.filter fun r => p.drawn[r.val] != 0 && decide (p.rowState r = .clean)
  bulkRequest := if p.supply.state = .ready then true else p.bulkRequest }

/-- The driver behind CLEARALL (R29, R31). -/
def Panel.bulkDriver (p : Panel) : Driver :=
  if p.supply.state = .ready ∧ p.driver.state = .idle then p.driver.withPulse .bulk bulkPulse else p.driver

/-- The panel that CLEARALL leaves (R16, R18, R29, R31, R104). -/
def Panel.cleared (p : Panel) : Panel :=
  { p.emptied with
    driver := p.bulkDriver
    settled := ({ p.emptied with driver := p.bulkDriver } : Panel).isSettled }

theorem Panel.Sound.emptied_settled {p : Panel} (sound : p.Sound) (settled : p.emptied.isSettled = true) : p.settled = true := by
  unfold Panel.emptied at settled
  simp only [Panel.isSettled, Bool.and_eq_true, List.isEmpty_iff, List.append_eq_nil_iff, Bool.not_eq_true'] at settled
  obtain ⟨⟨⟨queue, _⟩, pulse⟩, bulk⟩ := settled
  have down : p.supply.state ≠ .ready := fun ready => by
    rw [if_pos ready] at bulk
    cases bulk
  rw [if_neg down] at bulk
  rw [sound.settledFlag, Panel.isSettled, queue, pulse, bulk]
  rfl

/-- CLEARALL enters settled in no case, and its start test fires BULK from IDLE (R18, R29, R31). -/
theorem startTest_clearAll {s : State} (sound : s.panel.Sound) : startTest (changePanel Panel.clearAll s) = s.onPanel Panel.cleared := by
  have starts := Panel.startTest_asked (p := { s.panel.emptied with settled := s.panel.emptied.isSettled })
    fun ready => if_pos ready
  refine startTest_changePanel sound.clearAll_eq (fun settled => sound.emptied_settled settled) starts fun settled => ?_
  by_cases fires : s.panel.supply.state = .ready ∧ s.panel.driver.state = .idle
  · rw [if_pos (by exact fires)] at settled
    simp [Panel.isSettled, Driver.withPulse] at settled
  · rw [if_neg (by exact fires)] at settled
    exact settled

/-- Settles O32: the drawn plane is cleared and its rows join, and the start test fires BULK where the supply lets it. -/
theorem clearallClearsTheDrawnPlane : Obligations.ClearallClearsTheDrawnPlane := by
  intro n s head sound met kind
  have runs : clearallAct n { imm := recordImmediate head, words := [] } (s.modLane n (Lane.wordsRead 1)) =
      pointInside n ((startTest (changePanel Panel.clearAll
        (countCells n s.panel.drawn.litCells (s.modLane n (Lane.wordsRead 1))))).modLane n (Lane.recordTaken 0)) := rfl
  rw [startTest_clearAll (by exact sound)] at runs
  have works : ((s.work.modLane n (Lane.wordsRead 1)).modLane n (Lane.counted s.panel.drawn.litCells)).modLane n (Lane.recordTaken 0) =
      s.work.modLane n fun l => (l.recordTaken 1).counted (allRows.map fun r => countCols s.panel.drawn[r.val]).sum := by
    rw [Work.modLane_modLane, Work.modLane_modLane, Plane.litCells_eq]
    rfl
  refine ⟨((countCells n s.panel.drawn.litCells (s.modLane n (Lane.wordsRead 1))).onPanel Panel.cleared).modLane n (Lane.recordTaken 0),
    ?_, rfl, rfl, works, fun x y => ?_, rfl, rfl, rfl, rfl, rfl, fun ready => if_pos ready, fun down => ?_,
    fun ready idle => if_pos ⟨ready, idle⟩, fun not => if_neg not⟩
  · rw [exec_met (k := .clearall) (by simp [recordCommands]) met kind rfl]
    exact congrArg Host.Outcome.next runs
  · show Plane.dark.cell x y = false
    unfold Plane.cell
    rw [Plane.getElem_dark, getLsbD_zeroCols]
  · obtain ⟨_, _, _, bulk⟩ := sound.darkUnlessReady down
    exact (if_neg down).trans bulk

/-! ## The marker records -/

theorem modLane_drainsWait {n : LaneNo} {s : State} (h : s.DrainsWait) (length : Nat) : (s.modLane n (Lane.wordsRead length)).DrainsWait := by
  intro settled m
  have none := h settled m
  show ((s.work.modLane n (Lane.wordsRead length)).laneOf m).state ≠ .draining
  rw [Work.laneOf_modLane]
  split
  · next e =>
    subst e
    exact none
  · exact none

theorem Marker.rowMask_ne_zero {k : Marker} {r : Row} (active : k.active = true) (on : k.on = true) (reached : k.reaches r = true)
    (columns : k.x + k.w ≤ 512) (wide : 1 ≤ k.w) : k.rowMask r ≠ 0 := by
  unfold Marker.rowMask Marker.inverts
  rw [active, on, reached, Bool.and_self, Bool.and_self, if_pos rfl]
  exact colsSpan_ne_zero _ _ columns wide

/-- The CLEAN rows of a marker, in ascending order. -/
theorem Marker.rows_filter_clean (m : Marker) (p : Panel) : m.rows.filter (fun r => decide (p.rowState r = .clean)) =
    allRows.filter fun r => decide (m.y ≤ r.val) && decide (r.val < m.y + m.h) && decide (p.rowState r = .clean) := by
  rw [Marker.rows, List.filter_filter]
  refine List.filter_congr fun r _ => ?_
  rw [Marker.reaches, Bool.and_comm]

/-- The rows that join as the marker is removed (R127, R128). -/
def Panel.goneRows (m : Fin 2) (p : Panel) : List Row :=
  if (p.markers[m.val].active && p.markers[m.val].on) = true then
    p.markers[m.val].rows.filter (fun r => decide (p.rowState r = .clean)) else []

/-- The CLEAN rows of a marker that is on as it is defined join behind those of the old one (R127). -/
theorem Panel.defineMarker_eq (m : Fin 2) (k : Marker) {p : Panel} (sound : p.Sound) (legal : p.markers[m.val].Legal)
    (active : k.active = true) (columns : k.x + k.w ≤ 512) (wide : 1 ≤ k.w) : p.defineMarker m k = { p with
      markers := p.markers.set m.val k
      queue := p.queue ++ (p.goneRows m ++ if k.on = true then
        k.rows.filter (fun r => decide (p.rowState r = .clean) && decide (r ∉ p.goneRows m)) else []) } := by
  have added : (p.removeMarker m).setMarker m k = { p with markers := p.markers.set m.val k, queue := p.queue ++ p.goneRows m } := by
    rw [Panel.removeMarker_eq m p sound legal]
    unfold Panel.setMarker
    rw [Vector.set_set]
    rfl
  have clean (r : Row) : ({ p with markers := p.markers.set m.val k, queue := p.queue ++ p.goneRows m } : Panel).rowState r = .clean ↔
      p.rowState r = .clean ∧ r ∉ p.goneRows m := by
    rw [Panel.rowState_eq_clean, Panel.rowState_eq_clean]
    show p.firingRow ≠ some r ∧ r ∉ p.queue ++ p.goneRows m ↔ _
    rw [List.mem_append, not_or, and_assoc]
  unfold Panel.defineMarker
  rw [added]
  dsimp only
  by_cases on : k.on = true
  · rw [if_pos on, if_pos on, Panel.joinRows_queue _ _ (Marker.rows_nodup _)]
    · simp only [clean, Bool.decide_and, List.append_assoc]
    · intro r reached isClean
      obtain ⟨was, notGone⟩ := (clean r).mp isClean
      have reached := (Marker.mem_rows k r).mp reached
      refine Panel.differs_setMarker p m k r (sound.cleanAgrees r was) fun same => ?_
      refine Marker.rowMask_ne_zero active on reached columns wide (same.trans (Marker.rowMask_of_not fun covers => notGone ?_))
      obtain ⟨inverts, reaches⟩ := covers
      unfold Panel.goneRows
      rw [if_pos (by exact inverts), List.mem_filter]
      exact ⟨(Marker.mem_rows _ r).mpr reaches, decide_eq_true was⟩
  · rw [if_neg on, if_neg on, List.append_nil]

theorem markerNo_eq {imm : BitVec 12} {m : Fin 2} (h : imm.toNat = m.val) : markerNo imm = m := by
  unfold markerNo
  by_cases zero : imm = 0
  · rw [if_pos zero]
    rw [zero] at h
    exact Fin.ext h
  · rw [if_neg zero]
    have some : imm.toNat ≠ 0 := fun e => zero (BitVec.eq_of_toNat_eq e)
    exact Fin.ext (by show 1 = m.val; omega)

/-- A change of the markers in a record of lane `n`, with the words that were read for it (R107, R108). -/
theorem completeRecord_changeTarget {n : LaneNo} {s : State} (sound : s.panel.Sound) (waits : s.DrainsWait) (length : Nat)
    {f : Panel → Panel} {markers : Vector Marker 2} {joined : List Row}
    (e : f s.panel = { s.panel with markers := markers, queue := s.panel.queue ++ joined }) :
    completeRecord n (changeTarget f (s.modLane n (Lane.wordsRead length))) =
      let p := ({ s.panel with markers := markers } : Panel).withJoins joined
      pointInside n { s with
        panel := p
        work := { s.work.modLane n (Lane.recordTaken length) with
          cause := if joined ≠ [] ∧ p.settled = true then s.work.cause ||| Cause.settled.mask else s.work.cause } } := by
  have changed := changeTarget_joins (s := s.modLane n (Lane.wordsRead length)) f markers joined e sound (modLane_drainsWait waits length)
  rw [changed, completeRecord_eq]
  refine congrArg (pointInside n) ?_
  have twice := Work.modLane_modLane s.work n (Lane.wordsRead length) (Lane.recordTaken 0)
  exact congrArg (fun w : Work => ({ s with
    panel := ({ s.panel with markers := markers } : Panel).withJoins joined
    work := { w with cause := if joined ≠ [] ∧ (({ s.panel with markers := markers } : Panel).withJoins joined).settled = true
      then s.work.cause ||| Cause.settled.mask else s.work.cause } } : State)) twice

/-- Settles O34: the old marker's rows join, and then those of the new one; the event's start test comes with the joins. -/
theorem markerRecordsDefineAndRemove : Obligations.MarkerRecordsDefineAndRemove := by
  intro n s head m sound waits legal named old rowsOf gone after
  have goneIs : s.panel.goneRows m = gone := by
    unfold Panel.goneRows
    rw [Marker.rows_filter_clean]
  constructor
  · intro x y w h pd met kind left right up down wide narrow tall short period duty new
    have ok : markOk (recordImmediate head) x.toInt y.toInt w.toNat h.toNat (pd.extractLsb' 8 8).toNat (pd.extractLsb' 0 8).toNat =
        true := by
      rw [markOk_iff]
      omega
    have newIs : Marker.defined x.toInt.toNat y.toInt.toNat w.toNat h.toNat (pd.extractLsb' 8 8).toNat (pd.extractLsb' 0 8).toNat = new := by
      rw [toNat_toInt_of_nonneg left, toNat_toInt_of_nonneg up]
      rfl
    have columns : new.x + new.w ≤ 512 := by
      have := toNat_toInt_of_nonneg left
      show x.toNat + w.toNat ≤ 512
      omega
    have joins := Panel.defineMarker_eq m new sound legal rfl columns wide
    have newRows : (if new.on = true then new.rows.filter (fun r => decide (s.panel.rowState r = .clean) && decide (r ∉ s.panel.goneRows m))
        else []) = if new.on = true then (rowsOf new).filter (fun r => decide (r ∉ gone)) else [] := by
      rw [goneIs]
      refine if_congr Iff.rfl ?_ rfl
      show _ = (allRows.filter _).filter _
      rw [← Marker.rows_filter_clean, List.filter_filter]
      refine List.filter_congr fun r _ => ?_
      rw [Bool.and_comm]
    rw [newRows, goneIs] at joins
    rw [exec_met (k := .mark) (by simp [recordCommands]) met kind rfl]
    refine congrArg Host.Outcome.next ((markAct_eq n _ _ x y w h pd).trans ?_)
    rw [checked_true ok, newIs, markerNo_eq named]
    exact completeRecord_changeTarget sound waits 6 joins
  · intro met kind
    have joins := Panel.removeMarker_eq m s.panel sound legal
    have rows : (if (s.panel.markers[m.val].active && s.panel.markers[m.val].on) = true then
        s.panel.markers[m.val].rows.filter (fun r => decide (s.panel.rowState r = .clean)) else []) = gone := goneIs
    rw [rows] at joins
    have ok : decide ((recordImmediate head).toNat ≤ 1) = true := by
      rw [decide_eq_true_eq, named]
      omega
    rw [exec_met (k := .unmark) (by simp [recordCommands]) met kind rfl]
    refine congrArg Host.Outcome.next ((unmarkAct_eq n _ _).trans ?_)
    rw [checked_true ok, markerNo_eq named]
    exact completeRecord_changeTarget sound waits 1 joins

end Sys2Proof.Machine

/-! The start test: which row it takes, and the cells that its pulse selects. -/

namespace Sys2Proof.Machine

/-! ## Counting and choosing columns -/

/-- The bits that are counted are the bits that are set. -/
theorem countBits_eq (n v : Nat) : countBits n v = (List.range n).countP fun i => v.testBit i := by
  induction n generalizing v with
  | zero => rfl
  | succ n ih =>
    rw [countBits, ih, List.range_succ_eq_map, List.countP_cons, List.countP_map]
    have bits : (fun i => v.testBit i) ∘ Nat.succ = fun i => (v / 2).testBit i := by
      funext i
      exact Nat.testBit_succ v i
    rw [bits, Nat.testBit_zero]
    obtain even | odd := Nat.mod_two_eq_zero_or_one v
    · simp [even]
    · simp [odd, Nat.add_comm]

/-- A bit is among the lowest `b` where it is set and fewer than `b` lower ones are (R33, R34). -/
theorem testBit_lowestBits (n b v i : Nat) (inside : i < n) :
    (lowestBits n b v).testBit i = (v.testBit i && decide (countBits i v < b)) := by
  induction n generalizing b v i with
  | zero => omega
  | succ n ih =>
    unfold lowestBits
    by_cases none : b = 0
    · rw [if_pos none, Nat.zero_testBit, decide_eq_false (by omega), Bool.and_false]
    · rw [if_neg none]
      cases i with
      | zero =>
        rw [Nat.testBit_zero, Nat.testBit_zero, decide_eq_true (show countBits 0 v < b from Nat.pos_of_ne_zero none), Bool.and_true]
        split
        · next odd => simp [odd, Nat.add_mul_mod_self_left]
        · next even => simp [even]
      | succ i =>
        rw [Nat.testBit_succ, Nat.testBit_succ, countBits]
        split
        · next odd =>
          rw [show (1 + 2 * lowestBits n (b - 1) (v / 2)) / 2 = lowestBits n (b - 1) (v / 2) by omega, ih _ _ _ (by omega), odd]
          congr 1
          exact decide_eq_decide.mpr (by omega)
        · next even =>
          rw [Nat.mul_div_cancel_left _ (by decide), ih _ _ _ (by omega), show v % 2 = 0 by omega, Nat.zero_add]

/-- As many bits are chosen as there are, at most `b`. -/
theorem countBits_lowestBits (n b v : Nat) : countBits n (lowestBits n b v) = min b (countBits n v) := by
  induction n generalizing b v with
  | zero => exact (Nat.min_zero b).symm
  | succ n ih =>
    unfold lowestBits
    by_cases none : b = 0
    · rw [if_pos none, countBits_zero, none, Nat.zero_min]
    · rw [if_neg none, countBits, countBits]
      split
      · next odd =>
        rw [show (1 + 2 * lowestBits n (b - 1) (v / 2)) / 2 = lowestBits n (b - 1) (v / 2) by omega, ih, odd]
        omega
      · next even =>
        rw [Nat.mul_div_cancel_left _ (by decide), ih, show v % 2 = 0 by omega]
        omega

theorem countBits_congr {n v w : Nat} (h : ∀ i, i < n → v.testBit i = w.testBit i) : countBits n v = countBits n w := by
  rw [countBits_eq, countBits_eq]
  exact List.countP_congr fun i mem => by rw [h i (List.mem_range.mp mem)]

theorem getLsbD_lowestCols (b : Nat) (c : Cols) (x : Fin 512) :
    (lowestCols b c).getLsbD x.val = (c.getLsbD x.val && decide (countBits x.val c.toNat < b)) := by
  unfold lowestCols
  rw [BitVec.getLsbD_ofNat, decide_eq_true x.isLt, Bool.true_and, testBit_lowestBits _ _ _ _ x.isLt]
  rfl

/-- Of the columns of a set as many are chosen as the budget lets (R32 to R34). -/
theorem countCols_lowestCols (b : Nat) (c : Cols) : countCols (lowestCols b c) = min b (countCols c) := by
  have bits : countBits 512 (lowestCols b c).toNat = countBits 512 (lowestBits 512 b c.toNat) := by
    refine countBits_congr fun i small => ?_
    have low := getLsbD_lowestCols b c ⟨i, small⟩
    rw [testBit_lowestBits _ _ _ _ small]
    exact low
  unfold countCols
  rw [bits, countBits_lowestBits]

/-- The columns below `x` that satisfy a predicate, counted. -/
theorem length_filter_below {x : Nat} (inside : x ≤ 512) (f : Nat → Bool) :
    ((List.finRange 512).filter fun y => decide (y.val < x) && f y.val).length = (List.range x).countP f := by
  have all : (List.finRange 512).map Fin.val = List.range 512 := List.map_coe_finRange_eq_range
  have split : List.range 512 = List.range x ++ (List.range (512 - x)).map (x + ·) := by
    rw [← List.range_add, Nat.add_sub_cancel' inside]
  have below : (List.range x).countP (fun y => decide (y < x) && f y) = (List.range x).countP f :=
    List.countP_congr fun y mem => by rw [decide_eq_true (List.mem_range.mp mem), Bool.true_and]
  have above : (List.range (512 - x)).countP ((fun y => decide (y < x) && f y) ∘ (x + ·)) = 0 := by
    rw [List.countP_eq_zero]
    intro y _
    simp
  have whole : ((List.finRange 512).filter fun y => decide (y.val < x) && f y.val).length =
      ((List.finRange 512).map Fin.val).countP fun y => decide (y < x) && f y := by
    rw [List.countP_map, List.countP_eq_length_filter]
    rfl
  rw [whole, all, split, List.countP_append, List.countP_map, below, above, Nat.add_zero]

theorem countBits_eq_length (c : Cols) (x : Nat) (inside : x ≤ 512) : countBits x c.toNat =
    ((List.finRange 512).filter fun y => decide (y.val < x) && c.getLsbD y.val).length := by
  rw [length_filter_below inside fun i => c.getLsbD i, countBits_eq]
  exact List.countP_congr fun _ _ => Iff.rfl

theorem countCols_eq_length (c : Cols) : countCols c = ((List.finRange 512).filter fun y : Fin 512 => c.getLsbD y.val).length := by
  rw [countCols, countBits_eq_length c 512 (Nat.le_refl _)]
  refine congrArg List.length (List.filter_congr fun y _ => ?_)
  rw [decide_eq_true y.isLt, Bool.true_and]

theorem countCols_pos {c : Cols} {x : Fin 512} (some : c.getLsbD x.val = true) : 0 < countCols c := by
  rw [countCols_eq_length]
  exact List.length_pos_of_mem (List.mem_filter.mpr ⟨List.mem_finRange x, some⟩)

/-! ## The cells that a pulse selects -/

section

variable (p : Panel) (r : Row)

/-- The target of a cell (R4, R5). -/
def Panel.targetCell (x : Fin 512) : Bool := p.drawn.cell x r != (p.overlayRow r).getLsbD x.val

theorem Panel.getLsbD_targetRow (x : Fin 512) : (p.targetRow r).getLsbD x.val = p.targetCell r x := by
  unfold Panel.targetRow Panel.targetCell Plane.cell
  rw [BitVec.getLsbD_xor]

theorem Panel.getLsbD_needsErase (x : Fin 512) : (p.needsErase r).getLsbD x.val =
    (!p.targetCell r x && (p.panel.cell x r || p.doubt.cell x r)) := by
  unfold Panel.needsErase Plane.cell
  rw [BitVec.getLsbD_and, BitVec.getLsbD_not, BitVec.getLsbD_or, Panel.getLsbD_targetRow, decide_eq_true x.isLt, Bool.true_and]

theorem Panel.getLsbD_needsWrite (x : Fin 512) : (p.needsWrite r).getLsbD x.val =
    (p.targetCell r x && (!p.panel.cell x r || p.doubt.cell x r)) := by
  unfold Panel.needsWrite Plane.cell
  rw [BitVec.getLsbD_and, BitVec.getLsbD_or, BitVec.getLsbD_not, Panel.getLsbD_targetRow, decide_eq_true x.isLt, Bool.true_and]

end

/-- A set of columns is empty exactly where it has no column. -/
theorem cols_eq_zero_iff (c : Cols) : c = 0 ↔ ∀ x : Fin 512, c.getLsbD x.val = false := by
  constructor
  · rintro rfl x
    exact getLsbD_zeroCols x.val
  · intro none
    exact BitVec.eq_of_getLsbD_eq fun i hi => (none ⟨i, hi⟩).trans (getLsbD_zeroCols i).symm

/-- The lowest columns of a set, each by its rank (R33, R34). -/
theorem getLsbD_lowestCols_rank (b : Nat) {c : Cols} {f : Fin 512 → Bool} (cells : ∀ x : Fin 512, c.getLsbD x.val = f x) (x : Fin 512) :
    (lowestCols b c).getLsbD x.val =
      (f x && decide (((List.finRange 512).filter fun y => decide (y < x) && f y).length < b)) := by
  have rank : countBits x.val c.toNat = ((List.finRange 512).filter fun y => decide (y < x) && f y).length := by
    rw [countBits_eq_length c x.val (Nat.le_of_lt x.isLt)]
    refine congrArg List.length (List.filter_congr fun y _ => ?_)
    rw [cells y]
    rfl
  rw [getLsbD_lowestCols, cells x, rank]

/-- A row that differs has a cell to extinguish or a cell to light (R33, R34). -/
theorem Panel.needs_of_differs {p : Panel} {r : Row} (differs : p.differs r = true) (noErase : p.needsErase r = 0) :
    ∃ x : Fin 512, (p.needsWrite r).getLsbD x.val = true := by
  by_contra none
  rw [not_exists] at none
  have cell : ∀ t q u : Bool, (!t && (q || u)) = false → (t && (!q || u)) = false → t = q ∧ u = false := by decide
  have agrees : p.differs r = false := by
    rw [Panel.differs_eq_false_iff_cells]
    intro x
    refine cell _ _ _ ?_ ?_
    · rw [← Panel.targetCell, ← Panel.getLsbD_needsErase, noErase, getLsbD_zeroCols]
    · rw [← Panel.targetCell, ← Panel.getLsbD_needsWrite]
      exact Bool.not_eq_true _ ▸ none x
  rw [agrees] at differs
  cases differs

/-! ## The start test -/

section

variable {p : Panel} (idle : p.driver.state = .idle) (ready : p.supply.state = .ready)

include idle ready

theorem Panel.startTest_bulk (bulk : p.bulkRequest = true) : p.startTest = { p with driver := p.driver.withPulse .bulk bulkPulse } := by
  unfold Panel.startTest
  rw [if_pos ⟨idle, ready⟩, if_pos bulk]

theorem Panel.startTest_take (noBulk : p.bulkRequest = false) : p.startTest = p.take := by
  unfold Panel.startTest
  rw [if_pos ⟨idle, ready⟩, if_neg (by rw [noBulk]; decide)]

/-- Every row that waits is stale (R11). -/
theorem Panel.startTest_stale (noBulk : p.bulkRequest = false) (stale : ∀ r ∈ p.queue, p.differs r = false) :
    p.startTest = { p with queue := [] } := by
  have none : p.queue.dropWhile (fun r => !p.differs r) = [] :=
    List.dropWhile_eq_nil_iff.mpr fun r mem => by rw [stale r mem]; rfl
  rw [Panel.startTest_take idle ready noBulk, Panel.take, none]

/-- The first row that differs is taken, behind the stale ones (R11, R30). -/
theorem Panel.startTest_first (noBulk : p.bulkRequest = false) {stale rest : List Row} {r : Row} (queue : p.queue = stale ++ r :: rest)
    (agree : ∀ q ∈ stale, p.differs q = false) (differs : p.differs r = true) :
    p.startTest = { p with queue := rest, driver := p.driver.withPulse .firing (p.formPulse r) } := by
  have first : p.queue.dropWhile (fun r => !p.differs r) = r :: rest := by
    rw [queue, List.dropWhile_append_of_pos fun q mem => by rw [agree q mem]; rfl, List.dropWhile_cons_of_neg (by rw [differs]; decide)]
  rw [Panel.startTest_take idle ready noBulk, Panel.take, first]

end

theorem Panel.formPulse_erase {p : Panel} {r : Row} (needed : p.needsErase r ≠ 0) :
    (p.formPulse r).kind = .erase ∧ (p.formPulse r).selection = lowestCols p.driver.budget (p.needsErase r) := by
  unfold Panel.formPulse
  dsimp only
  rw [if_neg needed, if_neg needed]
  exact ⟨rfl, rfl⟩

theorem Panel.formPulse_write {p : Panel} {r : Row} (needless : p.needsErase r = 0) :
    (p.formPulse r).kind = .write ∧ (p.formPulse r).selection = lowestCols p.driver.budget (p.needsWrite r) := by
  unfold Panel.formPulse
  dsimp only
  rw [if_pos needless, if_pos needless]
  exact ⟨rfl, rfl⟩

/-- Settles O37: the start test by what waits, and the pulse of the row taken by the cells it needs. -/
theorem startTestTakesTheFirstDifferingRow : Obligations.StartTestTakesTheFirstDifferingRow := by
  intro p
  refine ⟨fun not => if_neg not, fun idle ready => ⟨Panel.startTest_bulk idle ready, Panel.startTest_stale idle ready, ?_⟩⟩
  intro stale rest r noBulk queue agree differs target erases writes
  have erase : ∀ x : Fin 512, (p.needsErase r).getLsbD x.val = erases x := Panel.getLsbD_needsErase p r
  have write : ∀ x : Fin 512, (p.needsWrite r).getLsbD x.val = writes x := Panel.getLsbD_needsWrite p r
  refine ⟨p.formPulse r, Panel.startTest_first idle ready noBulk queue agree differs, rfl, rfl, fun ⟨x, has⟩ => ?_, fun lacks => ?_, ?_⟩
  · have needed : p.needsErase r ≠ 0 := fun zero => by
      rw [← erase x, zero, getLsbD_zeroCols] at has
      cases has
    obtain ⟨kind, selection⟩ := Panel.formPulse_erase needed
    refine ⟨kind, fun x => ?_⟩
    rw [selection]
    exact getLsbD_lowestCols_rank p.driver.budget erase x
  · have needless : p.needsErase r = 0 := (cols_eq_zero_iff _).mpr fun x => (erase x).trans (lacks x)
    obtain ⟨kind, selection⟩ := Panel.formPulse_write needless
    refine ⟨kind, fun x => ?_⟩
    rw [selection]
    exact getLsbD_lowestCols_rank p.driver.budget write x
  · obtain ⟨cells, selection, x, has⟩ : ∃ cells, (p.formPulse r).selection = lowestCols p.driver.budget cells ∧
        ∃ x : Fin 512, cells.getLsbD x.val = true := by
      by_cases needless : p.needsErase r = 0
      · exact ⟨p.needsWrite r, (Panel.formPulse_write needless).2, Panel.needs_of_differs differs needless⟩
      · refine ⟨p.needsErase r, (Panel.formPulse_erase needless).2, ?_⟩
        by_contra lacks
        rw [not_exists] at lacks
        exact needless ((cols_eq_zero_iff _).mpr fun x => Bool.not_eq_true _ ▸ lacks x)
    have count : (p.formPulse r).count = countCols (lowestCols p.driver.budget cells) := by
      rw [← selection]
      rfl
    have positive := countCols_pos has
    refine ⟨by rw [count, selection, countCols_eq_length], ?_, fun budget => ?_⟩
    · rw [count, countCols_lowestCols]
      exact Nat.min_le_left ..
    · rw [count, countCols_lowestCols]
      exact Nat.lt_min.mpr ⟨budget, positive⟩

end Sys2Proof.Machine

/-! The entry into settled: the DRAINs that it completes, lane by lane, and the lane records that it writes. -/

namespace Sys2Proof.Machine

/-! ## Lane records in memory -/

theorem toNat_laneRecord (w : Work) (n : LaneNo) {k : Nat} (h : k < 16) :
    (w.laneRecord n k).toNat = w.port.segment.toNat * 65536 + (128 + 16 * n.val + k) := by
  have base : w.exchangeBase.toNat = w.port.segment.toNat * 65536 := by
    unfold Work.exchangeBase
    rw [BitVec.toNat_append, Nat.shiftLeft_eq]
    exact Nat.or_zero _
  have segment := w.port.segment.isLt
  have lane := n.isLt
  unfold Work.laneRecord Work.exchange addressPlus
  rw [BitVec.toNat_add, BitVec.toNat_ofNat, base]
  omega

theorem wordAddress_of_even {a : Addr} (h : a.toNat % 2 = 0) : wordAddress a = a.toNat := by
  unfold wordAddress
  omega

theorem wordAddress_laneRecord (w : Work) (n : LaneNo) {k : Nat} (h : k < 16) (even : k % 2 = 0) :
    wordAddress (w.laneRecord n k) = w.port.segment.toNat * 65536 + (128 + 16 * n.val + k) := by
  rw [wordAddress_of_even, toNat_laneRecord w n h]
  rw [toNat_laneRecord w n h]
  omega

/-- Words stored at different words of memory are read back (R183). -/
theorem readWord_storeWords_mem {l : List (Addr × Word)} {w : Work} (wf : w.mem.wf)
    (apart : l.Pairwise fun c d => wordAddress c.1 ≠ wordAddress d.1) {c : Addr × Word} (mem : c ∈ l) :
    (storeWords l w).mem.readWord c.1 = c.2 := by
  induction l generalizing w with
  | nil => cases mem
  | cons first rest ih =>
    obtain ⟨ahead, apart⟩ := List.pairwise_cons.mp apart
    rw [storeWords_cons]
    obtain rfl | mem := List.mem_cons.mp mem
    · rw [readWord_storeWords_other rest _ _ ahead]
      exact Memory.readWord_writeWord_same _ _ _ wf
    · exact ih (Memory.wf_writeWord _ _ _ wf) apart mem

/-- The five words of a lane record, each at an even offset of 4 to 12 (R49). -/
theorem laneRecordWords_offset {w : Work} {n : LaneNo} {c : Addr × Word} (mem : c ∈ w.laneRecordWords n) :
    ∃ k, 4 ≤ k ∧ k ≤ 12 ∧ k % 2 = 0 ∧ c.1 = w.laneRecord n k := by
  simp only [Work.laneRecordWords, List.mem_cons, List.not_mem_nil, or_false] at mem
  obtain rfl | rfl | rfl | rfl | rfl := mem
  · exact ⟨6, by decide, by decide, rfl, rfl⟩
  · exact ⟨8, by decide, by decide, rfl, rfl⟩
  · exact ⟨10, by decide, by decide, rfl, rfl⟩
  · exact ⟨12, by decide, by decide, rfl, rfl⟩
  · exact ⟨4, by decide, by decide, rfl, rfl⟩

/-- The octets of a word of a lane record. -/
theorem laneRecordWords_octets {w : Work} {n : LaneNo} {c : Addr × Word} (mem : c ∈ w.laneRecordWords n) :
    ∃ k, 4 ≤ k ∧ k + 1 ≤ 13 ∧ wordAddress c.1 = (w.laneRecord n k).toNat ∧ wordAddress c.1 + 1 = (w.laneRecord n (k + 1)).toNat := by
  obtain ⟨k, low, high, even, e⟩ := laneRecordWords_offset mem
  refine ⟨k, low, by omega, ?_, ?_⟩
  · rw [e, wordAddress_laneRecord w n (by omega) even, toNat_laneRecord w n (by omega)]
  · rw [e, wordAddress_laneRecord w n (by omega) even, toNat_laneRecord w n (by omega)]
    omega

theorem laneRecordWords_apart (w : Work) (n : LaneNo) :
    (w.laneRecordWords n).Pairwise fun c d => wordAddress c.1 ≠ wordAddress d.1 := by
  have at_ {k : Nat} (h : k < 16) (even : k % 2 = 0) := wordAddress_laneRecord w n h even
  have six := at_ (k := 6) (by decide) rfl
  have eight := at_ (k := 8) (by decide) rfl
  have ten := at_ (k := 10) (by decide) rfl
  have twelve := at_ (k := 12) (by decide) rfl
  have four := at_ (k := 4) (by decide) rfl
  simp only [Work.laneRecordWords, List.pairwise_cons, List.mem_cons, List.not_mem_nil, or_false, forall_eq_or_imp, forall_eq,
    six, eight, ten, twelve, four]
  simp

theorem laneRecord_congr {w v : Work} (port : v.port = w.port) (n : LaneNo) (k : Nat) : v.laneRecord n k = w.laneRecord n k := by
  unfold Work.laneRecord Work.exchange Work.exchangeBase
  rw [port]

theorem laneRecordWords_congr {w v : Work} (port : v.port = w.port) {n : LaneNo} (lane : v.laneOf n = w.laneOf n) :
    v.laneRecordWords n = w.laneRecordWords n := by
  unfold Work.laneRecordWords
  simp only [laneRecord_congr port, lane]

/-- A record that was written reads back (R49). -/
theorem readWord_recorded {w : Work} (wf : w.mem.wf) (n : LaneNo) {c : Addr × Word} (mem : c ∈ (w.recorded n).laneRecordWords n) :
    (w.recorded n).mem.readWord c.1 = c.2 := by
  have same : (w.recorded n).laneRecordWords n = w.laneRecordWords n :=
    laneRecordWords_congr (storeWords_port _ _) (recorded_laneOf n n w)
  rw [same] at mem
  exact readWord_storeWords_mem wf (laneRecordWords_apart w n) mem

/-- A lane's record is written in its own octets (R49). -/
theorem read_recorded_other {w : Work} {n : LaneNo} {x : Nat}
    (out : ∀ k, 4 ≤ k → k ≤ 13 → x ≠ (w.laneRecord n k).toNat) : (w.recorded n).mem.read x = w.mem.read x := by
  refine read_storeWords_other _ w x fun c mem => ?_
  obtain ⟨k, low, high, first, second⟩ := laneRecordWords_octets mem
  have at_ := out k low (by omega)
  have next := out (k + 1) (by omega) high
  rw [first]
  rw [← second, first] at next
  exact ⟨at_, next⟩

theorem wf_recorded {w : Work} (wf : w.mem.wf) (n : LaneNo) : (w.recorded n).mem.wf := (storeWords_busOnly _ w).wf wf

theorem Memory.readWord_congr {m m' : Memory} {a : Addr} (high : m'.read (wordAddress a) = m.read (wordAddress a))
    (low : m'.read (wordAddress a + 1) = m.read (wordAddress a + 1)) : m'.readWord a = m.readWord a := by
  unfold Memory.readWord
  rw [high, low]

/-! ## The DRAIN of one lane -/

/-- The lane behind its DRAIN record: READY, one record further, a point owed (R65, R69). -/
def Lane.drained (l : Lane) : Lane := { l with
  state := .ready
  progress := { l.progress with ordinal := l.progress.ordinal + 1, waitCount := 0, limit := none, pointOwed := true } }

/-- A DRAINING lane's record completes and is written; another lane is not touched (R65). -/
def Work.drainEnded (w : Work) (n : LaneNo) : Work :=
  if (w.laneOf n).state = .draining then (w.modLane n Lane.drained).recorded n else w

/-- What the DRAINs leave alone: all but the lanes and memory. -/
structure Work.DrainFrame (w v : Work) : Prop where
  cause : v.cause = w.cause
  port : v.port = w.port
  time : v.time = w.time
  line : v.line = w.line
  bus : v.bus = w.bus
  activeLane : v.activeLane = w.activeLane

theorem Work.DrainFrame.refl (w : Work) : w.DrainFrame w := ⟨rfl, rfl, rfl, rfl, rfl, rfl⟩

theorem Work.DrainFrame.trans {w v u : Work} (h : w.DrainFrame v) (k : v.DrainFrame u) : w.DrainFrame u :=
  ⟨k.cause.trans h.cause, k.port.trans h.port, k.time.trans h.time, k.line.trans h.line, k.bus.trans h.bus,
    k.activeLane.trans h.activeLane⟩

section

variable {w : Work} {n : LaneNo}

theorem drainEnded_of_draining (draining : (w.laneOf n).state = .draining) :
    w.drainEnded n = (w.modLane n Lane.drained).recorded n := if_pos draining

theorem drainEnded_of_not (other : (w.laneOf n).state ≠ .draining) : w.drainEnded n = w := if_neg other

theorem completeDrain_quiet (q : w.bus = []) : completeDrain n w = w.drainEnded n := by
  unfold completeDrain
  split
  · rename_i draining
    rw [drainEnded_of_draining draining]
    exact writeLaneRecord_quiet n 0 q
  · rename_i other
    exact (drainEnded_of_not other).symm

theorem drainEnded_frame (w : Work) (n : LaneNo) : w.DrainFrame (w.drainEnded n) := by
  unfold Work.drainEnded
  split
  · have only := storeWords_busOnly ((w.modLane n Lane.drained).laneRecordWords n) (w.modLane n Lane.drained)
    exact ⟨storeWords_cause _ _, only.port, only.time, only.line, storeWords_bus _ _, (activeLane_congr only.lanes).trans rfl⟩
  · exact .refl w

theorem drainEnded_laneOf (w : Work) (n m : LaneNo) : (w.drainEnded n).laneOf m =
    if m = n ∧ (w.laneOf m).state = .draining then (w.laneOf m).drained else w.laneOf m := by
  by_cases draining : (w.laneOf n).state = .draining
  · rw [drainEnded_of_draining draining, recorded_laneOf, Work.laneOf_modLane]
    by_cases same : m = n
    · rw [if_pos same, same, if_pos ⟨rfl, draining⟩]
    · rw [if_neg same, if_neg fun h => same h.1]
  · rw [drainEnded_of_not draining, if_neg]
    rintro ⟨rfl, h⟩
    exact draining h

theorem drainEnded_wf (wf : w.mem.wf) : (w.drainEnded n).mem.wf := by
  unfold Work.drainEnded
  split
  · exact wf_recorded (by exact wf) n
  · exact wf

theorem read_drainEnded {x : Nat} (out : (w.laneOf n).state = .draining → ∀ k, 4 ≤ k → k ≤ 13 → x ≠ (w.laneRecord n k).toNat) :
    (w.drainEnded n).mem.read x = w.mem.read x := by
  by_cases draining : (w.laneOf n).state = .draining
  · rw [drainEnded_of_draining draining]
    exact read_recorded_other (w := w.modLane n Lane.drained) (out draining)
  · rw [drainEnded_of_not draining]

end

/-! ## The DRAINs of several lanes -/

section

variable {l : List LaneNo} {w : Work}

theorem foldl_completeDrain (q : w.bus = []) : l.foldl (fun w n => completeDrain n w) w = l.foldl Work.drainEnded w := by
  induction l generalizing w with
  | nil => rfl
  | cons n rest ih =>
    rw [List.foldl_cons, List.foldl_cons, completeDrain_quiet q]
    exact ih ((drainEnded_frame w n).bus.trans q)

theorem foldl_drainEnded_frame (l : List LaneNo) (w : Work) : w.DrainFrame (l.foldl Work.drainEnded w) := by
  induction l generalizing w with
  | nil => exact .refl w
  | cons n rest ih => exact (drainEnded_frame w n).trans (ih (w.drainEnded n))

theorem foldl_drainEnded_laneOf (nodup : l.Nodup) (m : LaneNo) : (l.foldl Work.drainEnded w).laneOf m =
    if m ∈ l ∧ (w.laneOf m).state = .draining then (w.laneOf m).drained else w.laneOf m := by
  induction l generalizing w with
  | nil => rw [if_neg fun h => nomatch h.1]; rfl
  | cons n rest ih =>
    obtain ⟨out, nodup⟩ := List.nodup_cons.mp nodup
    rw [List.foldl_cons, ih nodup, drainEnded_laneOf]
    by_cases same : m = n
    · subst same
      rw [if_neg fun h => out h.1]
      simp only [List.mem_cons, true_or, true_and]
    · simp only [List.mem_cons, same, false_or, false_and, if_false]

theorem foldl_drainEnded_of_none (none : w.noneDraining) (l : List LaneNo) : l.foldl Work.drainEnded w = w := by
  induction l with
  | nil => rfl
  | cons n rest ih => rw [List.foldl_cons, drainEnded_of_not (none n), ih]

theorem read_foldl_drainEnded (nodup : l.Nodup) {x : Nat}
    (out : ∀ n ∈ l, (w.laneOf n).state = .draining → ∀ k, 4 ≤ k → k ≤ 13 → x ≠ (w.laneRecord n k).toNat) :
    (l.foldl Work.drainEnded w).mem.read x = w.mem.read x := by
  induction l generalizing w with
  | nil => rfl
  | cons n rest ih =>
    obtain ⟨ahead, nodup⟩ := List.nodup_cons.mp nodup
    rw [List.foldl_cons, ih nodup, read_drainEnded (out n List.mem_cons_self)]
    intro m mem draining
    have other : m ≠ n := fun e => ahead (e ▸ mem)
    rw [drainEnded_laneOf, if_neg fun h => other h.1] at draining
    simp only [laneRecord_congr (drainEnded_frame w n).port]
    exact out m (List.mem_cons_of_mem n mem) draining

/-- The records of different lanes share no octet (R49). -/
theorem laneRecord_apart (w : Work) {n m : LaneNo} (other : n ≠ m) {j k : Nat} (hj : j < 16) (hk : k < 16) :
    (w.laneRecord n j).toNat ≠ (w.laneRecord m k).toNat := by
  rw [toNat_laneRecord w n hj, toNat_laneRecord w m hk]
  have : n.val ≠ m.val := fun e => other (Fin.ext e)
  omega

/-- The record of a lane whose DRAIN ended reads back behind the others' (R49, R65). -/
theorem readWord_foldl_drainEnded (nodup : l.Nodup) (wf : w.mem.wf) {n : LaneNo} (mem : n ∈ l)
    (draining : (w.laneOf n).state = .draining) {c : Addr × Word} (word : c ∈ (l.foldl Work.drainEnded w).laneRecordWords n) :
    (l.foldl Work.drainEnded w).mem.readWord c.1 = c.2 := by
  induction l generalizing w with
  | nil => cases mem
  | cons m rest ih =>
    obtain ⟨ahead, apart⟩ := List.nodup_cons.mp nodup
    rw [List.foldl_cons] at word ⊢
    by_cases first : n = m
    · subst first
      have keeps := foldl_drainEnded_frame rest (w.drainEnded n)
      have lane : (rest.foldl Work.drainEnded (w.drainEnded n)).laneOf n = (w.drainEnded n).laneOf n := by
        rw [foldl_drainEnded_laneOf apart, if_neg fun h => ahead h.1]
      rw [laneRecordWords_congr keeps.port lane] at word
      have written : (w.drainEnded n).mem.readWord c.1 = c.2 := by
        rw [drainEnded_of_draining draining] at word ⊢
        exact readWord_recorded (by exact wf) n word
      have later {j : Nat} (hj : j < 16) : (rest.foldl Work.drainEnded (w.drainEnded n)).mem.read ((w.drainEnded n).laneRecord n j).toNat =
          (w.drainEnded n).mem.read ((w.drainEnded n).laneRecord n j).toNat := by
        refine read_foldl_drainEnded apart fun m mem _ k _ high => laneRecord_apart _ ?_ hj (by omega)
        rintro rfl
        exact ahead mem
      obtain ⟨k, _, high, even, odd⟩ := laneRecordWords_octets word
      refine (Memory.readWord_congr ?_ ?_).trans written
      · rw [even]
        exact later (by omega)
      · rw [odd]
        exact later (by omega)
    · refine ih apart (drainEnded_wf wf) ((List.mem_cons.mp mem).resolve_left first) ?_ word
      rw [drainEnded_laneOf, if_neg fun h => first h.1]
      exact draining

end

/-! ## The entry into settled -/

theorem noteSettled_work_of_stays {s : State} (h : ¬(s.panel.isSettled = true ∧ s.panel.settled = false)) :
    (noteSettled s).work = s.work := by
  unfold noteSettled
  dsimp only
  rw [if_neg h]

theorem noteSettled_work_of_enters {s : State} (q : s.work.bus = []) (settled : s.panel.isSettled = true) (flag : s.panel.settled = false) :
    (noteSettled s).work = (List.finRange 8).foldl Work.drainEnded (setCause .settled s.work) := by
  unfold noteSettled
  dsimp only
  rw [if_pos ⟨settled, flag⟩, settledEntry_work]
  exact foldl_completeDrain q

/-- Settles O38: each DRAINING lane's record is completed and written once, in ascending order. -/
theorem settledEntryCompletesDrains : Obligations.SettledEntryCompletesDrains := by
  unfold Obligations.SettledEntryCompletesDrains
  intro s quiet t completed
  refine ⟨noteSettled_panel s, noteSettled_pending s, noteSettled_glyphs s, noteSettled_work_of_stays, fun settled flag => ?_⟩
  have each : (fun (w : Work) (n : LaneNo) => if (w.laneOf n).state = .draining then (w.modLane n completed).recorded n else w) =
      Work.drainEnded := rfl
  have lanes : ([0, 1, 2, 3, 4, 5, 6, 7] : List LaneNo) = List.finRange 8 := by decide
  rw [each, lanes]
  have e : t.work = (List.finRange 8).foldl Work.drainEnded (setCause .settled s.work) := noteSettled_work_of_enters quiet settled flag
  have keeps := foldl_drainEnded_frame (List.finRange 8) (setCause .settled s.work)
  have nodup := List.nodup_finRange 8
  refine ⟨e, ?_, ?_, ?_, ?_, ?_, ?_, fun none => ?_, fun n => ?_, fun wf n draining c mem => ?_, fun x out => ?_⟩
  all_goals rw [e]
  · exact keeps.cause
  · exact keeps.port
  · exact keeps.time
  · exact keeps.line
  · exact keeps.bus
  · exact keeps.activeLane
  · exact foldl_drainEnded_of_none (by exact none) _
  · rw [foldl_drainEnded_laneOf nodup]
    simp only [List.mem_finRange, true_and]
    rfl
  · rw [e] at mem
    exact readWord_foldl_drainEnded nodup (by exact wf) (List.mem_finRange n) (by exact draining) mem
  · refine read_foldl_drainEnded nodup (w := setCause .settled s.work) fun n _ draining k low high => ?_
    have draining : (s.work.laneOf n).state = .draining := draining
    rw [laneRecord_congr (setCause_port .settled s.work)]
    exact out n k draining low high

end Sys2Proof.Machine

/-! What the glass answers: PDONE, PFAULT and the expiry of an answer deadline, and DRIVE_RESUME. -/

namespace Sys2Proof.Machine

/-! ## The pulse that PREQ stands for -/

section

variable {p : Panel} {pulse : Pulse} {r : Row} {k : Nat}

theorem Panel.issuedRowPulse_of_issued (h : p.RowPulseIssued pulse r k) : p.issuedRowPulse = some (pulse, r, k) := by
  obtain ⟨firing, held, row, deadline⟩ := h
  simp [Panel.issuedRowPulse, held, row, deadline, firing]

theorem Panel.issuedBulkPulse_of_issued (h : p.BulkPulseIssued pulse k) : p.issuedBulkPulse = some (pulse, k) := by
  obtain ⟨bulk, held, deadline⟩ := h
  simp [Panel.issuedBulkPulse, held, deadline, bulk]

/-- The driver's state says which kind of pulse it holds (R29). -/
theorem Panel.issuedBulkPulse_of_row (h : p.RowPulseIssued pulse r k) : p.issuedBulkPulse = none := by
  obtain ⟨firing, held, _, deadline⟩ := h
  simp [Panel.issuedBulkPulse, held, deadline, firing]

theorem Panel.issuedRowPulse_of_bulk (h : p.BulkPulseIssued pulse k) : p.issuedRowPulse = none := by
  cases issued : p.issuedRowPulse with
  | none => rfl
  | some found =>
    obtain ⟨_, _, _, firing⟩ := Panel.issuedRowPulse_some issued
    obtain ⟨bulk, _⟩ := h
    exact absurd (firing.symm.trans bulk) nofun

theorem Panel.issuedRowPulse_of_none (h : p.NoPulseIssued) : p.issuedRowPulse = none := by
  cases issued : p.issuedRowPulse with
  | none => rfl
  | some found =>
    obtain ⟨held, row, deadline, firing⟩ := Panel.issuedRowPulse_some issued
    exact absurd ⟨firing, held, row, deadline⟩ (h.1 _ _ _)

theorem Panel.issuedBulkPulse_of_none (h : p.NoPulseIssued) : p.issuedBulkPulse = none := by
  cases issued : p.issuedBulkPulse with
  | none => rfl
  | some found =>
    obtain ⟨held, deadline, bulk⟩ := Panel.issuedBulkPulse_some issued
    exact absurd ⟨bulk, held, deadline⟩ (h.2 _ _)

end

/-! ## What an answer does to the plane store -/

theorem getLsbD_not_fin (c : Cols) (x : Fin 512) : (~~~c).getLsbD x.val = !c.getLsbD x.val := by
  rw [BitVec.getLsbD_not, decide_eq_true x.isLt, Bool.true_and]

theorem Plane.cell_set (d : Plane) (r : Row) (c : Cols) (x : Fin 512) (y : Row) :
    Plane.cell (d.set r.val c) x y = if y = r then c.getLsbD x.val else d.cell x y := by
  unfold Plane.cell
  by_cases same : y = r
  · rw [if_pos same, same, Vector.getElem_set_self]
  · rw [if_neg same, Vector.getElem_set_ne _ _ fun e => same (Fin.ext e.symm)]

theorem Plane.cell_dark (x : Fin 512) (y : Row) : Plane.dark.cell x y = false := by
  simp [Plane.cell, Plane.dark]

theorem Plane.cell_doubted (x : Fin 512) (y : Row) : Plane.doubted.cell x y = true := by
  unfold Plane.cell Plane.doubted
  rw [Vector.getElem_replicate, BitVec.getLsbD_allOnes, decide_eq_true x.isLt]

section

variable {p : Panel} {pulse : Pulse} {r : Row}

theorem Panel.takeRowAnswer_lit (p : Panel) (pulse : Pulse) (r : Row) (x : Fin 512) (y : Row) :
    (p.takeRowAnswer pulse.kind r pulse.selection).panel.cell x y =
      if y = r ∧ pulse.selection.getLsbD x.val = true then decide (pulse.kind = .write) else p.panel.cell x y := by
  rw [Panel.takeRowAnswer_panel, Plane.cell_set]
  by_cases here : y = r
  · subst here
    unfold Plane.cell
    by_cases writes : pulse.kind = .write
    · rw [if_pos rfl, if_pos writes, BitVec.getLsbD_or]
      cases pulse.selection.getLsbD x.val <;> simp [writes]
    · rw [if_pos rfl, if_neg writes, BitVec.getLsbD_and, getLsbD_not_fin]
      cases pulse.selection.getLsbD x.val <;> simp [writes]
  · rw [if_neg here, if_neg fun h => here h.1]

theorem Panel.takeRowAnswer_doubtful (p : Panel) (pulse : Pulse) (r : Row) (x : Fin 512) (y : Row) :
    (p.takeRowAnswer pulse.kind r pulse.selection).doubt.cell x y =
      if y = r ∧ pulse.selection.getLsbD x.val = true then false else p.doubt.cell x y := by
  rw [Panel.takeRowAnswer_doubt, Plane.cell_set]
  by_cases here : y = r
  · subst here
    unfold Plane.cell
    rw [if_pos rfl, BitVec.getLsbD_and, getLsbD_not_fin]
    cases pulse.selection.getLsbD x.val <;> simp
  · rw [if_neg here, if_neg fun h => here h.1]

/-- A row that goes back to the tail if it still differs (R12). -/
theorem Panel.requeue_eq (r : Row) (p : Panel) :
    p.requeue r = { p with queue := if p.differs r = true then p.queue ++ [r] else p.queue } := by
  unfold Panel.requeue
  by_cases differs : p.differs r = true
  · rw [if_pos differs, if_pos differs]
    rfl
  · rw [if_neg differs, if_neg differs]

theorem Panel.rebuild_eq (p : Panel) : p.rebuild = { p with queue := p.rebuild.differingRows } := by
  unfold Panel.rebuild Panel.differingRows
  rw [Panel.differs_withQueue p (allRows.filter p.differs)]

theorem Panel.completeRow_eq (pulse : Pulse) (r : Row) (p : Panel) : p.completeRow pulse r = { p with
    panel := (p.takeRowAnswer pulse.kind r pulse.selection).panel
    doubt := (p.takeRowAnswer pulse.kind r pulse.selection).doubt
    driver := { p.driver with state := .idle, pulse := none }
    queue := if (p.completeRow pulse r).differs r = true then p.queue ++ [r] else p.queue } := by
  unfold Panel.completeRow
  rw [Panel.requeue_eq]
  rfl

theorem Panel.completeBulk_eq (p : Panel) : p.completeBulk = { p with
    panel := Plane.dark, doubt := Plane.dark, bulkRequest := false, queue := p.completeBulk.differingRows
    driver := { p.driver with state := .idle, pulse := none } } := by
  unfold Panel.completeBulk
  generalize Plane.dark = d
  exact Panel.rebuild_eq _

end

/-! ## PDONE and DRIVE_RESUME -/

section

variable {s : State} {pulse : Pulse} {r : Row} {k : Nat}

theorem exec_rowPdone_of_issued (awake : s.awake) (issued : s.panel.RowPulseIssued pulse r k) :
    exec .rowPdone s = .next ((startTest (changePanel (Panel.completeRow pulse r) s)).onWork settleLanes) := by
  show execRowPdone s = _
  unfold execRowPdone
  rw [event_of_awake awake]
  simp only [Panel.issuedRowPulse_of_issued issued, endPanelEvent]

theorem exec_rowPdone_of_none (awake : s.awake) (none : s.panel.issuedRowPulse = none) : exec .rowPdone s = .next s := by
  show execRowPdone s = _
  unfold execRowPdone
  rw [event_of_awake awake]
  simp only [none]

theorem exec_bulkPdone_of_issued (awake : s.awake) (issued : s.panel.BulkPulseIssued pulse k) :
    exec .bulkPdone s = .next ((startTest (changePanel Panel.completeBulk s)).onWork settleLanes) := by
  show execBulkPdone s = _
  unfold execBulkPdone
  rw [event_of_awake awake]
  simp only [Panel.issuedBulkPulse_of_issued issued, endPanelEvent]

theorem exec_bulkPdone_of_none (awake : s.awake) (none : s.panel.issuedBulkPulse = none) : exec .bulkPdone s = .next s := by
  show execBulkPdone s = _
  unfold execBulkPdone
  rw [event_of_awake awake]
  simp only [none]

end

/-- Settles O40: the completion rule, and the start test behind it. -/
theorem pdoneAndDriveResumeFreeTheDriver : Obligations.PdoneAndDriveResumeFreeTheDriver := by
  unfold Obligations.PdoneAndDriveResumeFreeTheDriver
  intro s awake
  refine ⟨fun pulse r k issued => ?_, fun none => exec_rowPdone_of_none awake (Panel.issuedRowPulse_of_none none),
    fun pulse k issued => ?_, fun none => exec_bulkPdone_of_none awake (Panel.issuedBulkPulse_of_none none),
    fun stalled => ?_, fun other => ?_⟩
  · have done := Panel.completeRow_eq pulse r s.panel
    refine ⟨s.panel.completeRow pulse r, fun x y => ?_, fun x y => ?_, ?_, exec_rowPdone_of_issued awake issued⟩
    · rw [done]
      exact Panel.takeRowAnswer_lit s.panel pulse r x y
    · rw [done]
      exact Panel.takeRowAnswer_doubtful s.panel pulse r x y
    · have lit : (s.panel.completeRow pulse r).panel = (s.panel.takeRowAnswer pulse.kind r pulse.selection).panel := by rw [done]
      have doubtful : (s.panel.completeRow pulse r).doubt = (s.panel.takeRowAnswer pulse.kind r pulse.selection).doubt := by rw [done]
      rw [lit, doubtful]
      exact done
  · refine ⟨s.panel.completeBulk, fun x y => ⟨Plane.cell_dark x y, Plane.cell_dark x y⟩, s.panel.completeBulk_eq,
      exec_bulkPdone_of_issued awake issued⟩
  · rw [exec_driveResume awake, resumeDriver, if_pos stalled]
    rfl
  · rw [exec_driveResume awake, resumeDriver, if_neg other]
    rfl

end Sys2Proof.Machine

/-! PFAULT and the expiry of an answer deadline: the selected cells are doubted, the driver stalls, and the fault is reported. -/

namespace Sys2Proof.Machine

/-! ## A fault at the plane store -/

section

variable {p : Panel} {pulse : Pulse} {r : Row}

theorem Panel.doubtRow_cell (p : Panel) (r : Row) (c : Cols) (x : Fin 512) (y : Row) :
    (p.doubtRow r c).doubt.cell x y = ((decide (y = r) && c.getLsbD x.val) || p.doubt.cell x y) := by
  unfold Panel.doubtRow
  rw [Plane.cell_set]
  by_cases here : y = r
  · subst here
    unfold Plane.cell
    rw [if_pos rfl, BitVec.getLsbD_or, decide_eq_true rfl, Bool.true_and, Bool.or_comm]
  · rw [if_neg here, decide_eq_false here, Bool.false_and, Bool.false_or]

/-- A panel whose driver stalled on a row pulse (R13, R41). -/
def Panel.rowStalled (pulse : Pulse) (r : Row) (p : Panel) : Panel := { p with
  doubt := (p.doubtRow r pulse.selection).doubt, queue := p.queue ++ [r], settled := false
  driver := { p.driver with state := .stalled, pulse := none } }

/-- A panel whose driver stalled on BULK (R17, R41). -/
def Panel.bulkStalled (p : Panel) : Panel := { p with
  doubt := Plane.doubted, bulkRequest := false, queue := allRows, settled := false
  driver := { p.driver with state := .stalled, pulse := none } }

theorem Panel.faultRow_unsettled (pulse : Pulse) (r : Row) (p : Panel) : (p.faultRow pulse r).isSettled = false := by
  simp [Panel.isSettled, Panel.faultRow, Panel.append]

/-- A row of doubted cells differs (R5). -/
theorem Panel.differs_of_doubted {p : Panel} {r : Row} {x : Fin 512} (doubted : p.doubt.cell x r = true) : p.differs r = true := by
  cases e : p.differs r with
  | true => rfl
  | false =>
    have zero := ((Panel.differs_eq_false p r).mp e).2
    unfold Plane.cell at doubted
    rw [zero, getLsbD_zeroCols] at doubted
    cases doubted

/-- A rebuild of a panel of which every row is in doubt queues every row (R14, R17). -/
theorem Panel.rebuild_of_doubted {p : Panel} (doubted : ∀ r, p.doubt.cell 0 r = true) : p.rebuild = { p with queue := allRows } := by
  have all : allRows.filter p.differs = allRows := List.filter_eq_self.mpr fun r _ => Panel.differs_of_doubted (doubted r)
  unfold Panel.rebuild
  rw [all]

theorem Panel.faultBulk_eq (p : Panel) : p.faultBulk = { p with
    doubt := Plane.doubted, bulkRequest := false, queue := allRows
    driver := p.driver.withoutPulse .stalled } := by
  unfold Panel.faultBulk
  have doubted := Plane.cell_doubted 0
  generalize Plane.doubted = d at doubted ⊢
  exact Panel.rebuild_of_doubted doubted

theorem Panel.faultBulk_unsettled (p : Panel) : p.faultBulk.isSettled = false := by
  have some : allRows.isEmpty = false := List.isEmpty_eq_false_iff.mpr (List.ne_nil_of_mem (mem_allRows 0))
  rw [Panel.faultBulk_eq, Panel.isSettled]
  dsimp only
  rw [some, Bool.false_and, Bool.false_and]

/-- The settled flag follows (R18). -/
theorem Panel.faultBulk_stalled (p : Panel) : ({ p.faultBulk with settled := false } : Panel) = p.bulkStalled := by
  rw [Panel.faultBulk_eq]
  unfold Panel.bulkStalled Driver.withoutPulse
  dsimp only

end

/-! ## The report -/

section

variable (kind : DriveFaultKind) (pulse : Pulse) (r : Row) (s : State)

theorem faultRowPulse_eq : faultRowPulse kind pulse r s =
    { s with panel := s.panel.rowStalled pulse r, work := reportDriveFault kind r.val pulse s.work } := by
  unfold faultRowPulse
  rw [changePanel_of_unsettled (s.panel.faultRow_unsettled pulse r)]
  rfl

theorem faultBulkPulse_eq : faultBulkPulse kind pulse s =
    { s with panel := s.panel.bulkStalled, work := reportDriveFault kind 0 pulse s.work } := by
  unfold faultBulkPulse
  rw [changePanel_of_unsettled s.panel.faultBulk_unsettled]
  exact congrArg (fun p => ({ s with panel := p, work := reportDriveFault kind 0 pulse s.work } : State)) s.panel.faultBulk_stalled

end

/-! ## The rows of the drive port -/

section

variable {s : State} {pulse : Pulse} {r : Row} {k : Nat}

theorem exec_pfault_of_row (awake : s.awake) (issued : s.panel.RowPulseIssued pulse r k) : exec .pfault s = .next
    { s with panel := s.panel.rowStalled pulse r, work := settleLanes (reportDriveFault .fault r.val pulse s.work) } := by
  show execPfault s = _
  unfold execPfault
  rw [event_of_awake awake]
  simp only [Panel.issuedRowPulse_of_issued issued]
  rw [faultRowPulse_eq]
  rfl

theorem exec_pfault_of_bulk (awake : s.awake) (issued : s.panel.BulkPulseIssued pulse k) : exec .pfault s = .next
    { s with panel := s.panel.bulkStalled, work := settleLanes (reportDriveFault .bulkFault 0 pulse s.work) } := by
  show execPfault s = _
  unfold execPfault
  rw [event_of_awake awake]
  simp only [Panel.issuedRowPulse_of_bulk issued, Panel.issuedBulkPulse_of_issued issued]
  rw [faultBulkPulse_eq]
  rfl

theorem exec_pfault_of_none (awake : s.awake) (none : s.panel.NoPulseIssued) : exec .pfault s = .next s := by
  show execPfault s = _
  unfold execPfault
  rw [event_of_awake awake]
  simp only [Panel.issuedRowPulse_of_none none, Panel.issuedBulkPulse_of_none none]

/-! ## The driver's part of a tick -/

theorem Panel.rowRunsOut_iff (issued : s.panel.RowPulseIssued pulse r k) : s.panel.rowRunsOut = true ↔ k ≤ 1 := by
  unfold Panel.rowRunsOut
  rw [Panel.issuedRowPulse_of_issued issued, Option.any_some, decide_eq_true_eq]

theorem Panel.bulkRunsOut_iff (issued : s.panel.BulkPulseIssued pulse k) : s.panel.bulkRunsOut = true ↔ k ≤ 1 := by
  unfold Panel.bulkRunsOut
  rw [Panel.issuedBulkPulse_of_issued issued, Option.any_some, decide_eq_true_eq]

theorem exec_pulseTimeout_of_none (awake : s.awake) (none : s.panel.issuedRowPulse = none) : exec .pulseTimeout s = .next s :=
  event_expiry_away awake (by unfold Panel.rowRunsOut; rw [none]; exact Bool.false_ne_true)

theorem exec_bulkTimeout_of_none (awake : s.awake) (none : s.panel.issuedBulkPulse = none) : exec .bulkTimeout s = .next s :=
  event_expiry_away awake (by unfold Panel.bulkRunsOut; rw [none]; exact Bool.false_ne_true)

theorem tickDriver_of_row (issued : s.panel.RowPulseIssued pulse r k) (due : k ≤ 1) :
    takeTick .driver s = faultRowPulse .timeout pulse r s := by
  show tickDriver s = _
  unfold tickDriver
  simp only [Panel.issuedRowPulse_of_issued issued, if_pos due]

theorem tickDriver_of_bulk (issued : s.panel.BulkPulseIssued pulse k) (due : k ≤ 1) :
    takeTick .driver s = faultBulkPulse .bulkTimeout pulse s := by
  show tickDriver s = _
  unfold tickDriver
  simp only [Panel.issuedRowPulse_of_bulk issued, Panel.issuedBulkPulse_of_issued issued, if_pos due]

/-- A tick that the driver takes first (R43, R166). -/
theorem tickFrom_driver (s : State) : tickFrom .driver s = finishTick s [.clock, .lanes, .markers, .supply, .hold] (takeTick .driver s) := rfl

theorem exec_pulseTimeout_due (awake : s.awake) (issued : s.panel.RowPulseIssued pulse r k) (due : k ≤ 1) :
    exec .pulseTimeout s = .next (finishTick s [.clock, .lanes, .markers, .supply, .hold]
      { s with panel := s.panel.rowStalled pulse r, work := reportDriveFault .timeout r.val pulse s.work }) := by
  refine (event_expiry_comes awake ((Panel.rowRunsOut_iff issued).mpr due)).trans ?_
  rw [tickFrom_driver, tickDriver_of_row issued due, faultRowPulse_eq]

theorem exec_bulkTimeout_due (awake : s.awake) (issued : s.panel.BulkPulseIssued pulse k) (due : k ≤ 1) :
    exec .bulkTimeout s = .next (finishTick s [.clock, .lanes, .markers, .supply, .hold]
      { s with panel := s.panel.bulkStalled, work := reportDriveFault .bulkTimeout 0 pulse s.work }) := by
  refine (event_expiry_comes awake ((Panel.bulkRunsOut_iff issued).mpr due)).trans ?_
  rw [tickFrom_driver, tickDriver_of_bulk issued due, faultBulkPulse_eq]

/-- A tick that does not end a deadline takes one from it (R42). -/
theorem tickDriver_long (held : s.panel.driver.pulse = some pulse) (deadline : pulse.deadline = some k)
    (issued : (∃ r, s.panel.RowPulseIssued pulse r k) ∨ s.panel.BulkPulseIssued pulse k) (long : 2 ≤ k) :
    takeTick .driver s = s.onPanel fun p => { p with driver := { p.driver with
      pulse := p.driver.pulse.map fun pulse => { pulse with deadline := some (k - 1) } } } := by
  have away : ¬k ≤ 1 := by omega
  have counts : takeTick .driver s = s.onPanel fun p => { p with driver := p.driver.countTick } := by
    show tickDriver s = _
    unfold tickDriver
    obtain ⟨r, row⟩ | bulk := issued
    · simp only [Panel.issuedRowPulse_of_issued row, if_neg away]
    · simp only [Panel.issuedRowPulse_of_bulk bulk, Panel.issuedBulkPulse_of_issued bulk, if_neg away]
  rw [counts]
  unfold State.onPanel Driver.countTick
  dsimp only
  rw [held]
  simp only [Option.map_some, deadline]
  rfl

end

/-- Settles O41: the plane store and the driver on a fault, and the report of it with each access that can fail. -/
theorem faultOrTimeoutDoubtsAndStalls : Obligations.FaultOrTimeoutDoubtsAndStalls := by
  unfold Obligations.FaultOrTimeoutDoubtsAndStalls
  intro s awake quiet others counted
  refine ⟨fun pulse r k issued => ?_, fun pulse k issued => ?_, fun none => ?_⟩
  · have failing (i : Nat) (answer : BusAnswer) : (s.onWork (Work.withFailure i answer)).awake := awake
    have reports (kind : DriveFaultKind) := reportDriveFault_completes kind r.val pulse s.work quiet
    have cuts (kind : DriveFaultKind) {i : Nat} {answer : BusAnswer} {v : Work} (cut : s.work.DriveFaultCut i answer kind.code r.val pulse v) :=
      reportDriveFault_cut kind r.val pulse s.work v i answer quiet cut
    refine ⟨s.panel.rowStalled pulse r, s.panel.doubtRow_cell r pulse.selection, rfl, ?_, fun due => ?_, fun long => ⟨?_, ?_⟩, ?_,
      fun i answer v => ⟨fun cut => ?_, fun cut due => ?_⟩⟩
    · rw [exec_pfault_of_row awake issued, reports]
      rfl
    · rw [exec_pulseTimeout_due awake issued due, reports]
      rfl
    · refine event_expiry_away awake fun due => ?_
      have := (Panel.rowRunsOut_iff issued).mp due
      omega
    · have ⟨_, held, _, deadline⟩ := issued
      exact tickDriver_long held deadline (.inl ⟨r, issued⟩) long
    · exact exec_bulkTimeout_of_none awake (Panel.issuedBulkPulse_of_row issued)
    · rw [exec_pfault_of_row (failing i answer) (by exact issued)]
      exact congrArg (fun w => Host.Outcome.next { s with panel := s.panel.rowStalled pulse r, work := settleLanes w }) (cuts .fault cut)
    · rw [exec_pulseTimeout_due (failing i answer) (by exact issued) due]
      exact congrArg (fun w => Host.Outcome.next (finishTick (s.onWork (Work.withFailure i answer)) [.clock, .lanes, .markers, .supply, .hold]
        { s with panel := s.panel.rowStalled pulse r, work := w })) (cuts .timeout cut)
  · have failing (i : Nat) (answer : BusAnswer) : (s.onWork (Work.withFailure i answer)).awake := awake
    have reports (kind : DriveFaultKind) := reportDriveFault_completes kind 0 pulse s.work quiet
    have cuts (kind : DriveFaultKind) {i : Nat} {answer : BusAnswer} {v : Work} (cut : s.work.DriveFaultCut i answer kind.code 0 pulse v) :=
      reportDriveFault_cut kind 0 pulse s.work v i answer quiet cut
    refine ⟨s.panel.bulkStalled, Plane.cell_doubted, rfl, ?_, fun due => ?_, fun long => ⟨?_, ?_⟩, ?_,
      fun i answer v => ⟨fun cut => ?_, fun cut due => ?_⟩⟩
    · rw [exec_pfault_of_bulk awake issued, reports]
      rfl
    · rw [exec_bulkTimeout_due awake issued due, reports]
      rfl
    · refine event_expiry_away awake fun due => ?_
      have := (Panel.bulkRunsOut_iff issued).mp due
      omega
    · have ⟨_, held, deadline⟩ := issued
      exact tickDriver_long held deadline (.inr issued) long
    · exact exec_pulseTimeout_of_none awake (Panel.issuedRowPulse_of_bulk issued)
    · rw [exec_pfault_of_bulk (failing i answer) (by exact issued)]
      exact congrArg (fun w => Host.Outcome.next { s with panel := s.panel.bulkStalled, work := settleLanes w }) (cuts .bulkFault cut)
    · rw [exec_bulkTimeout_due (failing i answer) (by exact issued) due]
      exact congrArg (fun w => Host.Outcome.next (finishTick (s.onWork (Work.withFailure i answer)) [.clock, .lanes, .markers, .supply, .hold]
        { s with panel := s.panel.bulkStalled, work := w })) (cuts .bulkTimeout cut)
  · have row := Panel.issuedRowPulse_of_none none
    have bulk := Panel.issuedBulkPulse_of_none none
    exact ⟨exec_pfault_of_none awake none, exec_pulseTimeout_of_none awake row, exec_bulkTimeout_of_none awake bulk, tickDriver_of_none row bulk⟩

end Sys2Proof.Machine

/-! The two ends of a ramp and the changes of SUPOK; the counted tick at the markers. -/

namespace Sys2Proof.Machine

/-! ## The supply monitor -/

section

variable {v : Supply} {s : State}

theorem Supply.readyNext_iff : v.readyNext = true ↔ v.state = .ramping ∧ 10 ≤ v.ramp + 1 ∧ v.supok = true := by
  simp only [Supply.readyNext, Bool.and_eq_true, decide_eq_true_eq, and_assoc]
  exact Iff.rfl

theorem Supply.failsNext_iff : v.failsNext = true ↔ v.state = .ramping ∧ 50 ≤ v.ramp + 1 ∧ v.supok = false := by
  simp only [Supply.failsNext, Bool.and_eq_true, decide_eq_true_eq, Bool.not_eq_true', and_assoc]
  exact Iff.rfl

theorem Supply.actsOnSupok_iff : v.actsOnSupok = true ↔ v.state = .ramping ∧ 10 ≤ v.ramp := by
  simp only [Supply.actsOnSupok, Bool.and_eq_true, decide_eq_true_eq]
  exact Iff.rfl

/-- SUPOK decides which end of the ramp comes (R23, R24). -/
theorem tickSupply_of_ready (h : s.panel.supply.readyNext = true) : takeTick .supply s = supplyReady s := if_pos h

theorem tickSupply_of_fails (h : s.panel.supply.failsNext = true) : takeTick .supply s = supplyFailed s := by
  have low : ¬s.panel.supply.readyNext = true := fun ready => by
    have high := (Supply.readyNext_iff.mp ready).2.2
    rw [(Supply.failsNext_iff.mp h).2.2] at high
    cases high
  show tickSupply s = _
  rw [tickSupply, if_neg low, if_pos h]

theorem tickSupply_of_neither (ready : ¬s.panel.supply.readyNext = true) (fails : ¬s.panel.supply.failsNext = true) :
    takeTick .supply s = s.onPanel fun p => { p with supply := { p.supply with
      ramp := if p.supply.state = .ramping then p.supply.ramp + 1 else p.supply.ramp } } := by
  show tickSupply s = _
  rw [tickSupply, if_neg ready, if_neg fails]
  unfold State.onPanel
  dsimp only
  rw [Supply.countTick_eq]

/-- A tick that the supply monitor takes first (R23, R24, R166). -/
theorem tickFrom_supply (s : State) : tickFrom .supply s = finishTick s [.clock, .lanes, .markers, .driver, .hold] (takeTick .supply s) := rfl

theorem exec_supokRise (awake : s.awake) : exec .supokRise s = .next (riseSupok s) := by
  show execSupokRise s = _
  unfold execSupokRise
  rw [awake]
  rfl

theorem exec_supokFall (awake : s.awake) : exec .supokFall s = .next (fallSupok s) := by
  show execSupokFall s = _
  unfold execSupokFall
  rw [awake]
  rfl

/-- The supply is READY, with its SUPPLY cause set (R23, R28). -/
theorem supplyReady_eq (high : s.panel.supply.supok = true) : supplyReady s =
    ({ s with panel := { s.panel with supply := { state := .ready, ramp := 0, supok := true } } } : State).onWork (setCause .supply) := by
  unfold supplyReady State.onPanel Supply.enter
  dsimp only
  rw [high]

end

/-- Settles O43: both ends of a ramp, and the changes of SUPOK. -/
theorem rampAndSupokDecideTheSupply : Obligations.RampAndSupokDecideTheSupply := by
  unfold Obligations.RampAndSupokDecideTheSupply
  intro s awake others ready comes ends acts high low
  have readyNext : s.panel.supply.readyNext = true ↔ comes := Supply.readyNext_iff
  have failsNext : s.panel.supply.failsNext = true ↔ ends := Supply.failsNext_iff
  have actsOn : s.panel.supply.actsOnSupok = true ↔ acts := Supply.actsOnSupok_iff
  refine ⟨fun h => ?_, fun h => event_expiry_away awake (mt readyNext.mp h),
    fun h => ⟨s.panel.supplyDown .failed, s.panel.supplyDown_entersDark .failed, ?_⟩,
    fun h => event_expiry_away awake (mt failsNext.mp h), fun notReady notFailed => ?_, fun h => ?_, fun h => ?_,
    fun h => ⟨low.panel.supplyDown .failed, low.panel.supplyDown_entersDark .failed, ?_⟩, fun h => ?_⟩
  · refine (event_expiry_comes awake (readyNext.mpr h)).trans ?_
    rw [tickFrom_supply, tickSupply_of_ready (readyNext.mpr h), supplyReady_eq h.2.2]
  · refine (event_expiry_comes awake (failsNext.mpr h)).trans ?_
    rw [tickFrom_supply, tickSupply_of_fails (failsNext.mpr h)]
    rfl
  · exact tickSupply_of_neither (mt readyNext.mp notReady) (mt failsNext.mp notFailed)
  · have risen : supplyReady (s.onPanel (Panel.setSupok true)) = ready := supplyReady_eq (s := s.onPanel (Panel.setSupok true)) rfl
    rw [exec_supokRise awake, riseSupok, if_pos (actsOn.mpr h), risen]
    rfl
  · rw [exec_supokRise awake, riseSupok, if_neg (mt actsOn.mp h)]
    rfl
  · rw [exec_supokFall awake, fallSupok, if_pos h]
    rfl
  · rw [exec_supokFall awake, fallSupok, if_neg h]
    rfl

/-! ## The markers -/

section

variable {k : Marker}

/-- A marker that flips is on after it where it was off before (R126). -/
theorem Marker.advance_of_flip (active : k.active = true) (flips : k.on ≠ decide (k.nextCounter < k.onTime)) :
    k.advance = { k with counter := k.nextCounter, on := !k.on } := by
  have on : ({ k with counter := k.nextCounter } : Marker).onByCounter = !k.on := by
    show decide (k.nextCounter < k.onTime) = !k.on
    rw [← Bool.not_eq.mpr flips]
  unfold Marker.advance
  rw [if_pos active]
  dsimp only
  rw [show (if k.counter + 1 = k.period then 0 else k.counter + 1) = k.nextCounter from rfl, on]

theorem Marker.flipsNext_iff : k.flipsNext = true ↔ k.active = true ∧ k.on ≠ decide (k.nextCounter < k.onTime) := by
  constructor
  · intro flips
    refine ⟨?_, fun steady => ?_⟩
    · cases active : k.active with
      | true => rfl
      | false =>
        rw [Marker.flipsNext, Marker.advance_of_inactive active] at flips
        simp at flips
    · have steady : k.flipsNext = false := Marker.Steady.flips fun _ => steady
      rw [steady] at flips
      cases flips
  · rintro ⟨active, flips⟩
    rw [Marker.flipsNext, Marker.advance_of_flip active flips]
    simp

/-- A row of a marker that flips is inverted before it or behind it, not both (R4, R129). -/
theorem Marker.rowMask_flipped {r : Row} {counter : Nat} (active : k.active = true) (reached : k.reaches r = true)
    (columns : k.x + k.w ≤ 512) (wide : 1 ≤ k.w) :
    ({ k with counter := counter, on := !k.on } : Marker).rowMask r ≠ k.rowMask r := by
  cases on : k.on with
  | true =>
    rw [Marker.rowMask_of_not (m := { k with counter := counter, on := !true }) (by simp [Marker.inverts])]
    exact (Marker.rowMask_ne_zero active on reached columns wide).symm
  | false =>
    rw [Marker.rowMask_of_not (m := k) (by simp [Marker.inverts, on])]
    exact Marker.rowMask_ne_zero (k := { k with counter := counter, on := !false }) active rfl reached columns wide

end

theorem Panel.setMarker_same (m : Fin 2) (p : Panel) : p.setMarker m p.markers[m.val] = p := by
  unfold Panel.setMarker
  rw [Vector.set_getElem_self]

/-- The CLEAN rows of a marker that flips join (R129). -/
theorem Panel.tickMarker_flipped {p : Panel} {m : Fin 2} (active : (p.markers[m.val]).active = true)
    (flips : (p.markers[m.val]).on ≠ decide ((p.markers[m.val]).nextCounter < (p.markers[m.val]).onTime))
    (legal : (p.markers[m.val]).Legal) (agrees : ∀ r, p.rowState r = .clean → p.differs r = false) :
    p.tickMarker m = { p with
      markers := p.markers.set m.val { p.markers[m.val] with counter := (p.markers[m.val]).nextCounter, on := !(p.markers[m.val]).on }
      queue := p.queue ++ (p.markers[m.val]).rows.filter fun r => decide (p.rowState r = .clean) } := by
  unfold Panel.tickMarker
  dsimp only
  rw [if_pos (Marker.flipsNext_iff.mpr ⟨active, flips⟩), Marker.advance_of_flip active flips,
    Panel.joinRows_queue _ _ (Marker.rows_nodup _)]
  · rfl
  · intro r reached clean
    obtain ⟨columns, _, wide, _⟩ := legal active
    exact Panel.differs_setMarker p m _ r (agrees r clean)
      (Marker.rowMask_flipped active ((Marker.mem_rows _ r).mp reached) columns wide)

/-- A tick that the marker unit takes first (R126, R166). -/
theorem tickFrom_markers (s : State) : tickFrom .markers s = finishTick s [.clock, .lanes, .driver, .supply, .hold] (takeTick .markers s) := rfl

/-- Settles O44: the tick of one marker, and of the marker unit. -/
theorem markerFlipJoinsItsRows : Obligations.MarkerFlipJoinsItsRows := by
  unfold Obligations.MarkerFlipJoinsItsRows
  constructor
  · intro m s awake k
    refine ⟨fun running active flips => ?_, fun away => event_expiry_away awake fun due => ?_, fun running => ?_⟩
    · refine (event_expiry_comes awake ?_).trans (congrArg Host.Outcome.next (tickFrom_markers s))
      rw [Bool.and_eq_true, decide_eq_true_eq]
      exact ⟨running, Marker.flipsNext_iff.mpr ⟨active, flips⟩⟩
    · rw [Bool.and_eq_true, decide_eq_true_eq] at due
      obtain ⟨running, flips⟩ := due
      obtain ⟨active, turns⟩ := Marker.flipsNext_iff.mp flips
      obtain stopped | inactive | steady := away
      · exact stopped running
      · rw [active] at inactive
        cases inactive
      · exact turns steady
    · show tickMarkers s = _
      rw [tickMarkers, if_pos running]
      rfl
  · intro m p k
    refine ⟨fun inactive => ?_, fun active steady => ?_, fun active flips legal agrees => ?_⟩
    · have still : (p.markers[m.val]).Steady := fun active => absurd (inactive.symm.trans active) nofun
      rw [Panel.tickMarker_steady still, Marker.advance_of_inactive inactive, Panel.setMarker_same]
    · have still : (p.markers[m.val]).Steady := fun _ => steady
      rw [Panel.tickMarker_steady still, Marker.advance_of_steady active steady]
      rfl
    · rw [← Marker.rows_filter_clean]
      exact Panel.tickMarker_flipped active flips legal agrees

end Sys2Proof.Machine

/-! The line receiver on and off, and a decoded bit on its way through the break count and the window. -/

namespace Sys2Proof.Machine

/-! ## On and off -/

section

variable {w : Work}

/-- The line receiver that stopped (R135). -/
def Work.lineStopped (w : Work) : Work := { w with line :=
  { w.line with state := .off, frame := none, breakFlag := false, octetBits := [], buffer := [] } }

theorem lineOff_of_off (off : w.line.state = .off) : lineOff w = w := if_pos off

theorem lineOff_of_on (on : w.line.state ≠ .off) {v : Work} (dropped : dropFrame w = v) (quiet : v.bus = []) :
    lineOff w = v.lineStopped.statusWritten := by
  unfold lineOff
  rw [if_neg on, dropped, writeLineStatus_quiet (by exact quiet)]
  rfl

/-- The slot of a frame that was open is freed without a loss (R135). -/
theorem dropFrame_of_slot (q : w.bus = []) {f : Frame} {k : SlotNo} (frame : w.line.frame = some f) (slot : f.slot = some k) :
    dropFrame w = w.slotChanged k .free := by
  unfold dropFrame
  simp only [frame, slot]
  exact changeSlot_quiet k .free q

theorem dropFrame_of_none (none : ∀ f k, w.line.frame = some f → f.slot ≠ some k) : dropFrame w = w := by
  unfold dropFrame
  split
  · next frame =>
    split
    · next slot => exact absurd slot (none _ _ frame)
    · rfl
  · rfl

theorem lineOff_of_slot (q : w.bus = []) (on : w.line.state ≠ .off) {f : Frame} {k : SlotNo} (frame : w.line.frame = some f)
    (slot : f.slot = some k) : lineOff w = (w.slotChanged k .free).lineStopped.statusWritten :=
  lineOff_of_on on (dropFrame_of_slot q frame slot) (slotChanged_bus k .free q)

theorem lineOff_of_no_slot (q : w.bus = []) (on : w.line.state ≠ .off) (none : ∀ f k, w.line.frame = some f → f.slot ≠ some k) :
    lineOff w = w.lineStopped.statusWritten := lineOff_of_on on (dropFrame_of_none none) q

theorem exec_lineOn {s : State} (awake : s.awake) (value : Bool) : exec (.lineOn value) s =
    .next (s.onWork fun w => actOnLineOn value { w with port := { w.port with lineOn := value } }) := by
  show execLineOn value s = _
  exact event_of_awake awake _

end

/-- Settles O45: LINE_ON in each state of the line and the engine. -/
theorem lineOnStartsAndStopsTheLine : Obligations.LineOnStartsAndStopsTheLine := by
  unfold Obligations.LineOnStartsAndStopsTheLine
  intro s awake quiet w1 w0 off
  have onInFrame (h : s.work.line.state = .frame) : s.work.line.state ≠ .off := by
    rw [h]
    nofun
  have stays (isOff : s.work.line.state = .off) : lineOff w0 = w0 := lineOff_of_off isOff
  have drops (w : Work) (line : w.line = s.work.line) (q : w.bus = []) (f : Frame) (k : SlotNo) (inFrame : s.work.line.state = .frame)
      (frame : s.work.line.frame = some f) (slot : f.slot = some k) : lineOff w = off (w.slotChanged k .free) :=
    lineOff_of_slot q (by rw [line]; exact onInFrame inFrame) (by rw [line]; exact frame) slot
  have plain (w : Work) (line : w.line = s.work.line) (q : w.bus = []) (on : s.work.line.state ≠ .off)
      (none : ∀ f k, s.work.line.frame = some f → f.slot ≠ some k) : lineOff w = off w :=
    lineOff_of_no_slot q (by rw [line]; exact on) (by rw [line]; exact none)
  have turnsOff : exec (.lineOn false) s = .next (s.onWork fun _ => lineOff w0) := exec_lineOn awake false
  have turnsOn : exec (.lineOn true) s = .next (s.onWork fun _ =>
      if s.work.line.state = .off ∧ s.work.port.engine = .running then lineHunt w1 else w1) := exec_lineOn awake true
  refine ⟨fun isOff running => ?_, fun other => ?_, fun isOff => ?_, fun f k inFrame frame slot => ?_, fun on none => ?_,
    lineOff_of_off, drops s.work rfl quiet, plain s.work rfl quiet⟩
  · rw [turnsOn, if_pos ⟨isOff, running⟩]
    exact congrArg (fun w => Host.Outcome.next (s.onWork fun _ => w)) (writeLineStatus_quiet (by exact quiet))
  · rw [turnsOn, if_neg]
    rintro ⟨isOff, running⟩
    obtain on | stopped := other
    · exact on isOff
    · exact stopped running
  · rw [turnsOff, stays isOff]
  · rw [turnsOff, drops w0 rfl quiet f k inFrame frame slot]
  · rw [turnsOff, plain w0 rfl quiet on none]

/-! ## The window -/

theorem octetOf_eq {bits : List Bool} {o : Byte} (h : ∀ i : Fin 8, o.getLsbD i.val = bits.getD i.val false) : octetOf bits = o := by
  refine BitVec.eq_of_getLsbD_eq fun i less => ?_
  rw [octetOf, BitVec.getLsbD_ofFnLE, dif_pos less]
  exact (h ⟨i, less⟩).symm

/-- The receiver takes the bits that leave the window (R137). -/
def Work.listens (w : Work) : Prop := w.line.state = .frame ∨ (w.line.state = .hunt ∧ w.line.flagSeen = true)

/-- The line with a data bit taken (R137). -/
def Work.dataTaken (b : Bool) (octetBits : List Bool) (w : Work) : Work := { w with line := { w.line with
  ones := if b then w.line.ones + 1 else 0
  octetBits := octetBits
  frame := w.line.frame.map fun f => { f with bits := f.bits + 1 } } }

section

variable {w : Work} {b : Bool}

theorem offerBit_of_deaf (deaf : ¬w.listens) : offerBit b w = (w, []) := if_neg deaf

theorem offerBit_of_inserted (listens : w.listens) (inserted : b = false ∧ w.line.ones = 5) :
    offerBit b w = ({ w with line := { w.line with ones := 0 } }, []) := by
  unfold offerBit
  rw [if_pos (by exact listens), if_pos inserted]
  rfl

theorem offerBit_of_data (listens : w.listens) (data : ¬(b = false ∧ w.line.ones = 5)) : offerBit b w = takeDataBit b w := by
  unfold offerBit
  rw [if_pos (by exact listens), if_neg data]

theorem takeDataBit_of_short (short : w.line.octetBits.length < 7) :
    takeDataBit b w = (w.dataTaken b (w.line.octetBits ++ [b]), []) := by
  have part : (w.line.octetBits ++ [b]).length ≠ 8 := by
    rw [List.length_append, List.length_singleton]
    omega
  unfold takeDataBit
  dsimp only
  rw [if_neg part, if_neg part]
  rfl

theorem takeDataBit_of_eighth (seven : w.line.octetBits.length = 7) : takeDataBit b w =
    if w.line.state = .frame then (takeFrameOctet (octetOf (w.line.octetBits ++ [b])) (w.dataTaken b []), [.frameOctet])
    else (openFrame (octetOf (w.line.octetBits ++ [b])) (w.dataTaken b []), [.frameOpen]) := by
  have whole : (w.line.octetBits ++ [b]).length = 8 := by rw [List.length_append, List.length_singleton, seven]
  unfold takeDataBit
  dsimp only
  rw [if_pos whole, if_pos whole]
  rfl

theorem leaveWindow_of_short (short : w.line.window.length < 8) : leaveWindow w = (w, []) := by
  unfold leaveWindow
  split
  · exact if_neg (by omega)
  · rfl

/-- The oldest bit leaves a full window (R137). -/
theorem leaveWindow_of_full {oldest : WindowBit} {rest : List WindowBit} (window : w.line.window = oldest :: rest) (full : rest.length = 7) :
    leaveWindow w = if oldest.flagEnd = true then ({ w with line := { w.line with window := rest } }, [])
      else offerBit oldest.bit { w with line := { w.line with window := rest } } := by
  have eight : 8 ≤ w.line.window.length := by
    rw [window, List.length_cons]
    omega
  unfold leaveWindow
  simp only [window] at eight ⊢
  rw [if_pos eight]
  rfl

end

/-! ## What a bit completes -/

/-- The window ends in an abort (R137). -/
theorem windowIsAbort_iff {window : List WindowBit} :
    windowIsAbort window = true ↔ ∃ old, window.map WindowBit.bit = old ++ List.replicate 7 true := by
  simp only [windowIsAbort, Bool.and_eq_true, decide_eq_true_eq, List.all_eq_true]
  constructor
  · rintro ⟨long, ones⟩
    refine ⟨(window.map WindowBit.bit).take (window.length - 7), ?_⟩
    have newest : (window.map WindowBit.bit).drop (window.length - 7) = List.replicate 7 true := by
      refine List.eq_replicate_iff.mpr ⟨?_, fun x mem => ?_⟩
      · rw [List.length_drop, List.length_map]
        omega
      · rw [← List.map_drop, List.mem_map] at mem
        obtain ⟨e, here, rfl⟩ := mem
        exact ones e here
    rw [← newest, List.take_append_drop]
  · rintro ⟨old, bits⟩
    have length : window.length = old.length + 7 := by simpa using congrArg List.length bits
    refine ⟨by omega, fun e mem => ?_⟩
    have here : e.bit ∈ (window.map WindowBit.bit).drop (window.length - 7) := by
      rw [← List.map_drop]
      exact List.mem_map_of_mem mem
    rw [bits, length, Nat.add_sub_cancel, List.drop_left] at here
    exact List.eq_of_mem_replicate here

section

variable {w : Work} {b : Bool}

theorem takeBit_fst (b : Bool) (w : Work) : (takeBit b w).1 =
    settleLanes (examineWindow (enterWindow b (leaveWindow (countBreak b w).1).1)).1 := by
  unfold takeBit
  rfl

theorem takeBit_snd (b : Bool) (w : Work) : (takeBit b w).2 = (countBreak b w).2 ++ (leaveWindow (countBreak b w).1).2 ++
    (examineWindow (enterWindow b (leaveWindow (countBreak b w).1).1)).2 := by
  unfold takeBit
  rfl

theorem enterWindow_eq (b : Bool) (w : Work) : enterWindow b w = { w with line := w.line.withBit b } := rfl

theorem examineWindow_of_nothing (flag : w.line.windowBits ≠ [false, true, true, true, true, true, true, false])
    (abort : ∀ old : List Bool, w.line.windowBits ≠ old ++ [true, true, true, true, true, true, true]) : examineWindow w = (w, []) := by
  have notFlag : ¬windowIsFlag w.line.window = true := fun is => flag (of_decide_eq_true is)
  have notAbort : ¬windowIsAbort w.line.window = true := fun is => by
    obtain ⟨old, bits⟩ := windowIsAbort_iff.mp is
    exact abort old bits
  unfold examineWindow
  rw [if_neg notFlag, if_neg notAbort]

theorem examineWindow_of_flag (flag : w.line.windowBits = [false, true, true, true, true, true, true, false]) :
    examineWindow w = takeFlag w := if_pos (decide_eq_true flag)

/-- The abort is complete with the seventh 1 (R137). -/
theorem examineWindow_of_abort {old : List Bool} (bits : w.line.windowBits = old ++ [true, true, true, true, true, true]) :
    examineWindow (enterWindow true w) = takeAbort (enterWindow true w) := by
  have notFlag : ¬windowIsFlag (enterWindow true w).line.window = true := by
    rw [show windowIsFlag (enterWindow true w).line.window = false from windowIsFlag_one _ _]
    exact Bool.false_ne_true
  unfold examineWindow
  rw [if_neg notFlag]
  exact if_pos (windowIsAbort_of_six bits)

/-! ## The break count -/

/-- Outside an entry into BREAK the count of HUNT moves on (R139). -/
theorem countBreak_of_hunt (hunt : w.line.state = .hunt) (short : b = true ∨ w.line.zeros ≠ 31) :
    countBreak b w = ({ w with line := w.line.countZero b }, []) := by
  have less : (if b then 0 else w.line.zeros + 1) ≠ breakLength := by
    show _ ≠ 32
    cases b with
    | true => exact nofun
    | false =>
      obtain impossible | short := short
      · cases impossible
      · show w.line.zeros + 1 ≠ 32
        omega
  unfold countBreak
  simp only [hunt]
  rw [if_neg less]
  rfl

theorem countBreak_of_frame (frame : w.line.state = .frame) : countBreak b w = (w, []) := by
  unfold countBreak
  simp only [frame]

/-- A bit that neither begins nor ends a break (R139). -/
theorem countBreak_of_steady (entry : w.line.state = .hunt → b = true ∨ w.line.zeros ≠ 31) (exit : w.line.state = .inBreak → b = false) :
    countBreak b w = (if w.line.state = .hunt then { w with line := w.line.countZero b } else w, []) := by
  cases state : w.line.state with
  | hunt => rw [countBreak_of_hunt state (entry state), if_pos rfl]
  | frame => rw [countBreak_of_frame state, if_neg nofun]
  | off =>
    rw [if_neg nofun]
    unfold countBreak
    simp only [state]
  | inBreak =>
    rw [if_neg nofun, exit state]
    unfold countBreak
    simp only [state]
    rfl

end

/-! ## Edges of LCLK -/

section

variable {w : Work} {ldat : Bool}

theorem freeEdge_of_off (off : w.line.state = .off) : freeEdge ldat w = (w, []) := if_pos off

theorem busyEdge_of_off (off : w.line.state = .off) : busyEdge ldat w = w := if_pos off

theorem takeBits_cons_fst (b : Bool) (rest : List Bool) (w : Work) : (takeBits (b :: rest) w).1 = (takeBits rest (takeBit b w).1).1 := rfl

theorem takeBits_append_fst (l k : List Bool) (w : Work) : (takeBits (l ++ k) w).1 = (takeBits k (takeBits l w).1).1 := by
  induction l generalizing w with
  | nil => rfl
  | cons b rest ih =>
    rw [List.cons_append, takeBits_cons_fst, takeBits_cons_fst]
    exact ih _

/-- A free edge passes on the bits that waited and then its own (R136). -/
theorem freeEdge_of_on (on : w.line.state ≠ .off) {bit : Option Bool} {v : Work} (sample : decodeSample ldat w = (bit, v)) :
    (freeEdge ldat w).1 = (takeBits (v.line.buffer ++ bit.toList) { v with line := { v.line with buffer := [] } }).1 := by
  unfold freeEdge
  rw [if_neg on, sample, takeBits_append_fst]
  rfl

theorem busyEdge_of_on (on : w.line.state ≠ .off) {bit : Option Bool} {v : Work} (sample : decodeSample ldat w = (bit, v)) :
    busyEdge ldat w = { v with line := { v.line with
      buffer := if v.line.buffer.length < 64 then v.line.buffer ++ bit.toList else v.line.buffer } } := by
  unfold busyEdge
  rw [if_neg on, sample]
  rfl

theorem codingIsNrzi_of_settings {t : LineSettings} (settings : w.line.settings = some t) : w.codingIsNrzi = t.nrzi := by
  unfold Work.codingIsNrzi
  simp only [settings]

theorem decodeSample_of_nrz {t : LineSettings} (settings : w.line.settings = some t) (nrz : t.nrzi = false) :
    decodeSample ldat w = (some ldat, w) := by
  unfold decodeSample
  rw [codingIsNrzi_of_settings settings, nrz, if_neg Bool.false_ne_true]

theorem decodeSample_of_nrzi {t : LineSettings} (settings : w.line.settings = some t) (nrzi : t.nrzi = true) :
    decodeSample ldat w = (w.line.reference.map fun level => level == ldat, { w with line := { w.line with reference := some ldat } }) := by
  unfold decodeSample
  rw [codingIsNrzi_of_settings settings, if_pos nrzi]
  rfl

theorem beq_eq_decide_level (r ldat : Bool) : (r == ldat) = decide (r = ldat) := by
  cases r <;> cases ldat <;> rfl

theorem exec_lclkRisingEdge_free {s : State} (awake : s.awake) :
    exec (.lclkRisingEdge ldat false) s = .next (s.onWork fun w => (freeEdge ldat w).1) := by
  show execLclkRisingEdge ldat false s = _
  exact event_of_awake awake _

theorem exec_lclkRisingEdge_busy {s : State} (awake : s.awake) :
    exec (.lclkRisingEdge ldat true) s = .next (s.onWork (busyEdge ldat)) := by
  show execLclkRisingEdge ldat true s = _
  exact event_of_awake awake _

end

/-- Settles O46: the coding, the window's oldest bit, and a bit that completes nothing. -/
theorem edgeFormsABitThatPassesTheWindow : Obligations.EdgeFormsABitThatPassesTheWindow := by
  unfold Obligations.EdgeFormsABitThatPassesTheWindow
  refine ⟨fun s ldat awake => ⟨fun off busy => ?_, ?_, takeBits_cons_fst, fun _ => rfl⟩, fun w oldest rest => ⟨fun short => ?_, ?_, ?_⟩⟩
  · cases busy with
    | false =>
      rw [exec_lclkRisingEdge_free awake]
      exact congrArg (fun w => Host.Outcome.next { s with work := w }) (congrArg Prod.fst (freeEdge_of_off off))
    | true =>
      rw [exec_lclkRisingEdge_busy awake]
      exact congrArg (fun w => Host.Outcome.next { s with work := w }) (busyEdge_of_off off)
  · intro t on settings waiting add
    have free {bit : Option Bool} {v : Work} (sample : decodeSample ldat s.work = (bit, v)) :=
      (exec_lclkRisingEdge_free awake).trans (congrArg (fun w => Host.Outcome.next { s with work := w }) (freeEdge_of_on on sample))
    have busy {bit : Option Bool} {v : Work} (sample : decodeSample ldat s.work = (bit, v)) :=
      (exec_lclkRisingEdge_busy awake).trans (congrArg (fun w => Host.Outcome.next { s with work := w }) (busyEdge_of_on on sample))
    refine ⟨fun nrz => ?_, fun nrzi r reference => ?_, fun nrzi none => ?_⟩
    · have sample := decodeSample_of_nrz (ldat := ldat) settings nrz
      exact ⟨free sample, busy sample⟩
    · have sample := decodeSample_of_nrzi (ldat := ldat) settings nrzi
      rw [reference, Option.map_some, beq_eq_decide_level] at sample
      exact ⟨free sample, busy sample⟩
    · have sample := decodeSample_of_nrzi (ldat := ldat) settings nrzi
      rw [none, Option.map_none] at sample
      have first := free sample
      have second := busy sample
      simp only [Option.toList_none, List.append_nil, ite_self] at first second
      exact ⟨first, second⟩
  · rw [leaveWindow_of_short short]
  · intro window full w1 listens
    have left := leaveWindow_of_full window full
    refine ⟨fun dropped => ?_, fun notEnd hears => ?_⟩
    · rw [left]
      by_cases flagEnd : oldest.flagEnd = true
      · rw [if_pos flagEnd]
      · obtain isEnd | deaf := dropped
        · exact absurd isEnd flagEnd
        · rw [if_neg flagEnd, offerBit_of_deaf (w := w1) deaf]
    · rw [if_neg (by rw [notEnd]; exact Bool.false_ne_true)] at left
      refine ⟨fun zero five => ?_, fun data => ?_⟩
      · rw [left, offerBit_of_inserted (w := w1) hears ⟨zero, five⟩]
      · intro w2
        rw [offerBit_of_data (w := w1) hears data] at left
        refine ⟨fun short => ?_, fun o seven bits => ⟨fun frame => ?_, fun hunt => ?_⟩⟩
        · rw [left, takeDataBit_of_short (by exact short)]
          rfl
        · rw [left, takeDataBit_of_eighth (by exact seven), octetOf_eq (by exact bits), if_pos (by exact frame)]
          rfl
        · rw [left, takeDataBit_of_eighth (by exact seven), octetOf_eq (by exact bits), if_neg]
          · rfl
          · show ¬w.line.state = .frame
            rw [hunt]
            nofun
  · intro b w w1 entered entry exit flag abort
    rw [takeBit_fst, countBreak_of_steady entry exit]
    exact congrArg (fun p : Work × List LineEvent => settleLanes p.1) (examineWindow_of_nothing (w := enterWindow b w1) flag abort)

end Sys2Proof.Machine

/-! Flags and aborts in HUNT, and the octets of a frame: its open, the delay, the head and the payload. -/

namespace Sys2Proof.Machine

/-! ## The event that an edge completes -/

section

variable {w : Work} {ldat b : Bool} {l : LineReceiver}

/-- An edge whose bit completes the event is that event's row (R136). -/
theorem edgeWith_of_mem (forms : w.EdgeForms ldat b l) {e : LineEvent} (mem : e ∈ (takeBit b { w with line := l }).2) :
    edgeWith e ldat w = (takeBit b { w with line := l }).1 := by
  unfold edgeWith
  rw [freeEdge_of_edgeForms forms]
  exact if_pos mem

/-- The edge moves the reference level only (R136). -/
theorem Work.EdgeForms.line_eq (forms : w.EdgeForms ldat b l) : ∃ r, l = { w.line with reference := r } := by
  obtain ⟨_, _, _, t, _, ⟨_, _, rfl⟩ | ⟨_, _, _, _, rfl⟩⟩ := forms
  · exact ⟨w.line.reference, rfl⟩
  · exact ⟨some ldat, rfl⟩

theorem Work.EdgeForms.quiet (forms : w.EdgeForms ldat b l) : w.bus = [] := forms.1

/-- The row of an event that the bit completes as the window is examined. -/
theorem edgeWith_of_examined (forms : w.EdgeForms ldat b l) {c v : Work} {e : LineEvent} {events : List LineEvent}
    (counted : countBreak b { w with line := l } = (c, []))
    (examined : examineWindow (enterWindow b (leaveWindow c).1) = (v, events)) (mem : e ∈ events) :
    edgeWith e ldat w = settleLanes v := by
  rw [edgeWith_of_mem forms, takeBit_fst, counted, examined]
  rw [takeBit_snd, counted, examined]
  exact List.mem_append_right _ mem

/-- The row of an event that the bit completes as the oldest bit leaves the window. -/
theorem edgeWith_of_left (forms : w.EdgeForms ldat b l) {c v : Work} {e : LineEvent} {events : List LineEvent}
    (counted : countBreak b { w with line := l } = (c, [])) (left : leaveWindow c = (v, events)) (mem : e ∈ events)
    (examined : examineWindow (enterWindow b v) = (enterWindow b v, [])) : edgeWith e ldat w = settleLanes (enterWindow b v) := by
  rw [edgeWith_of_mem forms, takeBit_fst, counted, left, examined]
  rw [takeBit_snd, counted, left]
  exact List.mem_append_left _ (List.mem_append_right _ mem)

/-- The break count of an edge that leaves HUNT alone. -/
theorem countBreak_of_edge (forms : w.EdgeForms ldat b l) (hunt : w.line.state = .hunt) (short : b = true ∨ w.line.zeros < 31) :
    countBreak b { w with line := l } = ({ w with line := l.countZero b }, []) := by
  obtain ⟨r, rfl⟩ := forms.line_eq
  exact countBreak_of_hunt hunt (short.imp id fun less => by show w.line.zeros ≠ 31; omega)

end

/-! ## Flags and aborts -/

section

variable {w : Work}

theorem takeFlag_of_hunt (hunt : w.line.state = .hunt) : takeFlag w = ({ w with line := { w.line with
    flagSeen := true, window := [{ bit := false, flagEnd := true }], ones := 0, octetBits := [] } }, [.huntFlag]) := by
  unfold takeFlag
  dsimp only
  split
  · rfl
  all_goals
    next other => exact absurd (hunt.symm.trans other) nofun

theorem takeFlag_of_frame (frame : w.line.state = .frame) : takeFlag w = (closeFrame { w with line := { w.line with
    window := [{ bit := false, flagEnd := true }], ones := 0 } }, [.frameClose]) := by
  unfold takeFlag
  dsimp only
  split
  · next other => exact absurd (frame.symm.trans other) nofun
  · rfl
  all_goals
    next other => exact absurd (frame.symm.trans other) nofun

theorem takeAbort_of_hunt (hunt : w.line.state = .hunt) (flagSeen : w.line.flagSeen = true) : takeAbort w = ({ w with line := { w.line with
    flagSeen := false, window := [], ones := 0, octetBits := [] } }, [.huntAbort]) := by
  unfold takeAbort
  dsimp only
  split
  · rw [if_pos flagSeen]
    rfl
  all_goals
    next other => exact absurd (hunt.symm.trans other) nofun

theorem takeAbort_of_frame (frame : w.line.state = .frame) :
    takeAbort w = (abortFrame { w with line := { w.line with window := [], ones := 0 } }, [.frameAbort]) := by
  unfold takeAbort
  dsimp only
  split
  · next other => exact absurd (frame.symm.trans other) nofun
  · rfl
  all_goals
    next other => exact absurd (frame.symm.trans other) nofun

/-- The flag is complete with its final 0 (R137). -/
theorem windowBits_enter (b : Bool) (w : Work) : (enterWindow b w).line.windowBits = w.line.windowBits ++ [b] := by
  show List.map _ (w.line.window ++ [_]) = _
  rw [List.map_append]
  rfl

theorem examineWindow_completes_flag (bits : w.line.windowBits = [false, true, true, true, true, true, true]) :
    examineWindow (enterWindow false w) = takeFlag (enterWindow false w) :=
  examineWindow_of_flag (by rw [windowBits_enter, bits]; rfl)

end

theorem exec_huntFlag {s : State} (awake : s.awake) (ldat : Bool) :
    exec (.huntFlag ldat) s = .next (s.onWork (edgeWith .huntFlag ldat)) := by
  show execHuntFlag ldat s = _
  exact event_of_awake awake _

theorem exec_huntAbort {s : State} (awake : s.awake) (ldat : Bool) :
    exec (.huntAbort ldat) s = .next (s.onWork (edgeWith .huntAbort ldat)) := by
  show execHuntAbort ldat s = _
  exact event_of_awake awake _

theorem exec_frameOpen {s : State} (awake : s.awake) (ldat : Bool) :
    exec (.frameOpen ldat) s = .next (s.onWork (edgeWith .frameOpen ldat)) := by
  show execFrameOpen ldat s = _
  exact event_of_awake awake _

theorem exec_frameOctet {s : State} (awake : s.awake) (ldat : Bool) :
    exec (.frameOctet ldat) s = .next (s.onWork (edgeWith .frameOctet ldat)) := by
  show execFrameOctet ldat s = _
  exact event_of_awake awake _

theorem exec_frameAbort {s : State} (awake : s.awake) (ldat : Bool) :
    exec (.frameAbort ldat) s = .next (s.onWork (edgeWith .frameAbort ldat)) := by
  show execFrameAbort ldat s = _
  exact event_of_awake awake _

theorem exec_frameClose {s : State} (awake : s.awake) (ldat : Bool) :
    exec (.frameClose ldat) s = .next (s.onWork (edgeWith .frameClose ldat)) := by
  show execFrameClose ldat s = _
  exact event_of_awake awake _

/-- Settles O47: the flag and the abort as the window is examined. -/
theorem flagAndAbortInHunt : Obligations.FlagAndAbortInHunt := by
  unfold Obligations.FlagAndAbortInHunt
  intro s ldat b l old awake forms hunt w1
  refine ⟨fun zero few stays bits => ?_, fun one stays flagSeen bits => ?_⟩
  · subst zero
    have examined : examineWindow (enterWindow false w1) = _ :=
      (examineWindow_completes_flag bits).trans (takeFlag_of_hunt (by exact stays))
    rw [exec_huntFlag awake]
    exact congrArg (fun w => Host.Outcome.next { s with work := w })
      (edgeWith_of_examined forms (countBreak_of_edge forms hunt (.inr few)) examined List.mem_cons_self)
  · subst one
    have examined : examineWindow (enterWindow true w1) = _ :=
      (examineWindow_of_abort bits).trans (takeAbort_of_hunt (by exact stays) (by exact flagSeen))
    rw [exec_huntAbort awake]
    exact congrArg (fun w => Host.Outcome.next { s with work := w })
      (edgeWith_of_examined forms (countBreak_of_edge forms hunt (.inl rfl)) examined List.mem_cons_self)

end Sys2Proof.Machine

/-! The octets of a frame: its open in the lowest FREE slot or with none, the delay, the head and the payload. -/

namespace Sys2Proof.Machine

/-! ## A failed write of one word -/

/-- A write of one word that fails (R183, R184). -/
theorem writeStation_cut {w : Work} (u : MemUnit) (n : Option LaneNo) (a : Addr) (v : Word) (kept : Bool) (q : w.bus = []) :
    writeStation u n a v (w.withFailure 0 (.noAnswer kept)) = (false, w.cutShort 0 kept u.code (laneCode n) [(a, v)]) := by
  rw [writeStation_fails u n a v kept w q]
  cases kept <;> rfl

/-- The frame in assembly loses its slot behind a failed write (R141, R142, R146). -/
theorem discardSlot_skipFrame {w : Work} (k : SlotNo) (reason : LossReason) (q : w.bus = []) :
    discardSlot k reason (skipFrame w) = w.frameLost k reason := discardSlot_quiet k reason (by exact q)

theorem frameLost_bus {w : Work} (k : SlotNo) (reason : LossReason) (q : w.bus = []) : (w.frameLost k reason).bus = [] :=
  lossReported_bus reason (slotChanged_bus k .free (by exact q))

/-! ## The open of a frame -/

section

variable {w : Work} {o : Byte}

/-- The line in FRAME with this frame at its open (R141). -/
def Work.framed (f : Frame) (w : Work) : Work := { w with line := { w.line with state := .frame, frame := some f } }

theorem framed_eq (f : Frame) (w : Work) : (w.modLine fun l => { l with state := .frame }).withFrame f = w.framed f := rfl

/-- The lowest FREE slot of the spool (R141). -/
theorem lowestFree_eq_some {sp : Spool} (spool : w.line.spool = some sp) {k : SlotNo} (within : k.val < sp.count)
    (free : w.slotOf k = .free) (least : ∀ j, j < k → w.slotOf j ≠ .free) : w.lowestFree = some k := by
  unfold Work.lowestFree
  simp only [spool]
  rw [List.find?_eq_some_iff_getElem]
  refine ⟨by simp [within, free], k.val, by simp, by simp, fun j below => ?_⟩
  have taken := least ⟨j, by omega⟩ below
  simp [taken]

theorem lowestFree_eq_none {sp : Spool} (spool : w.line.spool = some sp) (taken : ∀ k : SlotNo, k.val < sp.count → w.slotOf k ≠ .free) :
    w.lowestFree = none := by
  unfold Work.lowestFree
  simp only [spool]
  refine List.find?_eq_none.mpr fun k _ => ?_
  simpa using taken k

theorem openFrame_of_some {k : SlotNo} (lowest : w.lowestFree = some k) : openFrame o w = takeFrameOctet o (openSlot k w) := by
  unfold openFrame
  rw [lowest]

theorem openFrame_of_none (lowest : w.lowestFree = none) : openFrame o w = takeFrameOctet o (openSkipped w) := by
  unfold openFrame
  rw [lowest]

/-- A failed write of the opened slot's state word gives the slot back (R141). -/
theorem openSlot_cut (k : SlotNo) (kept : Bool) (q : w.bus = []) : openSlot k (w.withFailure 0 (.noAnswer kept)) =
    ((((w.framed (Frame.opened w.crcOctets (some k))).setSlot k .filling).cutShort 0 kept 2 8 [(w.slotAddress k, 1)]).frameLost k
      .memory).statusWritten := by
  have opened : ((w.framed (Frame.opened w.crcOctets (some k))).setSlot k .filling).bus = [] := q
  have fails := writeStation_cut .line none (w.slotAddress k) 1 kept opened
  have lost : (((w.framed (Frame.opened w.crcOctets (some k))).setSlot k .filling).cutShort 0 kept 2 8 [(w.slotAddress k, 1)]).bus = [] :=
    (cutShort_bus _ _ _ _ _ _).trans opened
  show (match writeStation .line none (w.slotAddress k) 1
      (((w.framed (Frame.opened w.crcOctets (some k))).setSlot k .filling).withFailure 0 (.noAnswer kept)) with
    | (true, w1) => writeLineStatus w1
    | (false, w1) => writeLineStatus (discardSlot k .memory (skipFrame w1))) = _
  rw [fails]
  exact (congrArg writeLineStatus (discardSlot_skipFrame k .memory lost)).trans (writeLineStatus_quiet (frameLost_bus k .memory lost))

end

/-! ## An octet of an open frame -/

section

variable {f : Frame} {n room : Nat} {o : Byte}

/-- The frame with one octet more counted (R141). -/
def Frame.counted (f : Frame) : Frame := { f with octets := min 65535 (f.octets + 1) }

theorem Frame.enterDelay_of_room (room : f.delay.length < n) :
    f.enterDelay n o = (none, { f.counted with delay := f.delay ++ [o] }) := by
  unfold Frame.enterDelay
  dsimp only
  split
  · exact if_neg (by omega)
  · next empty =>
    rw [empty]
    rfl

theorem Frame.enterDelay_of_full {first : Byte} {rest : List Byte} (delay : f.delay = first :: rest) (full : n ≤ f.delay.length) :
    f.enterDelay n o = (some first, { f.counted with delay := rest ++ [o] }) := by
  unfold Frame.enterDelay
  dsimp only
  split
  · next head =>
    rw [delay] at head
    cases head
    exact if_pos full
  · next empty =>
    rw [delay] at empty
    cases empty

theorem Frame.absorb_of_long (long : f.long = true) : f.absorb n room o = (f, none) := if_pos long

theorem Frame.absorb_of_head (long : f.long = false) (head : f.head.length < 3) :
    f.absorb n room o = ({ f with head := f.head ++ [o], crc := crcOctet n f.crc o }, none) := by
  unfold Frame.absorb
  rw [if_neg (by rw [long]; exact Bool.false_ne_true), if_pos head]

theorem Frame.absorb_of_overrun (long : f.long = false) (head : 3 ≤ f.head.length) (overrun : room ≤ f.stored) :
    f.absorb n room o = ({ f with long := true }, none) := by
  unfold Frame.absorb
  rw [if_neg (by rw [long]; exact Bool.false_ne_true), if_neg (by omega), if_pos overrun]

theorem Frame.absorb_of_upper (long : f.long = false) (head : 3 ≤ f.head.length) (fits : f.stored < room) (half : f.half = none) :
    f.absorb n room o = ({ f with stored := f.stored + 1, crc := crcOctet n f.crc o, half := some o }, none) := by
  unfold Frame.absorb
  rw [if_neg (by rw [long]; exact Bool.false_ne_true), if_neg (by omega), if_neg (by omega)]
  dsimp only
  split
  · next has => exact absurd (half.symm.trans has) nofun
  · rfl

theorem Frame.absorb_of_lower (long : f.long = false) (head : 3 ≤ f.head.length) (fits : f.stored < room) {upper : Byte}
    (half : f.half = some upper) : f.absorb n room o =
      ({ f with stored := f.stored + 1, crc := crcOctet n f.crc o, half := none }, some (f.stored / 2, upper ++ o)) := by
  unfold Frame.absorb
  rw [if_neg (by rw [long]; exact Bool.false_ne_true), if_neg (by omega), if_neg (by omega)]
  dsimp only
  split
  · next has =>
    rw [half] at has
    cases has
    rfl
  · next lacks => exact absurd (half.symm.trans lacks) nofun

variable {w : Work} {k : SlotNo}

theorem takeFrameOctet_of_slot (frame : w.line.frame = some f) (slot : f.slot = some k) :
    takeFrameOctet o w = frameOctetInSlot k o f w := by
  unfold takeFrameOctet
  simp only [frame, slot]

theorem takeFrameOctet_of_skipped (frame : w.line.frame = some f) (slot : f.slot = none) :
    takeFrameOctet o w = w.withFrame f.counted := by
  unfold takeFrameOctet
  simp only [frame]
  split
  · next has => exact absurd (slot.symm.trans has) nofun
  · rfl

theorem frameOctetInSlot_of_room (room : f.delay.length < w.crcOctets) :
    frameOctetInSlot k o f w = w.withFrame { f.counted with delay := f.delay ++ [o] } := by
  unfold frameOctetInSlot
  rw [Frame.enterDelay_of_room room]

/-- An octet that leaves the delay and completes no payload word (R142). -/
theorem frameOctetInSlot_of_absorbed {first : Byte} {rest : List Byte} (delay : f.delay = first :: rest)
    (full : w.crcOctets ≤ f.delay.length) {g : Frame}
    (absorbed : Frame.absorb w.crcOctets w.payloadRoom first { f.counted with delay := rest ++ [o] } = (g, none)) :
    frameOctetInSlot k o f w = w.withFrame g := by
  unfold frameOctetInSlot
  rw [Frame.enterDelay_of_full delay full]
  dsimp only
  rw [absorbed]

/-- An octet that leaves the delay and completes a payload word (R142). -/
theorem frameOctetInSlot_of_word {first : Byte} {rest : List Byte} (delay : f.delay = first :: rest)
    (full : w.crcOctets ≤ f.delay.length) {g : Frame} {j : Nat} {v : Word}
    (absorbed : Frame.absorb w.crcOctets w.payloadRoom first { f.counted with delay := rest ++ [o] } = (g, some (j, v)))
    {done : Bool} {after : Work} (written : writeStation .line none (w.payloadAddress k j) v (w.withFrame g) = (done, after)) :
    frameOctetInSlot k o f w = if done = true then after else discardSlot k .memory (skipFrame after) := by
  unfold frameOctetInSlot
  rw [Frame.enterDelay_of_full delay full]
  dsimp only
  rw [absorbed]
  dsimp only
  rw [written]
  cases done <;> rfl

theorem crcOctet_eq (reg : BitVec 32) : crcOctet n reg o = (List.range 8).foldl (fun (r : BitVec 32) i =>
    if (o.getLsbD i != r.getLsbD 0) = true then (r >>> 1) ^^^ (if n = 4 then 0xEDB88320 else 0x8408) else r >>> 1) reg := by
  unfold crcOctet
  refine congrArg (fun g => (List.range 8).foldl g reg) ?_
  funext r i
  rw [crcBit, bne_comm]
  rfl

end

/-! ## The window behind an octet -/

/-- A window of eight bits of which the newest seven are not all 1, and which spells no flag, completes nothing (R137). -/
theorem examineWindow_of_eight {w : Work} {d : WindowBit} {rest : List WindowBit} (full : rest.length = 7) {l : LineReceiver}
    (was : l.window = d :: rest) (window : w.line.window = rest) {b : Bool}
    (flag : (l.withBit b).windowBits.drop 1 ≠ [false, true, true, true, true, true, true, false])
    (abort : (l.withBit b).windowBits.drop 2 ≠ [true, true, true, true, true, true, true]) :
    examineWindow (enterWindow b w) = (enterWindow b w, []) := by
  have bits : (enterWindow b w).line.windowBits = (l.withBit b).windowBits.drop 1 := by
    show List.map _ (w.line.window ++ [_]) = List.drop 1 (List.map _ (l.window ++ [_]))
    rw [was, window]
    rfl
  have length : (enterWindow b w).line.windowBits.length = 8 := by
    show (List.map _ (w.line.window ++ [_])).length = 8
    rw [List.length_map, List.length_append, window, full, List.length_singleton]
  refine examineWindow_of_nothing (bits ▸ flag) fun old spells => abort ?_
  have one : old.length = 1 := by simpa [spells] using length
  have newest : (enterWindow b w).line.windowBits.drop 1 = [true, true, true, true, true, true, true] := by
    rw [spells, ← one]
    exact List.drop_left
  rw [← newest, bits, List.drop_drop]

/-- The eighth data bit leaves the window (R137, R138). -/
theorem leaveWindow_of_octet {w : Work} {d : Bool} {rest : List WindowBit} (window : w.line.window = { bit := d, flagEnd := false } :: rest)
    (full : rest.length = 7) (listens : w.listens) (data : ¬(d = false ∧ w.line.ones = 5)) (seven : w.line.octetBits.length = 7)
    {o : Byte} (bits : ∀ i : Fin 8, o.getLsbD i.val = (w.line.octetBits ++ [d]).getD i.val false) : leaveWindow w =
      if w.line.state = .frame then
        (takeFrameOctet o (({ w with line := { w.line with window := rest } } : Work).dataTaken d []), [.frameOctet])
      else (openFrame o (({ w with line := { w.line with window := rest } } : Work).dataTaken d []), [.frameOpen]) := by
  rw [leaveWindow_of_full window full, if_neg Bool.false_ne_true,
    offerBit_of_data (w := { w with line := { w.line with window := rest } }) listens data,
    takeDataBit_of_eighth (w := { w with line := { w.line with window := rest } }) seven, octetOf_eq bits]

/-- Settles O48: the way of an octet through the window, the open of a frame, and each case of an octet of it. -/
theorem octetsOpenAndFillAFrame : Obligations.OctetsOpenAndFillAFrame := by
  unfold Obligations.OctetsOpenAndFillAFrame
  refine ⟨?_, ?_, ?_⟩
  · intro s ldat b d o l rest awake forms window full data seven bits flag abort taken
    obtain ⟨r, rfl⟩ := forms.line_eq
    refine ⟨fun hunt flagSeen short => ?_, fun frame => ?_⟩
    · have left := leaveWindow_of_octet (w := { s.work with line := LineReceiver.countZero b { s.work.line with reference := r } })
        window full (.inr ⟨hunt, flagSeen⟩) data seven bits
      rw [if_neg (by show ¬s.work.line.state = .frame; rw [hunt]; nofun)] at left
      rw [exec_frameOpen awake]
      refine congrArg (fun w => Host.Outcome.next { s with work := w })
        (edgeWith_of_left forms (countBreak_of_edge forms hunt short) left List.mem_cons_self ?_)
      exact examineWindow_of_eight full window (openFrame_window _ _) flag abort
    · have left := leaveWindow_of_octet (w := { s.work with line := { s.work.line with reference := r } })
        window full (.inl frame) data seven bits
      rw [if_pos (by exact frame)] at left
      rw [exec_frameOctet awake]
      refine congrArg (fun w => Host.Outcome.next { s with work := w })
        (edgeWith_of_left forms (countBreak_of_frame (by exact frame)) left List.mem_cons_self ?_)
      exact examineWindow_of_eight full window (takeFrameOctet_window _ _) flag abort
  · intro w o sp quiet spool none octets opened w1
    refine ⟨fun k within free least => ?_, fun taken => ?_⟩
    · have lowest := lowestFree_eq_some spool within free least
      refine ⟨?_, fun kept => ?_⟩
      · rw [openFrame_of_some lowest, openSlot_quiet k quiet]
        rfl
      · rw [openFrame_of_some (by exact lowest), openSlot_cut k kept quiet]
        rfl
    · rw [openFrame_of_none (lowestFree_eq_none spool taken), openSkipped_quiet quiet]
      rfl
  · intro w f o quiet frame n counted framed
    refine ⟨fun slot => takeFrameOctet_of_skipped frame slot, fun k slot some => ⟨fun room => ?_, fun first rest delay full => ?_⟩,
      fun reg => crcOctet_eq reg⟩
    · rw [takeFrameOctet_of_slot frame slot, frameOctetInSlot_of_room room]
      rfl
    · intro moved
      rw [takeFrameOctet_of_slot frame slot]
      refine ⟨fun long => ?_, fun long head => ?_, fun long head overrun => ?_, fun long head fits => ?_⟩
      · exact frameOctetInSlot_of_absorbed delay full (Frame.absorb_of_long long)
      · exact frameOctetInSlot_of_absorbed delay full (Frame.absorb_of_head long head)
      · exact frameOctetInSlot_of_absorbed delay full (Frame.absorb_of_overrun long head overrun)
      · intro stored
        refine ⟨fun half => frameOctetInSlot_of_absorbed delay full (Frame.absorb_of_upper long head fits half), fun upper half => ?_⟩
        have absorbed := Frame.absorb_of_lower (f := moved) (n := w.crcOctets) (o := first) long head fits half
        refine ⟨?_, fun kept => ?_⟩
        · have written := writeStation_completes .line none (w.payloadAddress k (f.stored / 2)) (upper ++ first)
            (w.withFrame { stored with half := none }) quiet
          exact frameOctetInSlot_of_word delay full absorbed written
        · have written := writeStation_cut .line none (w.payloadAddress k (f.stored / 2)) (upper ++ first) kept
            (w := w.withFrame { stored with half := none }) quiet
          rw [takeFrameOctet_of_slot (by exact frame) slot]
          refine (frameOctetInSlot_of_word delay (by exact full) (by exact absorbed) (by exact written)).trans ?_
          exact discardSlot_skipFrame k .memory ((cutShort_bus _ _ _ _ _ _).trans quiet)

end Sys2Proof.Machine

/-! The beginning and the end of a break, with the purge of lane 3; the abort of a frame. -/

namespace Sys2Proof.Machine

/-! ## The purge of lane 3 -/

section

variable {w : Work}

theorem faultCause_bus (o : BlockOutcome) (q : w.bus = []) : (faultCause o w).bus = [] := by
  unfold faultCause
  split <;> exact q

theorem takeNextSlot_bus (q : w.bus = []) : (takeNextSlot w).bus = [] := by
  rw [takeNextSlot_eq rfl]
  exact slotTaken_bus (release_quiet q)

/-- A retire of lane 3's slot while every access completes. -/
theorem retireSlot_bus (o : BlockOutcome) (q : w.bus = []) : (retireSlot o w).bus = [] := by
  have bus := takeNextSlot_bus (freeHeldSlot_bus (slotResult_bus o q))
  have written : writeStationList .lane (some 3) (w.resultWords 3 o) w = (true, storeWords (w.slotResultWords o) w) :=
    writeStationList_completes _ _ _ _ q
  have counted : (storeWords (w.slotResultWords o) w).modLane 3 (Lane.countRetire o) = w.slotResult o := rfl
  unfold retireSlot
  rw [written]
  dsimp only
  rw [if_pos rfl, counted, writeLaneRecord_quiet 3 _ bus]
  exact faultCause_bus o (recorded_bus 3 bus)

theorem purgeLane3_notBegun (q : w.bus = []) (notBegun : w.lane3NotBegun = true) : purgeLane3 w = idleLane3 w.queuedFreed := by
  obtain ⟨freed, _⟩ := freeQueuedSlots_quiet q
  unfold purgeLane3
  rw [notBegun, if_pos rfl, freed]

theorem purgeLane3_active (q : w.bus = []) (begun : w.lane3NotBegun = false) (active : (w.laneOf 3).state = .active) :
    purgeLane3 w = { w.queuedFreed with line := { w.queuedFreed.line with purgeRequested := true } } := by
  obtain ⟨freed, _⟩ := freeQueuedSlots_quiet q
  unfold purgeLane3
  dsimp only
  rw [begun, if_neg Bool.false_ne_true, freed, queuedFreed_laneOf q, active]

theorem purgeLane3_suspended (q : w.bus = []) (begun : w.lane3NotBegun = false)
    (suspended : (w.laneOf 3).state = .ready ∨ (w.laneOf 3).state = .waiting ∨ (w.laneOf 3).state = .draining) :
    purgeLane3 w = retireSlot .purged w.queuedFreed := by
  obtain ⟨freed, _⟩ := freeQueuedSlots_quiet q
  unfold purgeLane3
  dsimp only
  rw [begun, if_neg Bool.false_ne_true, freed, queuedFreed_laneOf q]
  obtain state | state | state := suspended <;> rw [state]

theorem purgeLane3_without (q : w.bus = []) (begun : w.lane3NotBegun = false) (active : (w.laneOf 3).state ≠ .active)
    (suspended : ¬((w.laneOf 3).state = .ready ∨ (w.laneOf 3).state = .waiting ∨ (w.laneOf 3).state = .draining)) :
    purgeLane3 w = w.queuedFreed := by
  obtain ⟨freed, _⟩ := freeQueuedSlots_quiet q
  unfold purgeLane3
  dsimp only
  rw [begun, if_neg Bool.false_ne_true, freed, queuedFreed_laneOf q]
  cases state : (w.laneOf 3).state with
  | active => exact absurd state active
  | ready => exact absurd (.inl state) suspended
  | waiting => exact absurd (.inr (.inl state)) suspended
  | draining => exact absurd (.inr (.inr state)) suspended
  | idle => rfl
  | parked => rfl
  | held => rfl
  | faulted => rfl

theorem purgeLane3_bus (q : w.bus = []) : (purgeLane3 w).bus = [] := by
  obtain ⟨freed, bus⟩ := freeQueuedSlots_quiet q
  cases begun : w.lane3NotBegun with
  | true =>
    rw [purgeLane3_notBegun q begun]
    unfold idleLane3
    rw [writeLaneRecord_quiet 3 0 (leaveBlock_bus 3 _ _ bus)]
    exact recorded_bus 3 (leaveBlock_bus 3 _ _ bus)
  | false =>
    by_cases active : (w.laneOf 3).state = .active
    · rw [purgeLane3_active q begun active]
      exact bus
    · by_cases suspended : (w.laneOf 3).state = .ready ∨ (w.laneOf 3).state = .waiting ∨ (w.laneOf 3).state = .draining
      · rw [purgeLane3_suspended q begun suspended]
        exact retireSlot_bus .purged bus
      · rw [purgeLane3_without q begun active suspended]
        exact bus

end

/-! ## The break -/

section

variable {w : Work}

/-- The line in BREAK, reported (R139). -/
def Work.broken (w : Work) : Work :=
  setCause .lineBreak ({ w with line := { w.line with state := .inBreak, breakFlag := true } } : Work).statusWritten

/-- Lane 3's work purged, and the expected sequence NONE (R140). -/
def Work.breakPurged (w : Work) : Work :=
  ({ purgeLane3 w with line := { (purgeLane3 w).line with expected := none } } : Work).statusWritten

/-- The line back in HUNT, reported (R139). -/
def Work.breakEnded (w : Work) : Work :=
  setCause .lineBreak ({ w with line := { w.line with
    state := .hunt, breakFlag := false, flagSeen := false, window := [], zeros := 0 } } : Work).statusWritten

theorem broken_bus (q : w.bus = []) : w.broken.bus = [] :=
  (setCause_bus _ _).trans (statusWritten_bus (by exact q))

theorem breakPurge_quiet (q : w.bus = []) : breakPurge w = w.breakPurged :=
  writeLineStatus_quiet (by exact purgeLane3_bus q)

theorem enterBreak_quiet (q : w.bus = []) {t : LineSettings} (settings : w.line.settings = some t) :
    enterBreak w = if t.breakPurge = true then w.broken.breakPurged else w.broken := by
  have broken : setCause .lineBreak (writeLineStatus (w.modLine fun l => { l with state := .inBreak, breakFlag := true })) = w.broken :=
    congrArg (setCause .lineBreak) (writeLineStatus_quiet (by exact q))
  unfold enterBreak
  simp only [settings]
  rw [broken, breakPurge_quiet (broken_bus q)]

theorem endBreak_quiet (q : w.bus = []) : endBreak w = w.breakEnded :=
  congrArg (setCause .lineBreak) (writeLineStatus_quiet (by exact q))

theorem breakEnded_window (w : Work) : w.breakEnded.line.window = [] := by
  unfold Work.breakEnded
  rw [setCause_line, Work.statusWritten, storeWords_line]

/-- The 32nd 0 bit in HUNT (R139). -/
theorem countBreak_entry (hunt : w.line.state = .hunt) (zeros : w.line.zeros = 31) :
    countBreak false w = (enterBreak { w with line := { w.line with zeros := 32 } }, [.breakEntry]) := by
  unfold countBreak
  split
  · dsimp only
    rw [zeros]
    exact if_pos rfl
  all_goals
    next other => exact absurd (hunt.symm.trans other) nofun

/-- The first 1 bit in BREAK (R139). -/
theorem countBreak_exit (inBreak : w.line.state = .inBreak) : countBreak true w = (endBreak w, [.breakEnd]) := by
  unfold countBreak
  split
  · next other => exact absurd (inBreak.symm.trans other) nofun
  · exact if_pos rfl
  all_goals
    next other => exact absurd (inBreak.symm.trans other) nofun

/-- The row of an event that the bit completes at the break count. -/
theorem edgeWith_of_counted {ldat b : Bool} {l : LineReceiver} (forms : w.EdgeForms ldat b l) {c : Work} {e : LineEvent}
    {events : List LineEvent} (counted : countBreak b { w with line := l } = (c, events)) (mem : e ∈ events)
    (examined : examineWindow (enterWindow b (leaveWindow c).1) = (enterWindow b (leaveWindow c).1, [])) :
    edgeWith e ldat w = settleLanes (enterWindow b (leaveWindow c).1) := by
  rw [edgeWith_of_mem forms, takeBit_fst, counted, examined]
  rw [takeBit_snd, counted, List.append_assoc]
  exact List.mem_append_left _ mem

/-- A window that ends in a 0 ends in no abort (R137). -/
theorem examineWindow_of_zero (flag : (enterWindow false w).line.windowBits ≠ [false, true, true, true, true, true, true, false]) :
    examineWindow (enterWindow false w) = (enterWindow false w, []) := by
  refine examineWindow_of_nothing flag fun old spells => ?_
  rw [windowBits_enter] at spells
  have newest := congrArg List.getLast? spells
  simp at newest

/-- A window of one bit completes nothing (R137). -/
theorem examineWindow_of_first {b : Bool} (empty : w.line.window = []) : examineWindow (enterWindow b w) = (enterWindow b w, []) := by
  have bits : (enterWindow b w).line.windowBits = [b] := by
    rw [windowBits_enter, LineReceiver.windowBits, empty]
    rfl
  refine examineWindow_of_nothing (by rw [bits]; nofun) fun old spells => ?_
  rw [bits] at spells
  have length := congrArg List.length spells
  simp at length

end

theorem exec_breakEntry {s : State} (awake : s.awake) (ldat : Bool) :
    exec (.breakEntry ldat) s = .next (s.onWork (edgeWith .breakEntry ldat)) := by
  show execBreakEntry ldat s = _
  exact event_of_awake awake _

theorem exec_breakEnd {s : State} (awake : s.awake) (ldat : Bool) :
    exec (.breakEnd ldat) s = .next (s.onWork (edgeWith .breakEnd ldat)) := by
  show execBreakEnd ldat s = _
  exact event_of_awake awake _

/-- Settles O51: the break count, and each case of a purge. -/
theorem breakBeginsAndEnds : Obligations.BreakBeginsAndEnds := by
  unfold Obligations.BreakBeginsAndEnds
  intro s ldat l t awake settings
  refine ⟨fun forms hunt zeros => ?_, fun forms inBreak => ?_, fun w q => ⟨fun notBegun other => ?_, purgeLane3_active q,
    fun begun suspended => purgeLane3_suspended q begun suspended, fun begun without => ?_⟩⟩
  · obtain ⟨r, rfl⟩ := forms.line_eq
    intro broken purged acted w1 flag
    have counted : countBreak false { s.work with line := { s.work.line with reference := r } } = (acted, [.breakEntry]) := by
      rw [countBreak_entry (by exact hunt) (by exact zeros)]
      refine congrArg (fun w => (w, [LineEvent.breakEntry])) ?_
      exact enterBreak_quiet (by exact forms.quiet) (by exact settings)
    rw [exec_breakEntry awake]
    refine congrArg (fun w => Host.Outcome.next { s with work := w }) (edgeWith_of_counted forms counted List.mem_cons_self ?_)
    exact examineWindow_of_zero (by exact flag)
  · obtain ⟨r, rfl⟩ := forms.line_eq
    intro ended
    have counted : countBreak true { s.work with line := { s.work.line with reference := r } } = (ended, [.breakEnd]) := by
      rw [countBreak_exit (by exact inBreak)]
      refine congrArg (fun w => (w, [LineEvent.breakEnd])) ?_
      exact endBreak_quiet (by exact forms.quiet)
    have window : ended.line.window = [] := breakEnded_window { s.work with line := { s.work.line with reference := r } }
    have left : (leaveWindow ended).1 = ended := by rw [leaveWindow_of_short (by rw [window]; decide)]
    have row := edgeWith_of_counted forms counted List.mem_cons_self (by rw [left]; exact examineWindow_of_first window)
    rw [left] at row
    rw [exec_breakEnd awake]
    exact congrArg (fun w => Host.Outcome.next { s with work := w }) row
  · rw [purgeLane3_notBegun q notBegun, idleLane3_queuedFreed q other]
  · refine purgeLane3_without q begun ?_ ?_
    · obtain state | state := without <;> rw [state] <;> nofun
    · obtain state | state := without <;> rw [state] <;> simp

/-! ## The abort of a frame -/

section

variable {w : Work} {f : Frame}

theorem abortFrame_of_slot (q : w.bus = []) {k : SlotNo} (frame : w.line.frame = some f) (slot : f.slot = some k) :
    abortFrame w = ((w.slotChanged k .free).lossReported .abort).frameEnded false := by
  unfold abortFrame
  simp only [frame, slot]
  rw [discardSlot_quiet k .abort q]
  exact endFrame_quiet false (lossReported_bus .abort (slotChanged_bus k .free q))

theorem abortFrame_of_skipped (q : w.bus = []) (frame : w.line.frame = some f) (slot : f.slot = none) :
    abortFrame w = w.frameEnded false := by
  unfold abortFrame
  simp only [frame, slot]
  exact endFrame_quiet false q

end

/-- Settles O49: the abort as the window is examined, in FRAME. -/
theorem abortInFrameDiscardsIt : Obligations.AbortInFrameDiscardsIt := by
  unfold Obligations.AbortInFrameDiscardsIt
  intro s ldat l f old awake forms inFrame w1 w2 bits frame
  obtain ⟨r, rfl⟩ := forms.line_eq
  have quiet : w2.bus = [] := leaveWindow_bus (by exact forms.quiet)
  have stays : w1.line.state = .frame := leaveWindow_frame (by exact forms.quiet) (by exact inFrame)
  have examined : examineWindow (enterWindow true w1) = (abortFrame w2, [.frameAbort]) :=
    (examineWindow_of_abort bits).trans (takeAbort_of_frame (by exact stays))
  have row : exec (.frameAbort ldat) s = .next (s.onWork fun _ => settleLanes (abortFrame w2)) := by
    rw [exec_frameAbort awake]
    exact congrArg (fun w => Host.Outcome.next { s with work := w })
      (edgeWith_of_examined forms (countBreak_of_frame (by exact inFrame)) examined List.mem_cons_self)
  refine ⟨fun k slot => ?_, fun slot => ?_⟩
  · rw [row, abortFrame_of_slot quiet (by exact frame) slot]
  · rw [row, abortFrame_of_skipped quiet (by exact frame) slot]

end Sys2Proof.Machine

/-! The closing flag of a frame: the four checks, the sequence, the format and the address, the acceptance, and the writes that
can fail on the way. -/

namespace Sys2Proof.Machine

/-! ## The four checks -/

section

variable {f : Frame} {n : Nat}

theorem Frame.crcPasses_iff : f.crcPasses n = true ↔
    (f.crc ^^^ (if n = 4 then 0xFFFFFFFF else 0xFFFF : BitVec 32)) = f.delay.foldr (fun o (v : BitVec 32) => (v <<< 8) ||| o.setWidth 32) 0 :=
  decide_eq_true_iff

theorem Frame.failedCheck_align (bits : f.bits.toNat % 8 ≠ 0) : f.failedCheck n = some .align := if_pos bits

section

variable (bits : f.bits.toNat % 8 = 0)

include bits

theorem Frame.failedCheck_short (short : f.octets < 3 + n) : f.failedCheck n = some .short := by
  rw [Frame.failedCheck, if_neg (not_not_intro bits), if_pos short]

variable (enough : 3 + n ≤ f.octets)

include enough

theorem Frame.failedCheck_long (long : f.long = true) : f.failedCheck n = some .long := by
  rw [Frame.failedCheck, if_neg (not_not_intro bits), if_neg (Nat.not_lt.mpr enough), if_pos long]

variable (fits : f.long = false)

include fits

theorem Frame.failedCheck_crc (wrong : ¬f.crcPasses n = true) : f.failedCheck n = some .crc := by
  rw [Frame.failedCheck, if_neg (not_not_intro bits), if_neg (Nat.not_lt.mpr enough), if_neg (by rw [fits]; exact Bool.false_ne_true),
    if_pos (Bool.eq_false_iff.mpr wrong)]

theorem Frame.failedCheck_none (right : f.crcPasses n = true) : f.failedCheck n = none := by
  rw [Frame.failedCheck, if_neg (not_not_intro bits), if_neg (Nat.not_lt.mpr enough), if_neg (by rw [fits]; exact Bool.false_ne_true),
    if_neg (by rw [right]; nofun)]

end

/-! ## The format -/

theorem frameKind_eq_some {o : Byte} {kind : FrameKind} :
    frameKind o = some kind ↔ (o = 1 ∧ kind = .draw) ∨ (o = 2 ∧ kind = .pass) ∨ (o = 3 ∧ kind = .purge) := by
  unfold frameKind
  by_cases one : o = 1
  · subst one
    simp [eq_comm]
  · by_cases two : o = 2
    · subst two
      simp [eq_comm]
    · by_cases three : o = 3
      · subst three
        simp [eq_comm]
      · rw [if_neg one, if_neg two, if_neg three]
        simp only [one, two, three, false_and, or_false, reduceCtorEq]

theorem Frame.format_eq (f : Frame) (n : Nat) : f.format n =
    if frameKind (f.headOctet 1) = some .draw ∧ f.payloadOctets n % 2 ≠ 0 then none else frameKind (f.headOctet 1) := by
  unfold Frame.format
  split
  · next draw =>
    by_cases even : f.payloadOctets n % 2 = 0
    · rw [if_pos even, if_neg fun h => h.2 even, draw]
    · rw [if_neg even, if_pos ⟨draw, even⟩]
  · next other =>
    exact (if_neg fun h => other h.1).symm

/-- A frame of no known kind, or a DRAW with an odd payload (R145 step 6). -/
theorem Frame.format_of_wrong (wrong : (f.headOctet 1 ≠ 1 ∧ f.headOctet 1 ≠ 2 ∧ f.headOctet 1 ≠ 3) ∨
    (f.headOctet 1 = 1 ∧ f.payloadOctets n % 2 = 1)) : f.format n = none := by
  rw [Frame.format_eq]
  obtain ⟨notDraw, notPass, notPurge⟩ | ⟨draw, odd⟩ := wrong
  · have unknown : frameKind (f.headOctet 1) = none := by
      rw [frameKind, if_neg notDraw, if_neg notPass, if_neg notPurge]
    rw [unknown, ite_self]
  · exact if_pos ⟨frameKind_eq_some.mpr (.inl ⟨draw, rfl⟩), by omega⟩

theorem Frame.format_of_right (right : f.headOctet 1 = 2 ∨ f.headOctet 1 = 3 ∨ (f.headOctet 1 = 1 ∧ f.payloadOctets n % 2 = 0)) :
    f.format n = frameKind (f.headOctet 1) := by
  rw [Frame.format_eq, if_neg]
  rintro ⟨kind, odd⟩
  obtain ⟨draw, _⟩ | ⟨_, impossible⟩ | ⟨_, impossible⟩ := frameKind_eq_some.mp kind
  · obtain pass | purge | ⟨_, even⟩ := right
    · exact absurd (draw.symm.trans pass) (by decide)
    · exact absurd (draw.symm.trans purge) (by decide)
    · exact odd even
  · cases impossible
  · cases impossible

theorem frameKind_isSome {o : Byte} (known : o = 1 ∨ o = 2 ∨ o = 3) : ∃ kind, frameKind o = some kind := by
  obtain rfl | rfl | rfl := known
  · exact ⟨.draw, rfl⟩
  · exact ⟨.pass, rfl⟩
  · exact ⟨.purge, rfl⟩

end

/-! ## The address -/

section

variable {w : Work}

theorem addressAccepted_iff {a : Byte} : w.addressAccepted a = true ↔ a = w.port.station ∨ a = 0xFF ∨
    ∃ t g, w.line.settings = some t ∧ g ∈ t.groups ∧ g.enabled = true ∧ g.code = a := by
  unfold Work.addressAccepted
  cases w.line.settings with
  | none => simp
  | some t => simp [or_assoc]

theorem sequenced_frame (o : Byte) (w : Work) : (w.sequenced o).port = w.port ∧ (w.sequenced o).line.settings = w.line.settings := by
  have written (v : Work) : v.statusWritten.port = v.port ∧ v.statusWritten.line.settings = v.line.settings :=
    ⟨storeWords_port _ v, congrArg (·.settings) (storeWords_line _ v)⟩
  unfold Work.sequenced
  split
  · exact written _
  · split
    · exact written _
    · obtain ⟨port, settings⟩ := written { w with line := { w.line with
        expected := some (o + 1), gaps := min 65535 (w.line.gaps + 1), gapExpected := _, gapReceived := o } }
      exact ⟨(setCause_port _ _).trans port, (congrArg (·.settings) (setCause_line _ _)).trans settings⟩

theorem crcOctets_congr {v : Work} (settings : v.line.settings = w.line.settings) : v.crcOctets = w.crcOctets := by
  unfold Work.crcOctets
  rw [settings]

theorem addressAccepted_congr {v : Work} {a : Byte} (port : v.port = w.port) (settings : v.line.settings = w.line.settings) :
    v.addressAccepted a = w.addressAccepted a := by
  unfold Work.addressAccepted
  rw [port, settings]

end

/-! ## The acceptance -/

section

variable {w : Work} {f : Frame} {k : SlotNo}

theorem acceptWords_eq (k : SlotNo) (f : Frame) (w : Work) : w.acceptWords k f = w.headWords k f (f.octets - 3 - w.crcOctets) := rfl

/-- The line with one accepted frame more (R150). -/
def Work.frameCounted (w : Work) : Work := { w with line := { w.line with
  accepted := w.line.accepted + 1, lastArrival := w.time.clock.extractLsb' 0 16 } }

/-- A DRAW slot is on the list of lane 3 (R79, R151). -/
def Work.slotListed (k : SlotNo) (payload : Nat) (w : Work) : Work := { w.slotChanged k .queued with line :=
  { (w.slotChanged k .queued).line with pendingSlots := w.line.pendingSlots ++ [{ slot := k, octets := payload }] } }

theorem queueSlot_quiet (payload : Nat) (q : w.bus = []) : queueSlot k payload w =
    if (w.laneOf 3).state = .idle then writeLaneRecord 3 0 (takeNextSlot (w.slotListed k payload)) else w.slotListed k payload := by
  unfold queueSlot
  rw [changeSlot_quiet k .queued q]
  rfl

theorem slotListed_bus (payload : Nat) (q : w.bus = []) : (w.slotListed k payload).bus = [] := slotChanged_bus k .queued q

theorem queueSlot_bus (payload : Nat) (q : w.bus = []) : (queueSlot k payload w).bus = [] := by
  have listed := takeNextSlot_bus (slotListed_bus (k := k) payload q)
  rw [queueSlot_quiet payload q, writeLaneRecord_quiet 3 0 listed]
  split
  · exact recorded_bus 3 listed
  · exact slotListed_bus payload q

/-- An IDLE lane 3 takes the slot at once (R79). -/
theorem queueSlot_taken {payload : Nat} (q : w.bus = []) (idle : (w.laneOf 3).state = .idle) (other : w.activeLane ≠ some 3)
    (none : w.line.pendingSlots = []) : queueSlot k payload w =
      ((w.slotListed k payload).modLane 3 (Lane.tookSlot (w.slotAddress k) payload)).recorded 3 := by
  have pending : (w.slotListed k payload).line.pendingSlots = [{ slot := k, octets := payload }] := by
    show w.line.pendingSlots ++ _ = _
    rw [none, List.nil_append]
  have taken : takeNextSlot (w.slotListed k payload) = (w.slotListed k payload).modLane 3 (Lane.tookSlot (w.slotAddress k) payload) := by
    rw [takeNextSlot_eq pending, release_of_other (by exact other)]
    rfl
  rw [queueSlot_quiet payload q, if_pos idle, taken]
  exact writeLaneRecord_quiet 3 0 (by exact slotListed_bus (k := k) payload q)

theorem frameAction_bus (kind : FrameKind) (payload : Nat) (q : w.bus = []) : (frameAction kind k payload w).bus = [] := by
  cases kind with
  | draw => exact queueSlot_bus payload q
  | pass =>
    unfold frameAction
    rw [changeSlot_quiet k .passed q]
    exact slotChanged_bus k .passed q
  | purge =>
    unfold frameAction
    dsimp only
    rw [changeSlot_quiet k .free (purgeLane3_bus q)]
    exact slotChanged_bus k .free (purgeLane3_bus q)

theorem headerStored_bus (payload : Nat) (q : w.bus = []) : (w.headerStored k f payload).frameCounted.bus = [] :=
  (storeWords_bus _ w).trans q

/-- An accepted frame, while every access completes (R150). -/
theorem acceptFrame_quiet (kind : FrameKind) (q : w.bus = []) : acceptFrame kind k f w =
    (frameAction kind k (f.octets - 3 - w.crcOctets)
      (w.headerStored k f (f.octets - 3 - w.crcOctets)).frameCounted).statusWritten := by
  have octets : (w.headerStored k f (f.octets - 3 - w.crcOctets)).frameCounted.crcOctets = w.crcOctets :=
    crcOctets_congr (congrArg (·.settings) (storeWords_line _ w))
  have bus := headerStored_bus (k := k) (f := f) (f.octets - 3 - w.crcOctets) q
  unfold acceptFrame
  rw [acceptWords_eq, writeStationList_completes _ _ _ _ q]
  show writeLineStatus (frameAction kind k (f.payloadOctets (w.headerStored k f (f.octets - 3 - w.crcOctets)).frameCounted.crcOctets)
    (w.headerStored k f (f.octets - 3 - w.crcOctets)).frameCounted) = _
  rw [octets, writeLineStatus_quiet (frameAction_bus kind _ bus)]
  rfl

theorem acceptFrame_bus (kind : FrameKind) (q : w.bus = []) : (acceptFrame kind k f w).bus = [] := by
  rw [acceptFrame_quiet kind q]
  exact statusWritten_bus (frameAction_bus kind _ (headerStored_bus _ q))

/-! ## The closing flag -/

theorem closeFrame_of_skipped (q : w.bus = []) (frame : w.line.frame = some f) (slot : f.slot = none) :
    closeFrame w = w.frameEnded true := by
  unfold closeFrame
  simp only [frame, slot]
  exact endFrame_quiet true q

theorem closeFrame_of_slot (frame : w.line.frame = some f) (slot : f.slot = some k) {v : Work} (checked : closeChecks k f w = v)
    (q : v.bus = []) : closeFrame w = v.frameEnded true := by
  unfold closeFrame
  simp only [frame, slot]
  rw [checked]
  exact endFrame_quiet true q

theorem closeChecks_failed (q : w.bus = []) {reason : LossReason} (failed : f.failedCheck w.crcOctets = some reason) :
    closeChecks k f w = (w.slotChanged k .free).lossReported reason := by
  unfold closeChecks
  rw [failed]
  exact discardSlot_quiet k reason q

theorem closeChecks_passed (q : w.bus = []) (passed : f.failedCheck w.crcOctets = none) :
    closeChecks k f w = formatAndAddress k f (w.sequenced (f.headOctet 2)) := by
  unfold closeChecks
  rw [passed, checkSequence_quiet _ q]

theorem formatAndAddress_of_wrong (q : w.bus = []) (wrong : f.format w.crcOctets = none) :
    formatAndAddress k f w = (w.slotChanged k .free).lossReported .format := by
  unfold formatAndAddress
  rw [wrong]
  exact discardSlot_quiet k .format q

theorem formatAndAddress_of_foreign (q : w.bus = []) {kind : FrameKind} (right : f.format w.crcOctets = some kind)
    (foreign : ¬w.addressAccepted (f.headOctet 0) = true) : formatAndAddress k f w = w.slotChanged k .free := by
  unfold formatAndAddress
  rw [right]
  exact (if_neg foreign).trans (changeSlot_quiet k .free q)

theorem formatAndAddress_of_own {kind : FrameKind} (right : f.format w.crcOctets = some kind)
    (own : w.addressAccepted (f.headOctet 0) = true) : formatAndAddress k f w = acceptFrame kind k f w := by
  unfold formatAndAddress
  rw [right]
  exact if_pos own

/-! ## The accesses that can fail -/

theorem acceptFrame_cut (kind : FrameKind) (kept : Bool) {j : Nat} (q : w.bus = [])
    (at_ : j < (w.headWords k f (f.octets - 3 - w.crcOctets)).length) : acceptFrame kind k f (w.withFailure j (.noAnswer kept)) =
      ((w.cutShort j kept 2 8 (w.headWords k f (f.octets - 3 - w.crcOctets))).slotChanged k .free).lossReported .memory := by
  have words : (w.withFailure j (.noAnswer kept)).acceptWords k f = w.headWords k f (f.octets - 3 - w.crcOctets) := rfl
  unfold acceptFrame
  rw [words, writeStationList_fails .line none _ j at_ kept w q]
  exact discardSlot_quiet k .memory ((cutShort_bus _ _ _ _ _ _).trans q)

theorem changeSlot_cut (k : SlotNo) (st : SlotState) (kept : Bool) (q : w.bus = []) : changeSlot k st (w.withFailure 0 (.noAnswer kept)) =
    (w.setSlot k st).cutShort 0 kept 2 8 [(w.slotAddress k, st.code)] :=
  congrArg Prod.snd (writeStation_cut (w := w.setSlot k st) .line none (w.slotAddress k) st.code kept q)

theorem writeLineStatus_cut (kept : Bool) (q : w.bus = []) {j : Nat} (at_ : j < 8) :
    writeLineStatus (w.withFailure j (.noAnswer kept)) = w.cutShort j kept 2 8 w.lineStatusWords :=
  congrArg Prod.snd (writeStationList_fails .line none w.lineStatusWords j (by exact at_) kept w q)

/-- The line with a loss counted (R146). -/
def Work.lossCounted (w : Work) : Work := { w with line := { w.line with losses := min 65535 (w.line.losses + 1) } }

theorem reportLoss_eq (reason : LossReason) (w : Work) :
    reportLoss reason w = setCause .lineLoss (writeLineStatus (noteFirstLoss reason w.lossCounted)) := rfl

theorem noteFirstLoss_unread (reason : LossReason) (q : w.bus = []) {answer : BusAnswer} {kind : Word} (fails : answer.FailsRead kind) :
    noteFirstLoss reason (w.withFailure 0 answer) = w.failureNoted kind 2 8 (w.exchange 0x4A) := by
  have read := readStation_fails .line none (w.exchange 0x4A) w q fails
  unfold noteFirstLoss
  rw [show (w.withFailure 0 answer).exchange 0x4A = w.exchange 0x4A from rfl, read]
  rfl

theorem noteFirstLoss_cut (reason : LossReason) (kept : Bool) (q : w.bus = []) (first : w.mem.readWord (w.exchange 0x4A) = 0) :
    noteFirstLoss reason (w.withFailure 1 (.noAnswer kept)) = w.cutShort 0 kept 2 8 [(w.exchange 0x4A, reason.code)] := by
  have read := readStation_before .line none (w.exchange 0x4A) 0 (.noAnswer kept) w
  have written := writeStation_cut (w := w) .line none (w.exchange 0x4A) reason.code kept q
  unfold noteFirstLoss
  rw [show (w.withFailure 1 (.noAnswer kept)).exchange 0x4A = w.exchange 0x4A from rfl, read]
  dsimp only
  rw [if_pos first]
  exact congrArg Prod.snd written

end

/-- Settles O50: the checks in their order, the acceptance of each kind, and the writes that can fail. -/
theorem closingFlagMakesTheChecks : Obligations.ClosingFlagMakesTheChecks := by
  unfold Obligations.ClosingFlagMakesTheChecks
  constructor
  · intro s ldat l f awake forms inFrame w1 w2 n delayed crcOk payload loses kind address w3 forUs bits frame
    have q2 : w2.bus = [] := by
      obtain ⟨r, rfl⟩ := forms.line_eq
      exact leaveWindow_bus (by exact forms.quiet)
    have inFrame' : ({ s.work with line := l } : Work).line.state = .frame := by
      obtain ⟨r, rfl⟩ := forms.line_eq
      exact inFrame
    have stays : w1.line.state = .frame := leaveWindow_frame (by exact forms.quiet) inFrame'
    have row : exec (.frameClose ldat) s = .next (s.onWork fun _ => settleLanes (closeFrame w2)) := by
      rw [exec_frameClose awake]
      exact congrArg (fun w => Host.Outcome.next { s with work := w })
        (edgeWith_of_examined forms (countBreak_of_frame inFrame')
          ((examineWindow_completes_flag bits).trans (takeFlag_of_frame (by exact stays))) List.mem_cons_self)
    refine ⟨fun slot => by rw [row, closeFrame_of_skipped (w := w2) q2 frame slot], fun k slot => ?_⟩
    have ends {v : Work} (checked : closeChecks k f w2 = v) (q : v.bus = []) :
        exec (.frameClose ldat) s = .next (s.onWork fun _ => settleLanes (v.frameEnded true)) := by
      rw [row, closeFrame_of_slot (w := w2) frame slot checked q]
    have fails {reason : LossReason} (failed : f.failedCheck n = some reason) : loses w2 k reason :=
      ends (closeChecks_failed q2 failed) (lossReported_bus reason (slotChanged_bus k .free q2))
    refine ⟨fun align => fails (Frame.failedCheck_align align), fun whole short => fails (Frame.failedCheck_short whole short),
      fun whole enough long => fails (Frame.failedCheck_long whole enough long),
      fun whole enough fits wrong => fails (Frame.failedCheck_crc whole enough fits (mt Frame.crcPasses_iff.mp wrong)),
      fun whole enough fits right => ?_⟩
    have passed : closeChecks k f w2 = formatAndAddress k f w3 := closeChecks_passed (k := k) q2 (Frame.failedCheck_none whole enough fits (Frame.crcPasses_iff.mpr right))
    have q3 : w3.bus = [] := sequenced_bus _ q2
    obtain ⟨port, settings⟩ : w3.port = w2.port ∧ w3.line.settings = w2.line.settings := sequenced_frame (f.headOctet 2) w2
    have octets : w3.crcOctets = n := crcOctets_congr settings
    have own : w3.addressAccepted (f.headOctet 0) = true ↔ forUs := by
      rw [addressAccepted_congr port settings]
      exact addressAccepted_iff
    refine ⟨fun wrong => ?_, fun known foreign => ?_, fun known mine => ?_⟩
    · refine ends (passed.trans (formatAndAddress_of_wrong q3 ?_)) (lossReported_bus .format (slotChanged_bus k .free q3))
      rw [octets]
      exact Frame.format_of_wrong wrong
    · obtain ⟨fk, named⟩ := frameKind_isSome (o := f.headOctet 1) (by
        obtain pass | purge | ⟨draw, _⟩ := known
        · exact .inr (.inl pass)
        · exact .inr (.inr purge)
        · exact .inl draw)
      refine ends (passed.trans (formatAndAddress_of_foreign q3 (kind := fk) ?_ (mt own.mp foreign))) (slotChanged_bus k .free q3)
      rw [octets]
      exact (Frame.format_of_right known).trans named
    · have accepts (fk : FrameKind) (named : frameKind kind = some fk) : closeChecks k f w2 = acceptFrame fk k f w3 := by
        refine passed.trans (formatAndAddress_of_own ?_ (own.mpr mine))
        rw [octets]
        exact (Frame.format_of_right known).trans named
      refine ⟨fun fk named => ends (accepts fk named) (acceptFrame_bus fk q3), ?_⟩
      intro stored counted endsIn listed
      have qc : counted.bus = [] := headerStored_bus payload q3
      have acts (fk : FrameKind) (named : frameKind kind = some fk) {v : Work} (acted : frameAction fk k payload counted = v) : endsIn v := by
        have accepted : acceptFrame fk k f w3 = v.statusWritten := by
          rw [acceptFrame_quiet fk q3, octets, ← acted]
          rfl
        refine ends ((accepts fk named).trans accepted) (statusWritten_bus ?_)
        rw [← acted]
        exact frameAction_bus fk payload qc
      have drawn (is : kind = 1) : frameKind kind = some .draw := frameKind_eq_some.mpr (.inl ⟨is, rfl⟩)
      refine ⟨fun is => acts .pass (frameKind_eq_some.mpr (.inr (.inl ⟨is, rfl⟩))) ?_,
        fun is => acts .purge (frameKind_eq_some.mpr (.inr (.inr ⟨is, rfl⟩))) ?_,
        fun is busy => acts .draw (drawn is) ?_, fun is idle other none => acts .draw (drawn is) ?_⟩
      · exact congrArg (setCause .linePass) (changeSlot_quiet k .passed qc)
      · exact changeSlot_quiet k .free (purgeLane3_bus qc)
      · exact (queueSlot_quiet payload qc).trans (if_neg busy)
      · exact queueSlot_taken qc idle other none
  · intro w k kept quiet
    refine ⟨fun f fk j at_ => acceptFrame_cut fk kept quiet at_, fun st => ⟨changeSlot_quiet k st quiet, changeSlot_cut k st kept quiet⟩,
      ⟨writeLineStatus_quiet quiet, fun j at_ => writeLineStatus_cut kept quiet at_⟩, fun reason => ?_⟩
    intro counted
    have first (i : Nat) (answer : BusAnswer) : (w.withFailure i answer).lossCounted = counted.withFailure i answer := rfl
    have qc : counted.bus = [] := quiet
    refine ⟨reportLoss_quiet reason quiet, fun answer kind fails => ?_, fun empty => ?_⟩
    · rw [reportLoss_eq, first, noteFirstLoss_unread reason qc fails, writeLineStatus_quiet ((failureNoted_bus _ _ _ _ _).trans qc)]
      rfl
    · rw [reportLoss_eq, first, noteFirstLoss_cut reason kept qc empty, writeLineStatus_quiet ((cutShort_bus _ _ _ _ _ _).trans qc)]
      rfl

end Sys2Proof.Machine

/-! A settings read of which a word fails. -/

namespace Sys2Proof.Machine

/-! ## The exchange area -/

theorem toNat_exchange (w : Work) {k : Nat} (within : k < 65536) : (w.exchange k).toNat = w.port.segment.toNat * 65536 + k := by
  have base : w.exchangeBase.toNat = w.port.segment.toNat * 65536 := by
    unfold Work.exchangeBase
    rw [BitVec.toNat_append, Nat.shiftLeft_eq]
    exact Nat.or_zero _
  have segment := w.port.segment.isLt
  unfold Work.exchange addressPlus
  rw [BitVec.toNat_add, BitVec.toNat_ofNat, base]
  omega

theorem wordAddress_exchange (w : Work) {k : Nat} (within : k < 65536) (even : k % 2 = 0) :
    wordAddress (w.exchange k) = (w.exchange k).toNat := by
  refine wordAddress_of_even ?_
  rw [toNat_exchange w within]
  omega

theorem exchange_congr {w v : Work} (port : v.port = w.port) (k : Nat) : v.exchange k = w.exchange k := by
  unfold Work.exchange Work.exchangeBase
  rw [port]

/-! ## The header -/

section

variable {w : Work} {reason : SetupReason}

theorem writeHeader_quiet (reason : SetupReason) (q : w.bus = []) : writeHeader reason w = storeWords (w.headerWords reason) w := by
  unfold writeHeader
  rw [writeStationList_completes _ _ _ _ q]

/-- The words of the header lie in the first 32 octets of the exchange area (R179). -/
theorem headerWords_offset {c : Addr × Word} (mem : c ∈ w.headerWords reason) : ∃ k, k < 31 ∧ k % 2 = 0 ∧ c.1 = w.exchange k := by
  simp only [Work.headerWords, List.mem_cons, List.not_mem_nil, or_false] at mem
  obtain rfl | rfl | rfl | rfl | rfl | rfl | rfl | rfl | rfl | rfl | rfl | rfl | rfl := mem
  all_goals exact ⟨_, by decide, by decide, rfl⟩

theorem readWord_storeWords_last (l : List (Addr × Word)) (c : Addr × Word) (wf : w.mem.wf) :
    (storeWords (l ++ [c]) w).mem.readWord c.1 = c.2 := by
  rw [storeWords_append, storeWords_cons, storeWords_nil]
  exact Memory.readWord_writeWord_same _ _ _ ((storeWords_busOnly l w).wf wf)

/-- The setup reason is the last word of the header (R179). -/
theorem headerWords_last (reason : SetupReason) (w : Work) :
    ∃ l, w.headerWords reason = l ++ [(w.exchange 0x1E, reason.code)] :=
  ⟨(w.headerWords reason).take 12, rfl⟩

theorem readWord_setupReason (wf : w.mem.wf) :
    (storeWords (w.headerWords reason) w).mem.readWord (w.exchange 0x1E) = reason.code := by
  obtain ⟨l, last⟩ := headerWords_last reason w
  rw [last]
  exact readWord_storeWords_last l (w.exchange 0x1E, reason.code) wf

theorem read_header_other {x : Nat} (out : ∀ k, k < 32 → x ≠ (w.exchange k).toNat) :
    (storeWords (w.headerWords reason) w).mem.read x = w.mem.read x := by
  refine read_storeWords_other _ w x fun c mem => ?_
  obtain ⟨k, within, even, place⟩ := headerWords_offset mem
  have low : k < 65536 := by omega
  have next : (w.exchange (k + 1)).toNat = (w.exchange k).toNat + 1 := by
    rw [toNat_exchange w (show k + 1 < 65536 by omega), toNat_exchange w low, Nat.add_assoc]
  have first := out k (by omega)
  have second := out (k + 1) (by omega)
  rw [next] at second
  rw [place, wordAddress_exchange w low even]
  exact ⟨first, second⟩

/-- The engine is HALTED by a start that failed, and RUN is cleared (R177). -/
def Work.haltedBySetup (w : Work) : Work :=
  { setCause .setup w with port := { (setCause .setup w).port with run := false, engine := .halted } }

theorem haltedBySetup_hasCause {c : Cause} (has : w.hasCause c = true) : w.haltedBySetup.hasCause c = true := by
  unfold Work.hasCause at has ⊢
  show (setCause .setup w).cause.getLsbD _ = true
  rw [setCause_cause, BitVec.getLsbD_or, has, Bool.true_or]

theorem haltedBySetup_setup : w.haltedBySetup.hasCause .setup = true := setCause_hasCause .setup w

/-- The header is written with the reason, and then the start fails (R177). -/
theorem failStart_quiet (reason : SetupReason) (q : w.bus = []) :
    failStart reason w = (storeWords (w.headerWords reason) w).haltedBySetup := by
  unfold failStart
  rw [writeHeader_quiet reason q]
  generalize storeWords (w.headerWords reason) w = v
  rfl

end

/-! ## The end of the read -/

section

variable {s : State} {late : Option Bool}

theorem exec_settingsReadEnd (awake : s.awake) (starting : s.work.port.engine = .starting) :
    exec (.settingsReadEnd late) s = .next (endSettingsRead late s) := by
  show execSettingsReadEnd late s = _
  unfold execSettingsReadEnd
  rw [event_of_awake awake, if_pos starting]

theorem exec_settingsReadEnd_other (awake : s.awake) (other : s.work.port.engine ≠ .starting) :
    exec (.settingsReadEnd late) s = .next s := by
  show execSettingsReadEnd late s = _
  unfold execSettingsReadEnd
  rw [event_of_awake awake, if_neg other]

variable {result : Option (List Word)} {v : Work}
  (read : readStationList .engine none (wordRun (s.work.exchange 0x20) 16) s.work = (result, v))

include read

/-- A start with RUN 0 is abandoned (R175). -/
theorem endSettingsRead_abandoned (stopped : v.port.run = false) :
    endSettingsRead late s = { s with work := { v with port := { v.port with engine := .halted } } } := by
  unfold endSettingsRead
  rw [read]
  exact if_pos stopped

theorem endSettingsRead_unread (going : v.port.run = true) (unread : result = none) :
    endSettingsRead late s = { s with work := failStart .memory v } := by
  subst unread
  unfold endSettingsRead
  rw [read]
  exact if_neg (by rw [going]; nofun)

theorem endSettingsRead_read (going : v.port.run = true) {ws : List Word} (words : result = some ws) :
    endSettingsRead late s = checkSettings (settingsOf ws) late { s with work := v } := by
  subst words
  unfold endSettingsRead
  rw [read]
  exact if_neg (by rw [going]; nofun)

end

/-- Settles O54: the failed word is reported, and then the start fails or is abandoned. -/
theorem failedSettingsReadFailsTheStart : Obligations.FailedSettingsReadFailsTheStart := by
  unfold Obligations.FailedSettingsReadFailsTheStart
  intro s i answer kind late awake canonical at_ fails bus starting w1 a noted
  have work : s.work = w1.withFailure i answer := by
    unfold Work.withFailure
    rw [← bus]
  have place : (wordRun (s.work.exchange 0x20) 16)[i]'(by simp [wordRun, at_]) = a := by
    simp only [wordRun, List.getElem_map, List.getElem_range]
    exact addressPlus_addressPlus _ _ _
  have failed : w1.failureNoted kind 1 8 a = setCause .memory noted := rfl
  have read : readStationList .engine none (wordRun (s.work.exchange 0x20) 16) s.work = (none, setCause .memory noted) := by
    have end_ := readStationList_fails .engine none (wordRun (s.work.exchange 0x20) 16) i (by simp [wordRun, at_]) w1 rfl fails
    rw [place, ← work] at end_
    exact end_.trans (congrArg (Prod.mk none) failed)
  have only : Work.BusOnly w1 (setCause .memory noted) := failed ▸ failureNoted_busOnly kind 1 8 a w1
  have quiet : (setCause .memory noted).bus = [] := failed ▸ (failureNoted_bus kind 1 8 a w1)
  have run : (setCause .memory noted).port.run = s.work.port.run := congrArg Port.run only.port
  have segment (k : Nat) : (setCause .memory noted).exchange k = s.work.exchange k := exchange_congr (w := s.work) only.port k
  refine ⟨fun going => ?_, fun stopped => ?_⟩
  · have header := storeWords_busOnly ((setCause .memory noted).headerWords .memory) (setCause .memory noted)
    have reason : (storeWords ((setCause .memory noted).headerWords .memory) (setCause .memory noted)).mem.readWord
        ((setCause .memory noted).exchange 0x1E) = SetupReason.memory.code := readWord_setupReason (only.wf canonical)
    have rest {x : Nat} (out : ∀ k, k < 32 → x ≠ ((setCause .memory noted).exchange k).toNat) :
        (storeWords ((setCause .memory noted).headerWords .memory) (setCause .memory noted)).mem.read x =
          (setCause .memory noted).mem.read x := read_header_other out
    have memory : (storeWords ((setCause .memory noted).headerWords .memory) (setCause .memory noted)).hasCause .memory = true := by
      unfold Work.hasCause
      rw [storeWords_cause]
      exact setCause_hasCause .memory noted
    have ran := failStart_quiet .memory quiet
    generalize storeWords ((setCause .memory noted).headerWords .memory) (setCause .memory noted) = v at header reason rest memory ran
    refine ⟨{ s with work := v.haltedBySetup }, ?_, rfl, rfl, rfl, haltedBySetup_setup, haltedBySetup_hasCause memory,
      header.line.trans only.line, header.lanes.trans only.lanes, ?_, ?_, fun x out => ?_⟩
    · rw [exec_settingsReadEnd awake starting, endSettingsRead_unread read (run.trans going) rfl, ran]
    · exact (congrArg Port.fence header.port).trans (congrArg Port.fence only.port)
    · rw [segment] at reason
      exact reason
    · simp only [segment] at rest
      exact rest out
  · rw [exec_settingsReadEnd awake starting, endSettingsRead_abandoned read (run.trans stopped)]
    rfl

end Sys2Proof.Machine

/-! The end of a settings read: the checks, the spool reset, and the entry into RUNNING or HALTED. -/

namespace Sys2Proof.Machine

/-! ## Lane 3's RUNNING slot at a spool reset -/

section

variable {w : Work}

theorem lane3Running_iff : w.lane3Running = true ↔
    ∃ p rest, w.line.pendingSlots = p :: rest ∧ (w.laneOf 3).state.holdsBlock = true ∧ w.slotOf p.slot = .running := by
  unfold Work.lane3Running Work.heldSlot
  cases pending : w.line.pendingSlots with
  | nil => simp
  | cons p rest =>
    by_cases holds : (w.laneOf 3).state.holdsBlock = true
    · simp [holds]
    · simp [holds]

theorem runningCancelled_of_not (not : ¬w.lane3Running = true) : w.runningCancelled = w := if_neg not

theorem runningCancelled_of_running {p : PendingSlot} {rest : List PendingSlot} (q : w.bus = [])
    (pending : w.line.pendingSlots = p :: rest) (holds : (w.laneOf 3).state.holdsBlock = true) (running : w.slotOf p.slot = .running) :
    w.runningCancelled = (w.slotAfter .cancelled p rest).recorded 3 := by
  unfold Work.runningCancelled
  rw [if_pos (lane3Running_iff.mpr ⟨p, rest, pending, holds, running⟩), retireSlot_quiet q holds pending]
  exact faultCause_of_not_error rfl _

/-- The RUNNING slot's retire as the statement has it (R156). -/
theorem runningCancelled_eq (q : w.bus = []) : w.runningCancelled =
    match w.line.pendingSlots with
    | p :: _ => if (w.laneOf 3).state.holdsBlock = true ∧ w.slotOf p.slot = SlotState.running then w.slotRetired .cancelled else w
    | [] => w := by
  cases pending : w.line.pendingSlots with
  | nil =>
    refine runningCancelled_of_not fun running => ?_
    obtain ⟨p, rest, some, _⟩ := lane3Running_iff.mp running
    exact absurd (pending.symm.trans some) nofun
  | cons p rest =>
    dsimp only
    by_cases h : (w.laneOf 3).state.holdsBlock = true ∧ w.slotOf p.slot = SlotState.running
    · obtain ⟨holds, running⟩ := h
      rw [if_pos ⟨holds, running⟩, Work.runningCancelled, if_pos (lane3Running_iff.mpr ⟨p, rest, pending, holds, running⟩),
        retireSlot_slotRetired q holds pending]
    · rw [if_neg h]
      refine runningCancelled_of_not fun running => h ?_
      obtain ⟨r, more, some, holds, runs⟩ := lane3Running_iff.mp running
      rw [pending] at some
      cases some
      exact ⟨holds, runs⟩

theorem runningCancelled_bus (q : w.bus = []) : w.runningCancelled.bus = [] := by
  unfold Work.runningCancelled
  split
  · exact retireSlot_bus .cancelled q
  · exact q

theorem slotAfter_state (o : BlockOutcome) (p : PendingSlot) (rest : List PendingSlot) (w : Work) :
    ((w.slotAfter o p rest).laneOf 3).state ≠ .faulted := by
  unfold Work.slotAfter Work.slotTaken
  split
  · rw [Work.laneOf_modLane_same]
    nofun
  · rw [Work.laneOf_modLane_same]
    nofun

theorem slotAfter_activeLane (o : BlockOutcome) (p : PendingSlot) (rest : List PendingSlot) (other : w.activeLane ≠ some 3) :
    (w.slotAfter o p rest).activeLane = w.activeLane := by
  have same : ((w.slotResult o).slotGivenUp p.slot).activeLane = w.activeLane :=
    (activeLane_congr (slotGivenUp_lanes p.slot _)).trans (slotResult_activeLane o w)
  unfold Work.slotAfter
  rw [release_of_other (by rw [same]; exact other)]
  unfold Work.slotTaken
  split
  · exact same
  · exact same

/-- Lane 3 is FAULTED behind the cancel just where it was before it. -/
theorem runningCancelled_faulted (q : w.bus = []) :
    (w.runningCancelled.laneOf 3).state = .faulted ↔ (w.laneOf 3).state = .faulted := by
  by_cases running : w.lane3Running = true
  · obtain ⟨p, rest, pending, holds, runs⟩ := lane3Running_iff.mp running
    rw [runningCancelled_of_running q pending holds runs, recorded_laneOf]
    refine iff_of_false (slotAfter_state _ _ _ _) fun faulted => ?_
    rw [faulted] at holds
    cases holds
  · rw [runningCancelled_of_not running]

theorem runningCancelled_activeLane (q : w.bus = []) (other : w.activeLane ≠ some 3) : w.runningCancelled.activeLane ≠ some 3 := by
  by_cases running : w.lane3Running = true
  · obtain ⟨p, rest, pending, holds, runs⟩ := lane3Running_iff.mp running
    have lanes : ((w.slotAfter .cancelled p rest).recorded 3).activeLane = (w.slotAfter .cancelled p rest).activeLane :=
      activeLane_congr (storeWords_lanes _ _)
    rw [runningCancelled_of_running q pending holds runs, lanes, slotAfter_activeLane _ _ _ other]
    exact other
  · rw [runningCancelled_of_not running]
    exact other

end

/-! ## The spool reset -/

/-- The slots are discarded, and lane 3, unless it was FAULTED, is IDLE with its record written (R156). -/
def Work.spoolEmptied (faulted : Prop) [Decidable faulted] (w : Work) : Work :=
  if faulted then w.modLine LineReceiver.discarded
  else ((w.modLine LineReceiver.discarded).modLane 3 (Lane.without .idle 0)).recorded 3

/-- The geometry is in force, every state word reads 0, and the expected sequence is NONE (R156). -/
def Work.spoolCleared (sp : Spool) (w : Work) : Work :=
  let cleared := storeWords ((List.range sp.count).map fun k => (addressPlus sp.base (k * sp.size), 0))
    { w with line := { w.line with spool := some sp } }
  { cleared with line := { cleared.line with expected := none } }

section

variable {w : Work} {sp : Spool}

theorem discardOldSpool_eq (w : Work) : discardOldSpool w = if (w.runningCancelled.laneOf 3).state = .faulted
    then w.runningCancelled.modLine LineReceiver.discarded else idleLane3 (w.runningCancelled.modLine LineReceiver.discarded) := rfl

theorem idleLane3_quiet (q : w.bus = []) : idleLane3 w = (w.leaveBlock 3 .idle 0).recorded 3 :=
  writeLaneRecord_quiet 3 0 (leaveBlock_bus 3 _ _ q)

theorem discardOldSpool_quiet (q : w.bus = []) (other : w.activeLane ≠ some 3) :
    discardOldSpool w = w.runningCancelled.spoolEmptied ((w.laneOf 3).state = .faulted) := by
  rw [discardOldSpool_eq, Work.spoolEmptied, idleLane3_quiet (by exact runningCancelled_bus q), leaveBlock_release,
    release_of_other (by exact runningCancelled_activeLane q other)]
  by_cases faulted : (w.laneOf 3).state = .faulted
  · rw [if_pos faulted, if_pos ((runningCancelled_faulted q).mpr faulted)]
  · rw [if_neg faulted, if_neg (mt (runningCancelled_faulted q).mp faulted)]

theorem discardOldSpool_bus (q : w.bus = []) : (discardOldSpool w).bus = [] := by
  have discarded : (w.runningCancelled.modLine LineReceiver.discarded).bus = [] := runningCancelled_bus q
  rw [discardOldSpool_eq, idleLane3_quiet discarded]
  split
  · exact discarded
  · exact recorded_bus 3 (leaveBlock_bus 3 _ _ discarded)

theorem spoolEmptied_slots (faulted : Prop) [Decidable faulted] (w : Work) :
    (w.spoolEmptied faulted).line.slots = Vector.replicate 32 .free := by
  unfold Work.spoolEmptied
  split
  · rfl
  · exact congrArg LineReceiver.slots (storeWords_line _ _)

/-! ## The slots' state words -/

/-- A FREE slot that becomes FREE has its state word written and nothing else (R155). -/
theorem slotChanged_free (spool : w.line.spool = some sp) (free : w.line.slots = Vector.replicate 32 .free) (k : SlotNo) :
    w.slotChanged k .free = storeWord (sp.slotAddress k) 0 w := by
  have address : w.slotAddress k = sp.slotAddress k := by
    unfold Work.slotAddress
    simp only [spool]
  have slots : w.line.slots.set k.val .free = w.line.slots := by
    rw [free]
    refine Vector.ext fun i less => ?_
    rw [Vector.getElem_set, Vector.getElem_replicate, ite_self]
  have same : w.setSlot k .free = w := by
    unfold Work.setSlot
    rw [slots]
  unfold Work.slotChanged
  rw [same, address]
  rfl

theorem foldl_changeSlot_free (l : List SlotNo) {w : Work} (q : w.bus = []) (spool : w.line.spool = some sp)
    (free : w.line.slots = Vector.replicate 32 .free) :
    l.foldl (fun w k => changeSlot k .free w) w = storeWords (l.map fun k => (sp.slotAddress k, 0)) w := by
  induction l generalizing w with
  | nil => rfl
  | cons k rest ih =>
    rw [List.foldl_cons, List.map_cons, storeWords_cons, changeSlot_quiet k .free q, slotChanged_free spool free k]
    exact ih q spool free

theorem range_filter_lt {c n : Nat} (within : c ≤ n) : (List.range n).filter (fun k => decide (k < c)) = List.range c := by
  induction n with
  | zero =>
    obtain rfl : c = 0 := by omega
    rfl
  | succ n ih =>
    rw [List.range_succ, List.filter_append]
    by_cases whole : c = n + 1
    · subst whole
      rw [List.range_succ, List.filter_eq_self.mpr fun k mem => by simpa using Nat.lt_succ_of_lt (List.mem_range.mp mem)]
      simp
    · rw [ih (by omega)]
      simp
      omega

/-- The slots of a spool by number. -/
theorem Spool.slots_val (within : sp.count ≤ 32) : sp.slots.map (fun k => k.val) = List.range sp.count := by
  rw [← range_filter_lt within, ← List.map_coe_finRange_eq_range, List.filter_map]
  rfl

theorem freshSpool_quiet (within : sp.count ≤ 32) (q : w.bus = []) (free : w.line.slots = Vector.replicate 32 .free) :
    freshSpool sp w = w.spoolCleared sp := by
  have words : (sp.slots.map fun k => (sp.slotAddress k, (0 : Word))) =
      (List.range sp.count).map fun k => (addressPlus sp.base (k * sp.size), 0) := by
    rw [← Spool.slots_val within, List.map_map]
    rfl
  unfold freshSpool
  rw [foldl_changeSlot_free sp.slots (w := w.modLine fun l => { l with spool := some sp }) q rfl free, words]
  rfl

theorem foldl_changeSlot_bus (l : List SlotNo) {w : Work} (q : w.bus = []) :
    (l.foldl (fun w k => changeSlot k .free w) w).bus = [] := by
  induction l generalizing w with
  | nil => exact q
  | cons k rest ih =>
    rw [List.foldl_cons, changeSlot_quiet k .free q]
    exact ih (slotChanged_bus k .free q)

theorem takeGeometry_bus (q : w.bus = []) : (takeGeometry sp w).bus = [] := by
  unfold takeGeometry
  split
  · exact q
  · exact foldl_changeSlot_bus sp.slots (by exact discardOldSpool_bus q)

theorem takeGeometry_of_same (same : w.line.spool = some sp) : takeGeometry sp w = w := if_pos same

/-- Another geometry, or the first (R156). -/
theorem takeGeometry_of_other (q : w.bus = []) (another : w.line.spool ≠ some sp) (other : w.activeLane ≠ some 3)
    (within : sp.count ≤ 32) :
    takeGeometry sp w = (w.runningCancelled.spoolEmptied ((w.laneOf 3).state = .faulted)).spoolCleared sp := by
  have bus := discardOldSpool_bus q
  unfold takeGeometry
  rw [if_neg another]
  rw [discardOldSpool_quiet q other] at bus ⊢
  exact freshSpool_quiet within bus (spoolEmptied_slots _ _)

end

end Sys2Proof.Machine

/-! The end of a settings read whose words were all read: the checks, the start that fails, and the start that completes. -/

namespace Sys2Proof.Machine

/-! ## The checks -/

section

variable {t : Settings}

theorem Settings.fenceOk_iff : t.fenceOk = true ↔
    t.fenceLow.toNat % 2 = 0 ∧ t.fenceHigh.toNat % 2 = 0 ∧ t.fenceLow.toNat < t.fenceHigh.toNat := by
  simp only [Settings.fenceOk, addressEven, Bool.and_eq_true, decide_eq_true_eq, and_assoc]

theorem Settings.spoolOk_iff : t.spoolOk = true ↔
    2 ≤ t.slotCount ∧ t.slotCount ≤ 32 ∧ t.slotSize % 64 = 0 ∧ 64 ≤ t.slotSize ∧ t.slotSize ≤ 1024 ∧ t.spoolBase.toNat % 64 = 0 ∧
      t.fenceLow.toNat ≤ t.spoolBase.toNat ∧ t.spoolBase.toNat + t.slotCount * t.slotSize ≤ t.fenceHigh.toNat := by
  simp only [Settings.spoolOk, Bool.and_eq_true, decide_eq_true_eq, and_assoc]

theorem Settings.failedCheck_budget (wrong : ¬t.budgetCode ≤ 3) : t.failedCheck = some .budget := if_pos (Nat.lt_of_not_le wrong)

variable (budget : t.budgetCode ≤ 3)

include budget

theorem Settings.failedCheck_fence (wrong : ¬t.fenceOk = true) : t.failedCheck = some .fence := by
  rw [Settings.failedCheck, if_neg (Nat.not_lt.mpr budget), if_pos (Bool.eq_false_iff.mpr wrong)]

variable (fence : t.fenceOk = true)

include fence

theorem Settings.failedCheck_spool (wrong : ¬t.spoolOk = true) : t.failedCheck = some .spool := by
  rw [Settings.failedCheck, if_neg (Nat.not_lt.mpr budget), if_neg (by rw [fence]; nofun), if_pos (Bool.eq_false_iff.mpr wrong)]

theorem Settings.failedCheck_passed (spool : t.spoolOk = true) : t.failedCheck = none := by
  rw [Settings.failedCheck, if_neg (Nat.not_lt.mpr budget), if_neg (by rw [fence]; nofun), if_neg (by rw [spool]; nofun)]

end

theorem budgetOfCode_eq {code : Nat} (legal : code ≤ 3) : budgetOfCode code = 16 * 2 ^ code := by
  interval_cases code <;> rfl

/-! ## A start that completes -/

section

variable {w : Work} {t : Settings} {late : Option Bool}

/-- The settings in force (R175). -/
def Work.withSettings (t : Settings) (w : Work) : Work := { w with
  port := { w.port with fence := some { low := t.fenceLow, high := t.fenceHigh } }
  line := { w.line with settings := some t.line } }

/-- The header and the line status record of a start that completes (R176). -/
def Work.startWritten (w : Work) : Work := (storeWords (w.headerWords .none) w).statusWritten

/-- The entry into HALTED of a start whose RUN was written 0 late (R176). -/
def Work.startHalted (w : Work) : Work := { w with port := { w.port with run := false, engine := .halted } }

/-- The entry into RUNNING (R176). -/
def Work.startRunning (w : Work) : Work :=
  let acted := actOnAllPending { w with port := { w.port with run := true, engine := .running } }
  settleLanes (if acted.port.lineOn then lineHunt acted else acted)

theorem startWritten_quiet (q : w.bus = []) : writeLineStatus (writeHeader .none w) = w.startWritten := by
  rw [writeHeader_quiet .none q]
  exact writeLineStatus_quiet ((storeWords_bus _ w).trans q)

theorem startWritten_run (w : Work) : w.startWritten.port.run = w.port.run :=
  congrArg Port.run ((storeWords_port _ _).trans (storeWords_port _ w))

theorem takeGeometry_run (sp : Spool) (w : Work) : (takeGeometry sp w).port.run = w.port.run := by
  rw [(takeGeometry_kept sp w).port]

/-- RUN decides between RUNNING and HALTED behind the records of the start (R176). -/
def Work.startDecided (late : Option Bool) (w : Work) : Work :=
  let looked := w.modPort fun p => { p with run := late.getD p.run }
  if looked.port.run then enterRunning looked else looked.modPort fun p => { p with engine := .halted }

theorem completeStart_eq (t : Settings) (late : Option Bool) (w : Work) : completeStart t late w =
    (writeLineStatus (writeHeader .none (takeGeometry t.spool (w.withSettings t)))).startDecided late := rfl

theorem startDecided_halted (w : Work) : w.startDecided (some false) = w.startHalted := rfl

theorem startDecided_running (run : w.port.run = true) (going : late ≠ some false) : w.startDecided late = w.startRunning := by
  have value : late.getD w.port.run = true := by
    rw [run]
    obtain lacks | value := late
    · rfl
    · cases value with
      | true => rfl
      | false => exact absurd rfl going
  have port : (({ w with port := { w.port with run := true } } : Work).modPort fun p => { p with engine := .running }) =
      { w with port := { w.port with run := true, engine := .running } } := rfl
  have looked : (w.modPort fun p => { p with run := late.getD p.run }) = { w with port := { w.port with run := true } } := by
    rw [← value]
    rfl
  unfold Work.startDecided
  rw [looked]
  dsimp only
  rw [if_pos rfl]
  unfold enterRunning Work.startRunning
  rw [port]

theorem completeStart_halted (q : w.bus = []) :
    completeStart t (some false) w = (takeGeometry t.spool (w.withSettings t)).startWritten.startHalted := by
  rw [completeStart_eq, startWritten_quiet (takeGeometry_bus (w := w.withSettings t) q), startDecided_halted]

theorem completeStart_running (q : w.bus = []) (run : w.port.run = true) (going : late ≠ some false) :
    completeStart t late w = (takeGeometry t.spool (w.withSettings t)).startWritten.startRunning := by
  have kept : (takeGeometry t.spool (w.withSettings t)).startWritten.port.run = true :=
    (startWritten_run _).trans ((takeGeometry_run t.spool _).trans run)
  rw [completeStart_eq, startWritten_quiet (takeGeometry_bus (w := w.withSettings t) q), startDecided_running kept going]

end

/-! ## The words of the record -/

/-- The settings read of a bus on which every access completes. -/
theorem readStationList_settings {w : Work} {ws : List Word} (q : w.bus = []) (sixteen : ws.length = 16)
    (words : ∀ i, (h : i < ws.length) → w.mem.readWord (w.exchange (0x20 + 2 * i)) = ws[i]) :
    readStationList .engine none (wordRun (w.exchange 0x20) 16) w = (some ws, w) := by
  have read : (wordRun (w.exchange 0x20) ws.length).map w.mem.readWord = ws := by
    refine map_readWord_wordRun w.mem (w.exchange 0x20) ws fun i less => ?_
    have place : addressPlus (w.exchange 0x20) (2 * i) = w.exchange (0x20 + 2 * i) := addressPlus_addressPlus _ _ _
    rw [place]
    exact words i less
  rw [sixteen] at read
  rw [readStationList_completes _ _ _ _ q, read]

theorem checkSettings_failed {t : Settings} {late : Option Bool} {s : State} {reason : SetupReason} (q : s.work.bus = [])
    (failed : t.failedCheck = some reason) : checkSettings t late s =
      { s with work := (storeWords (s.work.headerWords reason) s.work).haltedBySetup } := by
  unfold checkSettings
  rw [failed]
  exact congrArg (fun w => ({ s with work := w } : State)) (failStart_quiet reason q)

theorem checkSettings_passed {t : Settings} {late : Option Bool} {s : State} (passed : t.failedCheck = none) :
    checkSettings t late s = { s with panel := takeBudget t s.panel, work := completeStart t late s.work } := by
  unfold checkSettings
  rw [passed]
  rfl

/-- Settles O53: the abandoned start, each check that fails, the start that completes, and the spool reset. -/
theorem settingsReadEndCompletesOrFailsTheStart : Obligations.SettingsReadEndCompletesOrFailsTheStart := by
  unfold Obligations.SettingsReadEndCompletesOrFailsTheStart
  intro s late ws awake quiet sixteen words word low high sp header fails budgetOk fenceOk spoolOk
  have read := readStationList_settings quiet sixteen words
  refine ⟨exec_settingsReadEnd_other awake, fun starting stopped => ?_, fun starting run => ?_, fun w => takeGeometry_of_same,
    fun w q another other ok => ?_, fun _ => rfl⟩
  · rw [exec_settingsReadEnd awake starting, endSettingsRead_abandoned read stopped]
    rfl
  · have ends : exec (.settingsReadEnd late) s = .next (checkSettings (settingsOf ws) late s) := by
      rw [exec_settingsReadEnd awake starting, endSettingsRead_read read run rfl]
    have haltedAfter (g : Work → Work) : ({ s with work := (g s.work).haltedBySetup } : State) = s.onWork fun w =>
        let w1 := setCause .setup (g w)
        { w1 with port := { w1.port with run := false, engine := .halted } } := rfl
    have headed (reason : SetupReason) (w : Work) : storeWords (w.headerWords reason) w = header reason.code w := rfl
    have failing {reason : SetupReason} {code : Word} (named : reason.code = code)
        (failed : (settingsOf ws).failedCheck = some reason) : fails code := by
      subst named
      have checked := checkSettings_failed (late := late) quiet failed
      rw [headed] at checked
      exact ends.trans (congrArg Host.Outcome.next (checked.trans (haltedAfter (header reason.code))))
    have fence : (settingsOf ws).fenceOk = true ↔ fenceOk := Settings.fenceOk_iff
    have spool : (settingsOf ws).spoolOk = true ↔ spoolOk := Settings.spoolOk_iff
    refine ⟨fun wrong => failing rfl (Settings.failedCheck_budget wrong),
      fun budget wrong => failing rfl (Settings.failedCheck_fence budget (mt fence.mp wrong)),
      fun budget right wrong => failing rfl (Settings.failedCheck_spool budget (fence.mpr right) (mt spool.mp wrong)),
      fun budget right ok => ?_⟩
    intro group inForce w1 budgeted written halted acted running
    have passed := checkSettings_passed (late := late) (s := s) (Settings.failedCheck_passed budget (fence.mpr right) (spool.mpr ok))
    have panel : takeBudget (settingsOf ws) s.panel = budgeted := by
      unfold takeBudget
      rw [budgetOfCode_eq (code := (settingsOf ws).budgetCode) budget]
      rfl
    have geometry : takeGeometry (settingsOf ws).spool (s.work.withSettings (settingsOf ws)) = takeGeometry sp w1 := rfl
    have records : (takeGeometry sp w1).startWritten = written := congrArg Work.statusWritten (headed .none (takeGeometry sp w1))
    rw [ends, passed, panel]
    refine ⟨fun stopped => ?_, fun going => ?_⟩
    · rw [stopped, completeStart_halted quiet, geometry, records]
      rfl
    · rw [completeStart_running quiet run going, geometry, records]
      rfl
  · obtain ⟨_, within, _⟩ := ok
    have cancelled := congrArg (fun v : Work => (v.spoolEmptied ((w.laneOf 3).state = .faulted)).spoolCleared sp)
      (runningCancelled_eq q)
    exact (takeGeometry_of_other q another other within).trans cancelled

end Sys2Proof.Machine
